-- ==== Sys2Proof/Word.lean ====
section
/-! DEFINITION. The word types of the machine (spec 00 R4, R5; 04 R85) and their plainest arithmetic. -/

namespace Sys2Proof

/-- A 32-bit register word (R85). -/
abbrev Word := BitVec 32
/-- A 64-bit pair or address (R86, R140). -/
abbrev Dword := BitVec 64
/-- A byte of memory (R5). -/
abbrev Byte := BitVec 8
/-- One bit for each of the 96 lanes of a group (R20). -/
abbrev LaneMask := BitVec 96
/-- One bit for each of the 24 quads of a group (R20). -/
abbrev QuadMask := BitVec 24

/-- Lanes of a group (R20). -/
def numLanes : Nat := 96

/-- Bytes of one line of every cache, of the scratchpad and of the coalescer (R5). -/
def lineBytes : Nat := 128

end Sys2Proof
end

