-- ==== Sys2Proof/Syntax.lean ====
section
/-! DEFINITION. The instruction set as syntax: operands (spec 10 R243), the fields every word carries
(R237, R245 to R249), and one constructor for each row of the opcode table: the 159 instructions of
spec/11 R259 and the 83 device events. -/

namespace Sys2Proof

/-- An operand code of 9 bits (R243). `int n` is the constant n − 16 and `flt n` entry 0x0F0 + n of
R244; `bad` holds a code that is no operand. -/
inductive Opnd where
  | v (n : BitVec 7)
  | s (n : BitVec 6)
  | o (n : BitVec 3)
  | lt0 | lt1 | zero | lane | quad
  | int (n : BitVec 5)
  | flt (n : BitVec 4)
  | bad (code : BitVec 9)
  deriving DecidableEq, Repr

/-- A P field (R268): a predicate number, a negate bit and five bits that are zero. -/
structure PField where
  hi : BitVec 5
  neg : Bool
  num : BitVec 3
  deriving DecidableEq, Repr

/-- A guard (R245). -/
structure Guard where
  neg : Bool
  num : BitVec 3
  deriving DecidableEq, Repr

/-- The fields every format carries (R237, R241): the two guards, the stall count and the yield bit. -/
structure Hdr where
  g0 : Guard
  g1 : Guard
  stall : BitVec 4
  yield : Bool
  deriving DecidableEq, Repr

/-- The source modifier bits (R246). -/
structure Mods where
  negA : Bool
  absA : Bool
  negB : Bool
  absB : Bool
  negC : Bool
  absC : Bool
  deriving DecidableEq, Repr

/-- The destination modifiers of classes 0x3 and 0x4 (R247). -/
structure DMod where
  clamp : BitVec 2
  scale : BitVec 3
  deriving DecidableEq, Repr

/-- Integer types (R252). -/
inductive ITy where
  | i32 | n32 | i16 | n16 | i8 | n8
  deriving DecidableEq, Repr

/-- Float types (R252). -/
inductive FTy where
  | f32 | f64 | h2 | b2
  deriving DecidableEq, Repr

/-- Conditions (R260). -/
inductive Cond where
  | eq | ne | lt | le | gt | ge | num | nan
  deriving DecidableEq, Repr

/-- Access sizes (R262). -/
inductive Size where
  | b8 | b16 | b32 | b64 | b128 | s8 | s16
  deriving DecidableEq, Repr

/-- Atomic operations (R262). -/
inductive AOp where
  | add | min | max | and | or | xor | exch | cas
  deriving DecidableEq, Repr

/-- Data types of atomics (R262). -/
inductive ATy where
  | n32 | i32 | n64 | i64 | f32
  deriving DecidableEq, Repr

/-- Access kinds (R170). -/
inductive AKind where
  | plain | rlx | acq | rel | ar
  deriving DecidableEq, Repr

/-- The ordering of a global access: its kind, and whether its scope is POD rather than DEV (R261).
A plain access has `pod = false`. -/
structure MOrd where
  kind : AKind
  pod : Bool
  deriving DecidableEq, Repr

/-- Scopes of fences (R263). -/
inductive Scope where
  | grp | core | dev | pod
  deriving DecidableEq, Repr

/-- Scopes of barriers (R263). -/
inductive BScope where
  | blk | bench | launch
  deriving DecidableEq, Repr

/-- The in-flight paths (R154, R263). -/
inductive Path where
  | g | s | c | m | f
  deriving DecidableEq, Repr

/-- Kinds of `FENCE` (R263). -/
inductive FKind where
  | acq | rel | ar
  deriving DecidableEq, Repr

/-- Body formats of split records (R264). -/
inductive Body where
  | q3 | q4 | v2
  deriving DecidableEq, Repr

/-- The four `SHFL` forms (R274). -/
inductive ShflOp where
  | lane | sub | add | bfly
  deriving DecidableEq, Repr

/-- The `QXCHG` forms (R274). -/
inductive QxOp where
  | x | y | d
  deriving DecidableEq, Repr

/-- The forms of `VOTE` with their destinations (R274). -/
inductive VoteForm where
  | some (pd : PField)
  | every (pd : PField)
  | same (pd : PField)
  | cnt (d : Opnd)
  deriving DecidableEq, Repr

/-- Operations of `REDG` (R274). -/
inductive RedOp where
  | add | min | max | and | or | xor
  deriving DecidableEq, Repr

/-- Operations of `SCANG` (R274). -/
inductive ScanOp where
  | add | min | max | or
  deriving DecidableEq, Repr

/-- Modes of `FRND` (R289). -/
inductive RndSel where
  | cur | rne | rz | ru | rd
  deriving DecidableEq, Repr

/-- Forms of `CCTL` (R309). -/
inductive CctlOp where
  | wb | inv | wball | invall
  deriving DecidableEq, Repr

/-- Conditions of `WAITM` (R318). -/
inductive WCond where
  | eq | ne | ge | lt
  deriving DecidableEq, Repr

/-- Transfer sizes of `CPY`, `CPYC` and `RCPY` (R314, R339). -/
inductive XSize where
  | x4 | x8 | x16
  deriving DecidableEq, Repr

/-- Destination formats of `TCVT` (R264). -/
inductive TFmt where
  | f32 | bf16 | fp16
  deriving DecidableEq, Repr

/-- Selectors of `QSTAT` (R347). -/
inductive QSel where
  | inj | cons | lost | wave
  deriving DecidableEq, Repr

/-- Operation and drain of `COLL` (R348). -/
inductive CollOp where
  | sum (bf16 : Bool)
  | max (bf16 : Bool)
  | stat
  | statNorm (sample : Bool)
  deriving DecidableEq, Repr

/-- Scopes of `TLBINV` (R354). -/
inductive TlbScope where
  | va | ctx | all
  deriving DecidableEq, Repr

/-- A launch, by its queue and full 32-bit sequence number (R56). -/
structure LaunchRef where
  queue : Nat
  seq : Nat
  deriving DecidableEq, Repr

/-- A block of a launch (R20). -/
structure BlockRef where
  launch : LaunchRef
  block : Nat
  deriving DecidableEq, Repr

/-- A group of a block (R20). -/
structure GroupRef where
  block : BlockRef
  group : Nat
  deriving DecidableEq, Repr

/-- A logical core of a die (R11). -/
structure CoreId where
  die : Nat
  core : Nat
  deriving DecidableEq, Repr

/-- One chunk of a collective (R210, R213): its round, pass, index and flag set, the bytes that it moves for an element,
present or absent (R214, R365), and its elements, an absent one being `none`; each present element is its list of words. -/
structure Chunk where
  round : Nat
  gather : Bool
  index : Nat
  flags : BitVec 7
  width : Nat
  elems : List (Option (List Word))
  deriving DecidableEq, Repr

/-- What a fabric request asks (R190). `addr` is a virtual address of the target context. A chunk goes as one write for
each line of its slot, which stands at `addr`: line `k`. -/
inductive PktBody where
  | read (addr : Dword) (len : Nat)
  | write (bytes : List (Dword × Byte))
  | atomic (op : AOp) (ty : ATy) (addr data cmp : Dword) (returns : Bool)
  | message (inbox : Nat) (tag : Word) (payload : List Word)
  | chunk (addr : Dword) (c : Chunk) (k : Nat)
  | notice (addr : Dword) (head : Dword)
  deriving DecidableEq, Repr

/-- One fabric request (R190, R193, R197): who sends it to whom, its place in the sender's sequence to
that peer, the job, the tenant key and class it carries, and the port that it travels through here: 128 stands for the
way back inside the package. -/
structure Packet where
  src : Nat
  dst : Nat
  seq : Nat
  job : Nat
  key : Dword
  cls : Nat
  port : Nat
  body : PktBody
  deriving DecidableEq, Repr

/-- What the management controller reads from its sensors (R17, R228): the projected core draw and the
package draw in mW, the hottest junction in tenths of a degree, and the coolant inlet temperature. -/
structure Sensors where
  coreDraw : Nat
  package : Nat
  junction : Nat
  inlet : Nat
  consumers : List Nat
  deriving DecidableEq, Repr

/-- The rows of the opcode table. -/
inductive Instr where
  -- class 0x0 (R271)
  | iadd (h : Hdr) (m : Mods) (t : ITy) (sat : Bool) (d a b : Opnd)
  | isub (h : Hdr) (m : Mods) (t : ITy) (sat : Bool) (d a b : Opnd)
  | iadd3 (h : Hdr) (m : Mods) (t : ITy) (sat : Bool) (d a b c : Opnd)
  | iaddc (h : Hdr) (m : Mods) (d a b : Opnd) (pc pe : PField)
  | isubb (h : Hdr) (m : Mods) (d a b : Opnd) (pc pe : PField)
  | imul (h : Hdr) (m : Mods) (t : ITy) (sat : Bool) (d a b : Opnd)
  | imulh (h : Hdr) (m : Mods) (t : ITy) (d a b : Opnd)
  | imad (h : Hdr) (m : Mods) (t : ITy) (sat : Bool) (d a b c : Opnd)
  | imadw (h : Hdr) (m : Mods) (t : ITy) (d a b c : Opnd)
  | imin (h : Hdr) (m : Mods) (t : ITy) (d a b : Opnd)
  | imax (h : Hdr) (m : Mods) (t : ITy) (d a b : Opnd)
  | iabs (h : Hdr) (m : Mods) (t : ITy) (sat : Bool) (d a : Opnd)
  | isad (h : Hdr) (m : Mods) (t : ITy) (d a b c : Opnd)
  | idot4 (h : Hdr) (m : Mods) (t : ITy) (sat : Bool) (d a b c : Opnd)
  | lea (h : Hdr) (m : Mods) (t : ITy) (k : BitVec 3) (d a b : Opnd)
  | iadd64 (h : Hdr) (m : Mods) (d a b : Opnd)
  | isub64 (h : Hdr) (m : Mods) (d a b : Opnd)
  | mov (h : Hdr) (m : Mods) (w64 : Bool) (d a : Opnd)
  | movi (h : Hdr) (w64 : Bool) (d : Opnd) (imm : Word)
  -- class 0x1 (R272)
  | and (h : Hdr) (d a b : Opnd)
  | or (h : Hdr) (d a b : Opnd)
  | xor (h : Hdr) (d a b : Opnd)
  | andn (h : Hdr) (d a b : Opnd)
  | lop3 (h : Hdr) (lut : BitVec 8) (d a b c : Opnd)
  | shl (h : Hdr) (w64 : Bool) (d a b : Opnd)
  | shr (h : Hdr) (w64 : Bool) (d a b : Opnd)
  | sar (h : Hdr) (w64 : Bool) (d a b : Opnd)
  | fshl (h : Hdr) (d a b c : Opnd)
  | fshr (h : Hdr) (d a b c : Opnd)
  | rotl (h : Hdr) (d a b : Opnd)
  | bfe (h : Hdr) (t : ITy) (d a b c : Opnd)
  | bfi (h : Hdr) (d a b c e : Opnd)
  | brev (h : Hdr) (d a : Opnd)
  | popc (h : Hdr) (d a : Opnd)
  | clz (h : Hdr) (d a : Opnd)
  | ctz (h : Hdr) (d a : Opnd)
  | prmt (h : Hdr) (d a b c : Opnd)
  -- class 0x2 (R273)
  | icmp (h : Hdr) (m : Mods) (cond : Cond) (t : ITy) (pd : PField) (a b : Opnd) (pq : PField)
  | fcmp (h : Hdr) (m : Mods) (cond : Cond) (ft : FTy) (pd : PField) (a b : Opnd) (pq : PField)
  | sel (h : Hdr) (m : Mods) (d a b : Opnd) (pq : PField)
  | pset (h : Hdr) (lut : BitVec 8) (pd pa pb pc : PField)
  | pmovs (h : Hdr) (d : Opnd) (pa : PField)
  | pmovp (h : Hdr) (m : Mods) (pd : PField) (a : Opnd)
  -- class 0x6 (R274)
  | qxchg (h : Hdr) (op : QxOp) (d a : Opnd)
  | qbcst (h : Hdr) (k : BitVec 2) (d a : Opnd)
  | qhelp (h : Hdr) (on : Bool)
  | shfl (h : Hdr) (op : ShflOp) (d a b : Opnd)
  | vote (h : Hdr) (form : VoteForm) (pa : PField)
  | redg (h : Hdr) (op : RedOp) (t : ITy) (d a : Opnd)
  | scang (h : Hdr) (op : ScanOp) (ex : Bool) (t : ITy) (d a : Opnd)
  | zscan (h : Hdr) (f : Bool) (d a sc : Opnd)
  | rdlane (h : Hdr) (d a b : Opnd)
  | wrlane (h : Hdr) (d a b : Opnd)
  -- class 0x7 (R277)
  | bra (h : Hdr) (soff : BitVec 32)
  | brx (h : Hdr) (a : Opnd)
  | call (h : Hdr) (link : Opnd) (soff : BitVec 32)
  | callx (h : Hdr) (link a : Opnd)
  | ret (h : Hdr) (a : Opnd)
  | regang (h : Hdr) (a : Opnd)
  | exit (h : Hdr)
  | yield (h : Hdr)
  | nop (h : Hdr)
  | trap (h : Hdr) (n : BitVec 8)
  | bar (h : Hdr) (sc : BScope) (a : Opnd)
  | bara (h : Hdr) (sc : BScope) (a : Opnd)
  | barw (h : Hdr) (sc : BScope) (a : Opnd)
  | hret (h : Hdr)
  | hset (h : Hdr) (a b c : Opnd)
  | hmask (h : Hdr) (set : Bool)
  -- class 0x3 (R287)
  | fadd (h : Hdr) (m : Mods) (dm : DMod) (ft : FTy) (d a b : Opnd)
  | fsub (h : Hdr) (m : Mods) (dm : DMod) (ft : FTy) (d a b : Opnd)
  | fmul (h : Hdr) (m : Mods) (dm : DMod) (ft : FTy) (d a b : Opnd)
  | ffma (h : Hdr) (m : Mods) (dm : DMod) (ft : FTy) (d a b c : Opnd)
  | fmin (h : Hdr) (m : Mods) (dm : DMod) (ft : FTy) (d a b : Opnd)
  | fmax (h : Hdr) (m : Mods) (dm : DMod) (ft : FTy) (d a b : Opnd)
  | frnd (h : Hdr) (m : Mods) (dm : DMod) (rm : RndSel) (ft : FTy) (d a : Opnd)
  | fclass (h : Hdr) (m : Mods) (ft : FTy) (d a : Opnd)
  | fscale (h : Hdr) (m : Mods) (dm : DMod) (ft : FTy) (d a b : Opnd)
  | fdot2 (h : Hdr) (m : Mods) (dm : DMod) (ft : FTy) (d a b c : Opnd)
  -- class 0x4 (R291, R296)
  | fcvt (h : Hdr) (m : Mods) (dm : DMod) (hi : Bool) (dft sft : FTy) (d a : Opnd)
  | i2f (h : Hdr) (m : Mods) (dm : DMod) (dft : FTy) (it : ITy) (d a : Opnd)
  | f2i (h : Hdr) (m : Mods) (scale : BitVec 3) (it : ITy) (sft : FTy) (d a : Opnd)
  | packh (h : Hdr) (m : Mods) (dm : DMod) (ft : FTy) (d a b : Opnd)
  | frcp (h : Hdr) (m : Mods) (dm : DMod) (ft : FTy) (d a : Opnd)
  | frsq (h : Hdr) (m : Mods) (dm : DMod) (ft : FTy) (d a : Opnd)
  | fsqrt (h : Hdr) (m : Mods) (dm : DMod) (ft : FTy) (d a : Opnd)
  | fexp2 (h : Hdr) (m : Mods) (dm : DMod) (ft : FTy) (d a : Opnd)
  | flog2 (h : Hdr) (m : Mods) (dm : DMod) (ft : FTy) (d a : Opnd)
  | fsin (h : Hdr) (m : Mods) (dm : DMod) (ft : FTy) (d a : Opnd)
  | fcos (h : Hdr) (m : Mods) (dm : DMod) (ft : FTy) (d a : Opnd)
  | ftanh (h : Hdr) (m : Mods) (dm : DMod) (ft : FTy) (d a : Opnd)
  | fdiv (h : Hdr) (m : Mods) (dm : DMod) (ft : FTy) (d a b : Opnd)
  -- class 0x5 (R298)
  | stclr (h : Hdr) (d : Opnd)
  | stupd (h : Hdr) (m : Mods) (d a x : Opnd)
  | stwupd (h : Hdr) (m : Mods) (d a x w : Opnd)
  | stmrg (h : Hdr) (d a b : Opnd)
  | stnrm (h : Hdr) (m : Mods) (smp : Bool) (d a eps : Opnd)
  | stred (h : Hdr) (d a : Opnd)
  | stqred (h : Hdr) (d a : Opnd)
  -- class 0x8 (R306 to R310)
  | ld (h : Hdr) (hint : BitVec 3) (ord : MOrd) (sz : Size) (d a b : Opnd) (off : BitVec 18)
  | st (h : Hdr) (hint : BitVec 3) (ord : MOrd) (sz : Size) (d a b : Opnd) (off : BitVec 18)
  | stm (h : Hdr) (hint : BitVec 3) (d a b : Opnd) (off : BitVec 18)
  | sld (h : Hdr) (hint : BitVec 3) (ord : MOrd) (sz : Size) (d a b : Opnd) (off : BitVec 18)
  | sst (h : Hdr) (hint : BitVec 3) (ord : MOrd) (sz : Size) (d a b : Opnd) (off : BitVec 18)
  | atom (h : Hdr) (hint : BitVec 3) (ord : MOrd) (op : AOp) (d a b c e : Opnd)
  | red (h : Hdr) (hint : BitVec 3) (ord : MOrd) (op : AOp) (a b e : Opnd)
  | pref (h : Hdr) (hint : BitVec 3) (l2 : Bool) (a b : Opnd) (off : BitVec 18)
  | cctl (h : Hdr) (hint : BitVec 3) (op : CctlOp) (a b : Opnd) (off : BitVec 18)
  | fence (h : Hdr) (hint : BitVec 3) (kind : FKind) (sc : Scope)
  | fencex (h : Hdr) (hint : BitVec 3) (pa pb : Path)
  -- class 0x9 (R311 to R313)
  | lds (h : Hdr) (hint : BitVec 3) (sz : Size) (d a b : Opnd) (off : BitVec 18)
  | sts (h : Hdr) (hint : BitVec 3) (sz : Size) (d a b : Opnd) (off : BitVec 18)
  | atoms (h : Hdr) (hint : BitVec 3) (op : AOp) (d a b c e : Opnd)
  | sete (h : Hdr) (hint : BitVec 3) (a b : Opnd) (off : BitVec 18)
  | setf (h : Hdr) (hint : BitVec 3) (a b : Opnd) (off : BitVec 18)
  | tstf (h : Hdr) (hint : BitVec 3) (d a b : Opnd) (off : BitVec 18)
  | dec (h : Hdr) (hint : BitVec 3) (delta : Bool) (d a b c : Opnd) (ps : PField)
  -- class 0xA (R314 to R319)
  | cpy (h : Hdr) (hint : BitVec 3) (sz : XSize) (ss ds : Bool) (d a c e : Opnd)
  | cpyt (h : Hdr) (hint : BitVec 3) (w : BitVec 2) (ss ds : Bool) (d a b c e : Opnd)
  | cpyc (h : Hdr) (hint : BitVec 3) (sz : XSize) (ss ds : Bool) (d a c e : Opnd)
  | ldct (h : Hdr) (hint : BitVec 3) (sp : Bool) (a e : Opnd)
  | waitc (h : Hdr) (hint : BitVec 3) (path : Path) (a : Opnd)
  | rdc (h : Hdr) (hint : BitVec 3) (path : Path) (d : Opnd)
  | waitm (h : Hdr) (hint : BitVec 3) (cond : WCond) (w64 : Bool) (d a b : Opnd)
  | abinit (h : Hdr) (hint : BitVec 3) (a b : Opnd)
  | abarr (h : Hdr) (hint : BitVec 3) (a b c : Opnd)
  | abwait (h : Hdr) (hint : BitVec 3) (a b : Opnd)
  | abflg (h : Hdr) (hint : BitVec 3) (d a : Opnd)
  -- class 0xB (R320)
  | mmq (h : Hdr) (body : Body) (cap : BitVec 2) (d a b c e : Opnd)
  | mmf (h : Hdr) (fp16 : Bool) (d a b c e : Opnd)
  | mmd (h : Hdr) (d a b c e : Opnd)
  | tenc (h : Hdr) (body : Body) (cap sp : BitVec 2) (d a b e : Opnd)
  | tdec (h : Hdr) (body : Body) (cap : BitVec 2) (d b e : Opnd)
  | tpin (h : Hdr) (body : Body) (cap : BitVec 2) (b c e : Opnd)
  | tunpin (h : Hdr) (b e : Opnd)
  | mxcfg (h : Hdr) (a : Opnd)
  | tzero (h : Hdr) (d c e : Opnd)
  | tcvt (h : Hdr) (fmt : TFmt) (d a c e : Opnd)
  | ldcbk (h : Hdr) (a e : Opnd)
  -- class 0xC (R339)
  | rld (h : Hdr) (stat : Bool) (sz : Size) (d a b : Opnd) (ps : PField)
  | rst (h : Hdr) (stat : Bool) (sz : Size) (d a b : Opnd) (ps : PField)
  | ratom (h : Hdr) (stat : Bool) (ty : ATy) (op : AOp) (d a b c : Opnd) (ps : PField)
  | rcpy (h : Hdr) (stat : Bool) (spad : Bool) (sz : XSize) (d a b c : Opnd) (ps : PField)
  | msend (h : Hdr) (stat : Bool) (spad : Bool) (d a b c : Opnd) (ps : PField)
  | mdone (h : Hdr)
  | quiet (h : Hdr)
  | qstat (h : Hdr) (sel : QSel) (d : Opnd)
  | coll (h : Hdr) (op : CollOp) (d a b c e : Opnd)
  | rfence (h : Hdr)
  -- class 0xD (R349)
  | csrr (h : Hdr) (d : Opnd) (csr : BitVec 12)
  | csrw (h : Hdr) (d a : Opnd) (csr : BitVec 12)
  | csrs (h : Hdr) (d a : Opnd) (csr : BitVec 12)
  | csrc (h : Hdr) (d a : Opnd) (csr : BitVec 12)
  | launch (h : Hdr) (d a b : Opnd)
  | sysc (h : Hdr) (n : BitVec 8)
  | ldovt (h : Hdr) (a : Opnd)
  | tlbinv (h : Hdr) (sc : TlbScope) (a b : Opnd)
  | eret (h : Hdr)
  | halt (h : Hdr) (hold : Bool) (a : Opnd)
  -- issues of words that are no instruction
  | invalidSlotIssue
  | illegalInstructionIssue (w : BitVec 96)
  -- memory events
  | loadReturn (g : GroupRef) (seq : Nat)
  | storePerform (g : GroupRef)
  | atomicPerform (g : GroupRef)
  | pageWalkComplete (c : CoreId) (ctx : Nat) (va : Dword)
  | l1Eviction (c : CoreId) (line : Nat)
  | l2Eviction (line : Nat)
  | feReaderRelease (b : BlockRef) (line : Nat)
  | copyCompletion (g : GroupRef) (seq : Nat)
  | matrixTileStep (c : CoreId)
  | scratchpadResultLanding (g : GroupRef) (seq : Nat)
  -- scheduling events
  | groupRetire (g : GroupRef)
  | launchEligible (l : LaunchRef)
  | blockDispatch (die : Nat)
  | launchCompletion (l : LaunchRef)
  | preemptionTrigger (b : BlockRef)
  | blockHalt (b : BlockRef)
  | blockSave (b : BlockRef)
  | haltTimeout (b : BlockRef)
  | handlerEntry (g : GroupRef)
  | asyncFaultDelivery (g : GroupRef)
  | eccAsyncFailure (addr : Nat)
  | feTimeout (g : GroupRef)
  -- fabric events
  | remoteReadRequest (p : Packet)
  | remoteWriteRequest (p : Packet)
  | remoteAtomicRequest (p : Packet)
  | messageDelivery (p : Packet)
  | readResponse (peer seq : Nat) (bytes : List Byte)
  | writeCompletion (peer seq : Nat)
  | atomicResponse (peer seq : Nat) (old : Dword)
  | refusalResponse (peer seq reason : Nat)
  | quietNotice (job : Nat)
  | settleWaveStart (job : Nat)
  | settleToken (job wave si sc : Nat)
  | settleTokenReturn (job wave si sc : Nat)
  | settledReceipt (job wave : Nat)
  | linkReplay (port : Nat)
  | replayExhausted (peer : Nat)
  | ackTimeout (peer : Nat)
  | linkWaitTimeout (peer : Nat)
  | queryResend (peer : Nat)
  | peerQuery (peer n : Nat)
  | peerQueryReply (peer r : Nat)
  | downNotice (job rank : Nat)
  | collChunkArrival (p : Packet)
  | slotReleaseNotice (p : Packet)
  | collTimeout (b : BlockRef)
  | gangReserveAck (gang rank : Nat)
  | gangCommit (gang : Nat)
  | gangWithdraw (l : LaunchRef)
  | gangWithdrawRequest (gang rank : Nat)
  | gangRelease (gang : Nat)
  | gangRefusal (gang rank : Nat)
  | gangAbort (gang : Nat)
  | arbiterTurn (port : Nat)
  -- host and platform events
  | hostWrite (addr : Nat) (bytes : List Byte)
  | hostRead (addr len : Nat)
  | preqGo (w : BitVec 32)
  | preqHoldRelease (w : BitVec 32)
  | hostLaunch (w : BitVec 32)
  | jobreset (w : BitVec 32)
  | faultctlRelease (w : BitVec 32)
  | faultctlEnd (w : BitVec 32)
  | resync (w : BitVec 32)
  | jobRepair (w : BitVec 32)
  | portEnable (port : Nat) (mode : Byte)
  | portDisable (port : Nat) (mode : Byte)
  | portTrained (port : Nat) (voxgo : Bool)
  | queueEnable (q : Nat) (w : BitVec 32)
  | queueDisable (q : Nat) (w : BitVec 32)
  | peerMapWrite (rank : Nat) (w : BitVec 32)
  | acktoWrite (w : BitVec 32)
  | portWeightWrite (port cls : Nat) (w : Byte)
  | eccCounterClear (k : Nat) (w : BitVec 32)
  | powercapWrite (w : BitVec 32)
  | mgmtRegisterWrite (off size : Nat) (value : Dword)
  | deviceReset
  | pcieLinkTrained
  | hbmTrained
  | clockStep (x : Sensors)
  | issueGateStep (x : Sensors)
  | thermalIssueStop (x : Sensors)
  deriving DecidableEq, Repr

end Sys2Proof
end

