-- ==== Sys2Proof/WellFormed.lean ====
section
/-! DEFINITION. Which terms of the syntax are instructions of the machine: the VAR codes an opcode lists
(spec 11 R258 to R265), the operand codes each field admits (R243, R266, R395 and the entries of chapters
12 to 16), and the fields a form does not use. -/

namespace Sys2Proof

/-! ### Operand roles -/

namespace Opnd

/-- The 9-bit operand code (R243). -/
def code : Opnd → BitVec 9
  | .v n => 0#2 ++ n
  | .s n => 0b010#3 ++ n
  | .o n => 0b011000#6 ++ n
  | .lt0 => 0x0C8
  | .lt1 => 0x0C9
  | .zero => 0x0CA
  | .lane => 0x0CB
  | .quad => 0x0CC
  | .int n => if n.getLsbD 4 then 0x0E0#9 ||| (0#5 ++ n.extractLsb' 0 4) else 0x0D0#9 ||| (0#5 ++ n.extractLsb' 0 4)
  | .flt n => 0b01111#5 ++ n
  | .bad c => c

/-- The operand a 9-bit code names (R243). -/
def ofCode (c : BitVec 9) : Opnd :=
  let n := c.toNat
  if n < 0x80 then .v (c.extractLsb' 0 7)
  else if n < 0xC0 then .s (c.extractLsb' 0 6)
  else if n < 0xC8 then .o (c.extractLsb' 0 3)
  else if n = 0xC8 then .lt0
  else if n = 0xC9 then .lt1
  else if n = 0xCA then .zero
  else if n = 0xCB then .lane
  else if n = 0xCC then .quad
  else if n < 0xD0 then .bad c
  else if n < 0xF0 then .int (BitVec.ofNat 5 (n - 0xD0))
  else if n < 0x100 then .flt (c.extractLsb' 0 4)
  else .bad c

/-- The value of an integer constant, −16 to +15 (R243). -/
def intVal (n : BitVec 5) : Int := (n.toNat : Int) - 16

/-- Any code that R243 allows as a 32-bit source. -/
def src : Opnd → Bool
  | .bad _ => false
  | _ => true

/-- Any code that R243 allows as a 64-bit source: a register pair is named by its even register (R86). -/
def src64 : Opnd → Bool
  | .v n => !n.getLsbD 0
  | .s n => !n.getLsbD 0
  | .o n => !n.getLsbD 0
  | .bad _ => false
  | _ => true

/-- Any code that R243 allows as a 32-bit destination of classes 0x0 to 0x6. -/
def dst : Opnd → Bool
  | .v _ | .s _ | .o _ | .lt0 => true
  | _ => false

/-- A 64-bit destination (R86). -/
def dst64 : Opnd → Bool
  | .v n => !n.getLsbD 0
  | .s n => !n.getLsbD 0
  | .o n => !n.getLsbD 0
  | .lt0 => true
  | _ => false

def dstW (w64 : Bool) (o : Opnd) : Bool := if w64 then o.dst64 else o.dst
def srcW (w64 : Bool) (o : Opnd) : Bool := if w64 then o.src64 else o.src

/-- `k` vector registers from an index that is a multiple of `al`. -/
def vgrp (k al : Nat) : Opnd → Bool
  | .v n => n.toNat % al == 0 && decide (n.toNat + k ≤ 128)
  | _ => false

/-- `k` scalars from an index that is a multiple of `al`, none above `top`. -/
def sgrp (k al top : Nat) : Opnd → Bool
  | .s n => n.toNat % al == 0 && decide (n.toNat + k ≤ top + 1)
  | _ => false

def isV : Opnd → Bool := vgrp 1 1
def isS : Opnd → Bool := sgrp 1 1 63
def vPair : Opnd → Bool := vgrp 2 2
def sPair : Opnd → Bool := sgrp 2 2 63
def isZero (o : Opnd) : Bool := o == .zero
def isInt : Opnd → Bool
  | .int _ => true
  | _ => false
/-- The integer constants 0 to 15. -/
def isNat : Opnd → Bool
  | .int n => n.getLsbD 4
  | _ => false
def isConst : Opnd → Bool
  | .int _ | .flt _ => true
  | _ => false

/-- A vector register or a scalar. -/
def vs (o : Opnd) : Bool := o.isV || o.isS
/-- An even vector register or an even scalar: a global address operand (R302). -/
def pair (o : Opnd) : Bool := o.vPair || o.sPair
/-- An even register of any file: the target pair of `CALLX` and `RET` (R86, R277, R402). -/
def evenPair (o : Opnd) : Bool :=
  o.pair || match o with
    | .o n => !n.getLsbD 0
    | _ => false
/-- The base of a format M global access (R240). -/
def base (o : Opnd) : Bool := o.pair || o.isZero
/-- The index of a format M global access (R306). -/
def index (o : Opnd) : Bool := o.vs || o.isConst || o.isZero
/-- A per-lane scratchpad address or offset (R302). -/
def spad (o : Opnd) : Bool := o.vs || o.isInt || o.isZero
/-- A once scratchpad address or offset (R302, R303). -/
def sspad (o : Opnd) : Bool := o.isS || o.isInt || o.isZero
/-- A scalar, a constant or ZERO (R303). -/
def once (o : Opnd) : Bool := o.isS || o.isConst || o.isZero
/-- An offset operand of class 0xB (R320). -/
def moff (o : Opnd) : Bool := o.isS || o.isNat || o.isZero
/-- A peer operand (R340). -/
def peer (o : Opnd) : Bool := o.vs || o.isNat

/-- A data operand of `n` bytes (R302); LANE and QUAD supply no 64-bit data. -/
def data (n : Nat) (o : Opnd) : Bool :=
  if n = 16 then
    match o with
    | .v r => r.toNat % 4 == 0
    | .s r => r.toNat % 4 == 0
    | .o r => r.toNat % 4 == 0
    | .zero => true
    | _ => false
  else if n = 8 then o.src64 && o != .lane && o != .quad
  else o.src

/-- Data of `RST`: any source of R243, of 16 bytes a group or ZERO (R341, R395). -/
def remote (n : Nat) (o : Opnd) : Bool := if n = 8 then o.src64 else o.data n

end Opnd

/-- A P field that is read (R268). -/
def PField.rd (p : PField) : Bool := p.hi == 0

/-- A P field that is written (R268). -/
def PField.wr (p : PField) : Bool := p.hi == 0 && !p.neg

/-- A P field of zero bits. -/
def PField.zero : PField := ⟨0, false, 0⟩

/-- Bytes of an access (R262). -/
def Size.bytes : Size → Nat
  | .b8 | .s8 => 1
  | .b16 | .s16 => 2
  | .b32 => 4
  | .b64 => 8
  | .b128 => 16

/-- Registers of an access (R262). -/
def Size.regs : Size → Nat
  | .b64 => 2
  | .b128 => 4
  | _ => 1

/-- Bytes of a transfer of `CPY`, `CPYC` and `RCPY` (R314). -/
def XSize.bytes : XSize → Nat
  | .x4 => 4
  | .x8 => 8
  | .x16 => 16

/-- Elements that are 16-bit halves (R252). -/
def FTy.packed : FTy → Bool
  | .h2 | .b2 => true
  | _ => false

def FTy.isF64 (t : FTy) : Bool := t == .f64

def ITy.is32 : ITy → Bool
  | .i32 | .n32 => true
  | _ => false

/-- The data type that field E of `ATOM`, `RED` and `ATOMS` holds (R262). -/
def ATy.ofOpnd : Opnd → Option ATy
  | .int n =>
    match n.toNat with
    | 16 => some .n32
    | 17 => some .i32
    | 18 => some .n64
    | 19 => some .i64
    | 20 => some .f32
    | _ => none
  | _ => none

/-- Bytes of an atomic's word. -/
def ATy.bytes : ATy → Nat
  | .n64 | .i64 => 8
  | _ => 4

/-- The conversion that field C of `CPY` holds (R314). -/
def cvOf : Opnd → Option Nat
  | .int n => if 16 ≤ n.toNat ∧ n.toNat ≤ 20 then some (n.toNat - 16) else none
  | _ => none

/-- The width code of a float operand: a pair for `.f64` (R285). -/
def FTy.src (t : FTy) (o : Opnd) : Bool := Opnd.srcW t.isF64 o
def FTy.dst (t : FTy) (o : Opnd) : Bool := Opnd.dstW t.isF64 o

/-! ### The roles of each form -/

/-- Numbers of the operand fields (R394). -/
def fD : Nat := 0
def fA : Nat := 1
def fB : Nat := 2
def fC : Nat := 3
def fE : Nat := 4
def fLink : Nat := 5

/-- Field E of an atomic: `.f32` goes with `.add`, `.min` and `.max` alone (R262, R449). -/
def atyRole (op : AOp) (e : Opnd) : Bool :=
  match ATy.ofOpnd e, op with
  | none, _ => false
  | some .f32, .add | some .f32, .min | some .f32, .max => true
  | some .f32, _ => false
  | some _, _ => true

/-- Bytes of the data of an atomic, as far as field E tells them. -/
def atyBytes (e : Opnd) : Nat := (ATy.ofOpnd e).elim 4 ATy.bytes

/-- The vector result of an atomic, or ZERO (R262). -/
def atomDst (bytes : Nat) (d : Opnd) : Bool :=
  d.isZero || (if bytes = 8 then d.vPair else d.isV)

/-- The data group of `RATOM` (R341, R452). -/
def ratomData (ty : ATy) (op : AOp) (c : Opnd) : Bool :=
  match ty, op with
  | .n64, .cas | .i64, .cas => c.vgrp 4 4 || c.sgrp 4 4 63 || (match c with | .o n => n.toNat % 4 == 0 | _ => false)
  | .n64, _ | .i64, _ =>
    match c with
    | .v n => n.toNat % 4 == 0
    | .s n => n.toNat % 4 == 0
    | .o n => n.toNat % 4 == 0
    | o => o.src64
  | _, .cas => c.vPair || c.sPair || (match c with | .o n => !n.getLsbD 0 | _ => false)
  | _, _ => c.src

/-- Every operand field of an instruction with whether its code is one the entry allows in that role
(R395, step 5 of R393), in field order. `HSET`'s descriptor is an even scalar pair and its HVEC value a scalar, a constant
or `ZERO`: R266 names no register file for the two, nor R349 and R354 for the address pair of `TLBINV.va`, an even scalar pair.
DESIGN CHOICE: all three are the model's (log entry 76). -/
def Instr.roles : Instr → List (Nat × Bool)
  | .iadd _ _ _ _ d a b | .isub _ _ _ _ d a b | .imul _ _ _ _ d a b | .imulh _ _ _ d a b
  | .imin _ _ _ d a b | .imax _ _ _ d a b => [(fD, d.dst), (fA, a.src), (fB, b.src)]
  | .iadd3 _ _ _ _ d a b c | .imad _ _ _ _ d a b c | .isad _ _ _ d a b c | .idot4 _ _ _ _ d a b c =>
    [(fD, d.dst), (fA, a.src), (fB, b.src), (fC, c.src)]
  | .iaddc _ _ d a b pc pe | .isubb _ _ d a b pc pe =>
    [(fD, d.dst), (fA, a.src), (fB, b.src), (fC, pc.rd), (fE, pe.wr)]
  | .imadw _ _ _ d a b c => [(fD, d.dst64), (fA, a.src), (fB, b.src), (fC, c.src64)]
  | .iabs _ _ _ _ d a => [(fD, d.dst), (fA, a.src)]
  | .lea _ _ _ _ d a b => [(fD, d.dst64), (fA, a.src64), (fB, b.src)]
  | .iadd64 _ _ d a b | .isub64 _ _ d a b => [(fD, d.dst64), (fA, a.src64), (fB, b.src64)]
  | .mov _ _ w d a => [(fD, d.dstW w), (fA, a.srcW w)]
  | .movi _ w d _ => [(fD, d.dstW w)]
  | .and _ d a b | .or _ d a b | .xor _ d a b | .andn _ d a b | .rotl _ d a b =>
    [(fD, d.dst), (fA, a.src), (fB, b.src)]
  | .lop3 _ _ d a b c | .fshl _ d a b c | .fshr _ d a b c | .bfe _ _ d a b c | .prmt _ d a b c =>
    [(fD, d.dst), (fA, a.src), (fB, b.src), (fC, c.src)]
  | .shl _ w d a b | .shr _ w d a b | .sar _ w d a b => [(fD, d.dstW w), (fA, a.srcW w), (fB, b.src)]
  | .bfi _ d a b c e => [(fD, d.dst), (fA, a.src), (fB, b.src), (fC, c.src), (fE, e.src)]
  | .brev _ d a | .popc _ d a | .clz _ d a | .ctz _ d a => [(fD, d.dst), (fA, a.src)]
  | .icmp _ _ _ _ pd a b pq => [(fD, pd.wr), (fA, a.src), (fB, b.src), (fC, pq.rd)]
  | .fcmp _ _ _ ft pd a b pq => [(fD, pd.wr), (fA, ft.src a), (fB, ft.src b), (fC, pq.rd)]
  | .sel _ _ d a b pq => [(fD, d.dst), (fA, a.src), (fB, b.src), (fC, pq.rd)]
  | .pset _ _ pd pa pb pc => [(fD, pd.wr), (fA, pa.rd), (fB, pb.rd), (fC, pc.rd)]
  | .pmovs _ d pa => [(fD, d.sgrp 1 1 61), (fA, pa.rd)]
  | .pmovp _ _ pd a => [(fD, pd.wr), (fA, a.src)]
  | .qxchg _ _ d a | .qbcst _ _ d a => [(fD, d.dst), (fA, a.src)]
  | .qhelp .. => []
  | .shfl _ _ d a b => [(fD, d.dst), (fA, a.src), (fB, b.src)]
  | .vote _ (.some pd) pa | .vote _ (.every pd) pa | .vote _ (.same pd) pa => [(fD, pd.wr), (fA, pa.rd)]
  | .vote _ (.cnt d) pa => [(fD, d.vs), (fA, pa.rd)]
  | .redg _ _ _ d a => [(fD, d.vs), (fA, a.src)]
  | .scang _ _ _ _ d a => [(fD, d.dst), (fA, a.src)]
  | .zscan _ _ d a sc => [(fD, d.dst), (fA, a.src), (fC, sc.isS)]
  | .rdlane _ d a b => [(fD, d.vs), (fA, a.src), (fB, b.src)]
  | .wrlane _ d a b => [(fD, d.isV), (fA, a.src), (fB, b.src)]
  | .bra .. | .exit _ | .yield _ | .nop _ | .trap .. | .hret _ | .hmask .. => []
  | .brx _ a => [(fA, a.pair)]
  | .ret _ a => [(fA, a.evenPair)]
  | .call _ l _ => [(fLink, l.vPair)]
  | .callx _ l a => [(fD, l.vPair), (fA, a.evenPair)]
  | .regang _ a => [(fA, a.isZero || a.isS)]
  | .bar _ sc a | .bara _ sc a | .barw _ sc a =>
    [(fA, match sc, a with
      | .blk, .int n => decide (16 ≤ n.toNat ∧ n.toNat ≤ 23)
      | .blk, _ => false
      | _, a => a.isZero)]
  | .hset _ a b c => [(fA, a.isS || a.isNat), (fB, b.sPair), (fC, c.once)]
  | .fadd _ _ _ t d a b | .fsub _ _ _ t d a b | .fmul _ _ _ t d a b | .fmin _ _ _ t d a b
  | .fmax _ _ _ t d a b | .fdiv _ _ _ t d a b => [(fD, t.dst d), (fA, t.src a), (fB, t.src b)]
  | .ffma _ _ _ t d a b c => [(fD, t.dst d), (fA, t.src a), (fB, t.src b), (fC, t.src c)]
  | .frnd _ _ _ _ t d a | .frcp _ _ _ t d a | .frsq _ _ _ t d a | .fsqrt _ _ _ t d a
  | .fexp2 _ _ _ t d a | .flog2 _ _ _ t d a | .fsin _ _ _ t d a | .fcos _ _ _ t d a
  | .ftanh _ _ _ t d a => [(fD, t.dst d), (fA, t.src a)]
  | .fclass _ _ t d a => [(fD, d.dst), (fA, t.src a)]
  | .fscale _ _ _ t d a b => [(fD, t.dst d), (fA, t.src a), (fB, b.src)]
  | .fdot2 _ _ _ _ d a b c => [(fD, d.dst), (fA, a.src), (fB, b.src), (fC, c.src)]
  | .fcvt _ _ _ _ dt sf d a => [(fD, dt.dst d), (fA, sf.src a)]
  | .i2f _ _ _ dt _ d a => [(fD, dt.dst d), (fA, a.src)]
  | .f2i _ _ _ _ sf d a => [(fD, d.dst), (fA, sf.src a)]
  | .packh _ _ _ _ d a b => [(fD, d.dst), (fA, a.src), (fB, b.src)]
  | .stclr _ d => [(fD, d.vgrp 3 1)]
  | .stupd _ _ d a x => [(fD, d.vgrp 3 1), (fA, a.vgrp 3 1), (fB, x.src)]
  | .stwupd _ _ d a x w => [(fD, d.vgrp 3 1), (fA, a.vgrp 3 1), (fB, x.src), (fC, w.src)]
  | .stmrg _ d a b => [(fD, d.vgrp 3 1), (fA, a.vgrp 3 1), (fB, b.vgrp 3 1)]
  | .stnrm _ _ _ d a x => [(fD, d.vgrp 3 1), (fA, a.vgrp 3 1), (fB, x.src)]
  | .stred _ d a => [(fD, d.vgrp 3 1 || d.sgrp 1 1 58), (fA, a.vgrp 3 1)]
  | .stqred _ d a => [(fD, d.vgrp 3 1), (fA, a.vgrp 3 1)]
  | .ld _ _ _ sz d a b _ => [(fD, d.vgrp sz.regs sz.regs), (fA, a.base), (fB, b.index)]
  | .st _ _ _ sz d a b _ => [(fD, d.data sz.bytes), (fA, a.base), (fB, b.index)]
  | .stm _ _ d a b _ => [(fD, d.pair), (fA, a.base), (fB, b.vs || b.isConst || b.isZero)]
  | .sld _ _ _ sz d a b _ =>
    [(fD, d.sgrp sz.regs sz.regs 63), (fA, a.sPair || a.isZero), (fB, b.once)]
  | .sst _ _ _ sz d a b _ =>
    [(fD, d.data sz.bytes && d.once), (fA, a.sPair || a.isZero), (fB, b.once)]
  | .atom _ _ _ op d a b c e =>
    [(fD, atomDst (atyBytes e) d), (fA, a.pair), (fB, b.data (atyBytes e)),
     (fC, op != .cas || c.data (atyBytes e)), (fE, atyRole op e)]
  | .red _ _ _ op a b e => [(fA, a.pair), (fB, b.data (atyBytes e)), (fE, atyRole op e)]
  | .pref _ _ _ a b _ => [(fA, a.base), (fB, b.index)]
  | .cctl _ _ op a b _ =>
    match op with
    | .wball | .invall => []
    | _ => [(fA, a.base), (fB, b.index)]
  | .fence .. | .fencex .. => []
  | .lds _ _ sz d a b _ => [(fD, d.vgrp sz.regs sz.regs), (fA, a.spad), (fB, b.spad)]
  | .sts _ _ sz d a b _ => [(fD, d.data sz.bytes), (fA, a.spad), (fB, b.spad)]
  | .atoms _ _ op d a b c e =>
    [(fD, atomDst (atyBytes e) d), (fA, a.spad), (fB, b.data (atyBytes e)),
     (fC, op != .cas || c.data (atyBytes e)), (fE, atyRole op e)]
  | .sete _ _ a b _ | .setf _ _ a b _ => [(fA, a.spad), (fB, b.spad)]
  | .tstf _ _ d a b _ => [(fD, d.isV), (fA, a.spad), (fB, b.spad)]
  | .dec _ _ delta d a b c ps =>
    [(fD, d.isV || d.isZero), (fA, a.sspad), (fB, !delta || b.once), (fC, c.sPair), (fE, ps.wr)]
  | .cpy _ _ sz ss ds d a c e =>
    [(fD, if ds then d.spad else d.pair), (fA, if ss then a.spad else a.pair),
     (fC, match cvOf c with
      | none => false
      | some n => !(decide (3 ≤ n) && sz == .x16)), (fE, e.sspad)]
  | .cpyt _ _ _ ss ds d a b c e =>
    [(fD, if ds then d.sspad else d.sPair), (fA, if ss then a.sspad else a.sPair),
     (fB, b.sPair), (fC, c.isS), (fE, e.sspad)]
  | .cpyc _ _ _ ss ds d a c e =>
    [(fD, if ds then d.spad else d.pair), (fA, if ss then a.spad else a.pair),
     (fC, c == .v 0), (fE, e.sspad)]
  | .ldct _ _ sp a e => [(fA, if sp then a.sspad else a.sPair), (fE, e.sspad)]
  | .waitc _ _ _ a => [(fA, a.isS || a.isInt)]
  | .rdc _ _ _ d => [(fD, d.isS)]
  | .waitm _ _ _ w d a b =>
    [(fD, d.isZero || (if w then d.sPair else d.isS)), (fA, a.sPair),
     (fB, b.isInt || (if w then b.sPair else b.isS))]
  | .abinit _ _ a b => [(fA, a.isS || a == .int 16 || a.isZero), (fB, b.isS || b.isInt)]
  | .abarr _ _ a b c =>
    [(fA, a.isS || a == .int 16 || a.isZero), (fB, b.isS || b.isConst), (fC, c.isS || c.isZero)]
  | .abwait _ _ a b => [(fA, a.isS || a == .int 16 || a.isZero), (fB, b.isS)]
  | .abflg _ _ d a => [(fD, d.isS), (fA, a.isS || a == .int 16 || a.isZero)]
  | .mmq _ _ _ d a b c e | .mmf _ _ d a b c e =>
    [(fD, d.moff), (fA, a.vgrp 8 1), (fB, b.moff), (fC, c.isS), (fE, e.moff)]
  | .mmd _ d a b c e => [(fD, d.moff), (fA, a.vgrp 8 2), (fB, b.moff), (fC, c.isS), (fE, e.moff)]
  | .tenc _ _ _ _ d a b e => [(fD, d.moff), (fA, a.vgrp 8 1), (fB, b.isS), (fE, e.moff)]
  | .tdec _ _ _ d b e => [(fD, d.vgrp 4 1), (fB, b.moff), (fE, e.moff)]
  | .tpin _ _ _ b c e => [(fB, b.moff), (fC, c.isS || c.isInt), (fE, e.moff)]
  | .tunpin _ b e => [(fB, b.moff), (fE, e.moff)]
  | .mxcfg _ a => [(fA, a.isS || a.isZero)]
  | .tzero _ d c e => [(fD, d.moff), (fC, c.isS), (fE, e.moff)]
  | .tcvt _ _ d a c e => [(fD, d.moff), (fA, a.moff), (fC, c.isS), (fE, e.moff)]
  | .ldcbk _ a e => [(fA, a.sPair), (fE, e.moff)]
  | .rld _ sf sz d a b ps =>
    [(fD, d.vgrp sz.regs sz.regs), (fA, a.pair), (fB, b.peer), (fE, !sf || ps.wr)]
  | .rst _ sf sz d a b ps => [(fD, d.remote sz.bytes), (fA, a.pair), (fB, b.peer), (fE, !sf || ps.wr)]
  | .ratom _ sf ty op d a b c ps =>
    [(fD, atomDst ty.bytes d), (fA, a.pair), (fB, b.peer), (fC, ratomData ty op c), (fE, !sf || ps.wr)]
  | .rcpy _ sf sp _ d a b c ps =>
    [(fD, d.pair), (fA, if sp then a.spad else a.pair), (fB, b.peer), (fC, c.moff), (fE, !sf || ps.wr)]
  | .msend _ sf sp d a b c ps =>
    [(fD, d.isS), (fA, if sp then a.spad || a.isConst else a.isV), (fB, b.peer), (fC, c.vs || c.isConst || c.isZero),
     (fE, !sf || ps.wr)]
  | .mdone _ | .quiet _ | .rfence _ => []
  | .qstat _ _ d => [(fD, d.sgrp 2 2 59)]
  | .coll _ _ d a b c e =>
    [(fD, d.once), (fA, a.isV), (fB, b.sPair), (fC, c.isS || c.isConst), (fE, e.sgrp 2 2 59)]
  | .csrr _ d _ => [(fD, d.isS)]
  | .csrw _ d a _ | .csrs _ d a _ | .csrc _ d a _ => [(fD, d.isS || d.isZero), (fA, a.once)]
  | .launch _ d a b => [(fD, d.isS), (fA, a.sPair), (fB, b.isS || b.isConst)]
  | .sysc .. => []
  | .ldovt _ a => [(fA, a.isS || a.isZero)]
  | .tlbinv _ sc a b =>
    match sc with
    | .va => [(fA, a.sPair), (fB, b.isS)]
    | .ctx => [(fB, b.isS)]
    | .all => []
  | .eret _ => []
  | .halt _ _ a => [(fA, a.isS)]
  | .invalidSlotIssue | .illegalInstructionIssue _ | .loadReturn .. | .storePerform _ | .atomicPerform _
  | .pageWalkComplete .. | .l1Eviction .. | .l2Eviction _ | .feReaderRelease .. | .copyCompletion ..
  | .matrixTileStep _ | .scratchpadResultLanding .. | .groupRetire _ | .launchEligible _ | .blockDispatch _
  | .launchCompletion _ | .preemptionTrigger _ | .blockHalt _ | .blockSave _ | .haltTimeout _
  | .handlerEntry _ | .asyncFaultDelivery _ | .eccAsyncFailure _ | .feTimeout _ | .remoteReadRequest _
  | .remoteWriteRequest _ | .remoteAtomicRequest _ | .messageDelivery _ | .readResponse .. | .writeCompletion ..
  | .atomicResponse .. | .refusalResponse .. | .quietNotice _ | .settleWaveStart _ | .settleToken ..
  | .settleTokenReturn .. | .settledReceipt .. | .linkReplay _ | .replayExhausted _ | .ackTimeout _
  | .linkWaitTimeout _ | .queryResend _ | .peerQuery .. | .peerQueryReply .. | .downNotice ..
  | .collChunkArrival _ | .slotReleaseNotice _ | .collTimeout _ | .gangReserveAck .. | .gangCommit _
  | .gangWithdraw _ | .gangWithdrawRequest .. | .gangRelease _ | .gangRefusal .. | .gangAbort _
  | .arbiterTurn _ | .hostWrite .. | .hostRead .. | .preqGo _ | .preqHoldRelease _ | .hostLaunch _
  | .jobreset _ | .faultctlRelease _ | .faultctlEnd _ | .resync _ | .jobRepair _ | .portEnable ..
  | .portDisable .. | .portTrained .. | .queueEnable .. | .queueDisable .. | .peerMapWrite .. | .acktoWrite _
  | .portWeightWrite .. | .eccCounterClear .. | .powercapWrite _ | .mgmtRegisterWrite .. | .deviceReset
  | .pcieLinkTrained | .hbmTrained | .clockStep _ | .issueGateStep _ | .thermalIssueStop _ => []

/-- The first operand field whose code the entry does not allow (R393 step 5, R394). -/
def firstBad : List (Nat × Bool) → Option Nat
  | [] => none
  | (n, ok) :: t => if ok then firstBad t else some n

/-- The field that 0x03 reports, when one does. -/
def Instr.badField (i : Instr) : Option Nat := firstBad i.roles

/-! ### VAR -/

/-- The orderings of a load (R261). -/
def MOrd.okLoad (o : MOrd) : Bool :=
  match o.kind with
  | .plain => !o.pod
  | .rlx | .acq => true
  | _ => false

/-- The orderings of a store (R261). -/
def MOrd.okStore (o : MOrd) : Bool :=
  match o.kind with
  | .plain => !o.pod
  | .rlx | .rel => true
  | _ => false

/-- Integer types of a packed conversion (R293, R294). -/
def cvtOk (ft : FTy) (it : ITy) : Bool := !ft.packed || !it.is32

/-- The pairs of `FCVT` (R292). -/
def fcvtOk (hi : Bool) (d s : FTy) : Bool :=
  if d.packed == s.packed then !hi else true

/-- The type, order and operation codes an opcode lists (R258 to R265 and the entries). -/
def Instr.varOk : Instr → Bool
  | .imulh _ _ t .. | .imadw _ _ t .. | .lea _ _ t .. | .bfe _ t .. => t.is32
  | .idot4 _ _ t .. => t == .i8 || t == .n8
  | .icmp _ _ c .. => c != .num && c != .nan
  | .fdot2 _ _ _ t .. | .packh _ _ _ t .. => t.packed
  | .fexp2 _ _ _ t .. | .flog2 _ _ _ t .. | .fsin _ _ _ t .. | .fcos _ _ _ t .. | .ftanh _ _ _ t .. => t != .f64
  | .fcvt _ _ _ hi dt sf .. => fcvtOk hi dt sf
  | .i2f _ _ _ dt it .. => cvtOk dt it
  | .f2i _ _ _ it sf .. => cvtOk sf it
  | .ld _ _ o .. | .sld _ _ o .. => o.okLoad
  | .st _ _ o sz .. | .sst _ _ o sz .. => o.okStore && sz != .s8 && sz != .s16
  | .sts _ _ sz .. | .rst _ _ sz .. => sz != .s8 && sz != .s16
  | .atom _ _ o .. => o.kind != .plain
  | .red _ _ o op .. => (o.kind == .rlx || o.kind == .rel) && op != .exch && op != .cas
  | .tenc _ b .. => b != .v2
  | .ratom _ _ ty .. => ty != .f32
  | _ => true

/-! ### Fields a form does not use -/

/-- The modifier bits as the word holds them, bit [26] first (R246). -/
def Mods.code (m : Mods) : BitVec 6 :=
  BitVec.ofBool m.negA ++ BitVec.ofBool m.absA ++ BitVec.ofBool m.negB ++ BitVec.ofBool m.absB ++
    BitVec.ofBool m.negC ++ BitVec.ofBool m.absC

/-- No modifier. -/
def Mods.none : Mods := ⟨false, false, false, false, false, false⟩

/-- Keeps the modifiers of A, B and C where the form reads them. -/
def Mods.only (m : Mods) (a b c : Bool) : Mods :=
  ⟨m.negA && a, m.absA && a, m.negB && b, m.absB && b, m.negC && c, m.absC && c⟩

/-- Which of A, B and C take source modifiers (R246, R284). -/
def Instr.modUse : Instr → Option (Mods × Bool × Bool × Bool)
  | .iadd _ m .. | .isub _ m .. | .iaddc _ m .. | .isubb _ m .. | .imul _ m .. | .imulh _ m .. | .imin _ m ..
  | .imax _ m .. | .lea _ m .. | .iadd64 _ m .. | .isub64 _ m .. | .icmp _ m .. | .fcmp _ m .. | .sel _ m ..
  | .fadd _ m .. | .fsub _ m .. | .fmul _ m .. | .fmin _ m .. | .fmax _ m .. | .fscale _ m .. | .packh _ m ..
  | .fdiv _ m .. => some (m, true, true, false)
  | .iadd3 _ m .. | .imad _ m .. | .imadw _ m .. | .isad _ m .. | .idot4 _ m .. | .ffma _ m ..
  | .fdot2 _ m .. => some (m, true, true, true)
  | .iabs _ m .. | .mov _ m .. | .pmovp _ m .. | .frnd _ m .. | .fclass _ m .. | .fcvt _ m .. | .i2f _ m ..
  | .f2i _ m .. | .frcp _ m .. | .frsq _ m .. | .fsqrt _ m .. | .fexp2 _ m .. | .flog2 _ m .. | .fsin _ m ..
  | .fcos _ m .. | .ftanh _ m .. => some (m, true, false, false)
  | .stupd _ m .. | .stnrm _ m .. => some (m, false, true, false)
  | .stwupd _ m .. => some (m, false, true, true)
  | _ => Option.none

/-- Fields that the form does not use hold zero (R238). -/
def Instr.unusedZero (i : Instr) : Bool :=
  (match i.modUse with
   | some (m, a, b, c) => m == m.only a b c
   | Option.none => true) &&
  match i with
  | .atom _ _ _ op _ _ _ c _ | .atoms _ _ op _ _ _ c _ => op == .cas || c == .v 0
  | .cctl _ _ op a b off => (op == .wb || op == .inv) || (a == .v 0 && b == .v 0 && off == 0)
  | .dec _ _ delta _ _ b _ _ => delta || b == .v 0
  | .rld _ sf _ _ _ _ ps | .rst _ sf _ _ _ _ ps | .ratom _ sf _ _ _ _ _ _ ps | .rcpy _ sf _ _ _ _ _ _ ps
  | .msend _ sf _ _ _ _ _ ps => sf || ps == PField.zero
  | .tlbinv _ sc a b =>
    match sc with
    | .va => true
    | .ctx => a == .v 0
    | .all => a == .v 0 && b == .v 0
  | _ => true

/-- Whether a row is an instruction with an encoding, and not an event of the device. -/
def Instr.isInstruction : Instr → Bool
  | .invalidSlotIssue | .illegalInstructionIssue _ | .loadReturn .. | .storePerform _ | .atomicPerform _
  | .pageWalkComplete .. | .l1Eviction .. | .l2Eviction _ | .feReaderRelease .. | .copyCompletion ..
  | .matrixTileStep _ | .scratchpadResultLanding .. | .groupRetire _ | .launchEligible _ | .blockDispatch _
  | .launchCompletion _ | .preemptionTrigger _ | .blockHalt _ | .blockSave _ | .haltTimeout _
  | .handlerEntry _ | .asyncFaultDelivery _ | .eccAsyncFailure _ | .feTimeout _ | .remoteReadRequest _
  | .remoteWriteRequest _ | .remoteAtomicRequest _ | .messageDelivery _ | .readResponse .. | .writeCompletion ..
  | .atomicResponse .. | .refusalResponse .. | .quietNotice _ | .settleWaveStart _ | .settleToken ..
  | .settleTokenReturn .. | .settledReceipt .. | .linkReplay _ | .replayExhausted _ | .ackTimeout _
  | .linkWaitTimeout _ | .queryResend _ | .peerQuery .. | .peerQueryReply .. | .downNotice ..
  | .collChunkArrival _ | .slotReleaseNotice _ | .collTimeout _ | .gangReserveAck .. | .gangCommit _
  | .gangWithdraw _ | .gangWithdrawRequest .. | .gangRelease _ | .gangRefusal .. | .gangAbort _
  | .arbiterTurn _ | .hostWrite .. | .hostRead .. | .preqGo _ | .preqHoldRelease _ | .hostLaunch _
  | .jobreset _ | .faultctlRelease _ | .faultctlEnd _ | .resync _ | .jobRepair _ | .portEnable ..
  | .portDisable .. | .portTrained .. | .queueEnable .. | .queueDisable .. | .peerMapWrite .. | .acktoWrite _
  | .portWeightWrite .. | .eccCounterClear .. | .powercapWrite _ | .mgmtRegisterWrite .. | .deviceReset
  | .pcieLinkTrained | .hbmTrained | .clockStep _ | .issueGateStep _ | .thermalIssueStop _ => false
  | _ => true

/-- A well-formed instruction: one that some 96-bit word encodes and that passes steps 3 to 5 of R393. -/
def Instr.wf (i : Instr) : Bool :=
  i.isInstruction && i.varOk && i.unusedZero && i.badField.isNone

end Sys2Proof
end

