-- ==== Sys2Proof/Decode.lean ====
section
/-! DEFINITION. The 96-bit instruction word (spec 10 R237 to R249) and the opcode map (spec 11): decoding,
total on any word, and encoding. A word is decoded by reading its fields, building the instruction they
name, and comparing the word with that instruction's own encoding: a difference in VAR is an unassigned
code (0x01), a difference in any other bit is a reserved or unused bit (0x02), and an operand code outside
its role is 0x03 (R393 steps 3 to 5, R394, R395). -/

namespace Sys2Proof

/-! ### The fields of a word -/

/-- The fields of format R and X (R237); formats I, M and J are other views of the same bits. -/
structure Fields where
  opc : BitVec 10
  var : BitVec 6
  d : BitVec 9
  a : BitVec 9
  b : BitVec 9
  c : BitVec 9
  e : BitVec 9
  g0 : BitVec 4
  g1 : BitVec 4
  mods : BitVec 6
  clamp : BitVec 2
  scale : BitVec 3
  nwb : BitVec 1
  hint : BitVec 3
  stall : BitVec 4
  yield : BitVec 1
  res : BitVec 7
  deriving DecidableEq, Repr

/-- The word that holds the fields (R237). -/
def Fields.toWord (f : Fields) : BitVec 96 :=
  f.opc ++ f.var ++ f.d ++ f.a ++ f.b ++ f.c ++ f.e ++ f.g0 ++ f.g1 ++ f.mods ++ f.clamp ++ f.scale ++
    f.nwb ++ f.hint ++ f.stall ++ f.yield ++ f.res

/-- The fields of a word (R237). -/
def Fields.ofWord (w : BitVec 96) : Fields where
  opc := w.extractLsb' 86 10
  var := w.extractLsb' 80 6
  d := w.extractLsb' 71 9
  a := w.extractLsb' 62 9
  b := w.extractLsb' 53 9
  c := w.extractLsb' 44 9
  e := w.extractLsb' 35 9
  g0 := w.extractLsb' 31 4
  g1 := w.extractLsb' 27 4
  mods := w.extractLsb' 21 6
  clamp := w.extractLsb' 19 2
  scale := w.extractLsb' 16 3
  nwb := w.extractLsb' 15 1
  hint := w.extractLsb' 12 3
  stall := w.extractLsb' 8 4
  yield := w.extractLsb' 7 1
  res := w.extractLsb' 0 7

/-- IMM of format I (R239). -/
def Fields.imm (f : Fields) : BitVec 32 := f.b ++ f.c ++ f.e ++ f.res.extractLsb' 0 5
/-- OFF of format M (R240). -/
def Fields.off (f : Fields) : BitVec 18 := f.c ++ f.e
/-- SOFF of format J (R241). -/
def Fields.soff (f : Fields) : BitVec 32 := f.d ++ f.a ++ f.b ++ f.c.extractLsb' 4 5
/-- LINK of format J (R241). -/
def Fields.link (f : Fields) : BitVec 9 := f.c.extractLsb' 0 4 ++ f.e.extractLsb' 4 5

/-! ### Subfield codes -/

def Guard.code (g : Guard) : BitVec 4 := BitVec.ofBool g.neg ++ g.num
def Guard.ofCode (c : BitVec 4) : Guard := ⟨c.getLsbD 3, c.extractLsb' 0 3⟩
def PField.code (p : PField) : BitVec 9 := p.hi ++ BitVec.ofBool p.neg ++ p.num
def PField.ofCode (c : BitVec 9) : PField := ⟨c.extractLsb' 4 5, c.getLsbD 3, c.extractLsb' 0 3⟩

def Fields.hdr (f : Fields) : Hdr := ⟨Guard.ofCode f.g0, Guard.ofCode f.g1, f.stall, f.yield.getLsbD 0⟩

/-- The modifiers of the sources the form reads (R246). -/
def Fields.mod (f : Fields) (a b c : Bool) : Mods :=
  ⟨f.mods.getLsbD 5 && a, f.mods.getLsbD 4 && a, f.mods.getLsbD 3 && b, f.mods.getLsbD 2 && b,
   f.mods.getLsbD 1 && c, f.mods.getLsbD 0 && c⟩

def Fields.dm (f : Fields) : DMod := ⟨f.clamp, f.scale⟩
def Fields.od (f : Fields) : Opnd := Opnd.ofCode f.d
def Fields.oa (f : Fields) : Opnd := Opnd.ofCode f.a
def Fields.ob (f : Fields) : Opnd := Opnd.ofCode f.b
def Fields.oc (f : Fields) : Opnd := Opnd.ofCode f.c
def Fields.oe (f : Fields) : Opnd := Opnd.ofCode f.e
def Fields.pd (f : Fields) : PField := PField.ofCode f.d
def Fields.pa (f : Fields) : PField := PField.ofCode f.a
def Fields.pb (f : Fields) : PField := PField.ofCode f.b
def Fields.pc (f : Fields) : PField := PField.ofCode f.c
def Fields.pe (f : Fields) : PField := PField.ofCode f.e
/-- VAR[2:0], VAR[5:3], VAR[1:0], VAR[3] and VAR[5]. -/
def Fields.v20 (f : Fields) : BitVec 3 := f.var.extractLsb' 0 3
def Fields.v53 (f : Fields) : BitVec 3 := f.var.extractLsb' 3 3
def Fields.v10 (f : Fields) : BitVec 2 := f.var.extractLsb' 0 2
def Fields.v32 (f : Fields) : BitVec 2 := f.var.extractLsb' 2 2
def Fields.v54 (f : Fields) : BitVec 2 := f.var.extractLsb' 4 2
def Fields.v3 (f : Fields) : Bool := f.var.getLsbD 3

/-- The code of R252. -/
def ITy.code : ITy → BitVec 3
  | .i32 => 0
  | .n32 => 1
  | .i16 => 2
  | .n16 => 3
  | .i8 => 4
  | .n8 => 5
def ITy.ofCode (c : BitVec 3) : ITy :=
  match c.toNat with
  | 1 => .n32
  | 2 => .i16
  | 3 => .n16
  | 4 => .i8
  | 5 => .n8
  | _ => .i32

/-- The code of R252. -/
def FTy.code : FTy → BitVec 2
  | .f32 => 0
  | .f64 => 1
  | .h2 => 2
  | .b2 => 3
def FTy.ofCode (c : BitVec 2) : FTy :=
  match c.toNat with
  | 1 => .f64
  | 2 => .h2
  | 3 => .b2
  | _ => .f32

/-- The code of R260. -/
def Cond.code : Cond → BitVec 3
  | .eq => 0
  | .ne => 1
  | .lt => 2
  | .le => 3
  | .gt => 4
  | .ge => 5
  | .num => 6
  | .nan => 7
def Cond.ofCode (c : BitVec 3) : Cond :=
  match c.toNat with
  | 1 => .ne
  | 2 => .lt
  | 3 => .le
  | 4 => .gt
  | 5 => .ge
  | 6 => .num
  | 7 => .nan
  | _ => .eq

/-- The code of R262. -/
def Size.code : Size → BitVec 3
  | .b8 => 0
  | .b16 => 1
  | .b32 => 2
  | .b64 => 3
  | .b128 => 4
  | .s8 => 5
  | .s16 => 6
def Size.ofCode (c : BitVec 3) : Size :=
  match c.toNat with
  | 1 => .b16
  | 2 => .b32
  | 3 => .b64
  | 4 => .b128
  | 5 => .s8
  | 6 => .s16
  | _ => .b8

/-- The code of R262. -/
def AOp.code : AOp → BitVec 3
  | .add => 0
  | .min => 1
  | .max => 2
  | .and => 3
  | .or => 4
  | .xor => 5
  | .exch => 6
  | .cas => 7
def AOp.ofCode (c : BitVec 3) : AOp :=
  match c.toNat with
  | 1 => .min
  | 2 => .max
  | 3 => .and
  | 4 => .or
  | 5 => .xor
  | 6 => .exch
  | 7 => .cas
  | _ => .add

/-- The code of R263. -/
def Scope.code : Scope → BitVec 2
  | .grp => 0
  | .core => 1
  | .dev => 2
  | .pod => 3
def Scope.ofCode (c : BitVec 2) : Scope :=
  match c.toNat with
  | 1 => .core
  | 2 => .dev
  | 3 => .pod
  | _ => .grp

/-- The code of R263. -/
def BScope.code : BScope → BitVec 2
  | .blk => 0
  | .bench => 1
  | .launch => 2
def BScope.ofCode (c : BitVec 2) : BScope :=
  match c.toNat with
  | 1 => .bench
  | 2 => .launch
  | _ => .blk

/-- The code of R263. -/
def Path.code : Path → BitVec 3
  | .g => 0
  | .s => 1
  | .c => 2
  | .m => 3
  | .f => 4
def Path.ofCode (c : BitVec 3) : Path :=
  match c.toNat with
  | 1 => .s
  | 2 => .c
  | 3 => .m
  | 4 => .f
  | _ => .g

/-- The code of R264. -/
def Body.code : Body → BitVec 2
  | .q3 => 0
  | .q4 => 1
  | .v2 => 2
def Body.ofCode (c : BitVec 2) : Body :=
  match c.toNat with
  | 1 => .q4
  | 2 => .v2
  | _ => .q3

/-- The code of R274. -/
def ShflOp.code : ShflOp → BitVec 3
  | .lane => 0
  | .sub => 1
  | .add => 2
  | .bfly => 3
def ShflOp.ofCode (c : BitVec 3) : ShflOp :=
  match c.toNat with
  | 1 => .sub
  | 2 => .add
  | 3 => .bfly
  | _ => .lane

/-- The code of R274. -/
def QxOp.code : QxOp → BitVec 3
  | .x => 0
  | .y => 1
  | .d => 2
def QxOp.ofCode (c : BitVec 3) : QxOp :=
  match c.toNat with
  | 1 => .y
  | 2 => .d
  | _ => .x

/-- The code of R274. -/
def RedOp.code : RedOp → BitVec 3
  | .add => 0
  | .min => 1
  | .max => 2
  | .and => 3
  | .or => 4
  | .xor => 5
def RedOp.ofCode (c : BitVec 3) : RedOp :=
  match c.toNat with
  | 1 => .min
  | 2 => .max
  | 3 => .and
  | 4 => .or
  | 5 => .xor
  | _ => .add

/-- The code of R274. -/
def ScanOp.code : ScanOp → BitVec 2
  | .add => 0
  | .min => 1
  | .max => 2
  | .or => 3
def ScanOp.ofCode (c : BitVec 2) : ScanOp :=
  match c.toNat with
  | 1 => .min
  | 2 => .max
  | 3 => .or
  | _ => .add

/-- The code of R289. -/
def RndSel.code : RndSel → BitVec 3
  | .cur => 0
  | .rne => 1
  | .rz => 2
  | .ru => 3
  | .rd => 4
def RndSel.ofCode (c : BitVec 3) : RndSel :=
  match c.toNat with
  | 1 => .rne
  | 2 => .rz
  | 3 => .ru
  | 4 => .rd
  | _ => .cur

/-- The code of R309. -/
def CctlOp.code : CctlOp → BitVec 3
  | .wb => 0
  | .inv => 1
  | .wball => 2
  | .invall => 3
def CctlOp.ofCode (c : BitVec 3) : CctlOp :=
  match c.toNat with
  | 1 => .inv
  | 2 => .wball
  | 3 => .invall
  | _ => .wb

/-- The code of R318. -/
def WCond.code : WCond → BitVec 2
  | .eq => 0
  | .ne => 1
  | .ge => 2
  | .lt => 3
def WCond.ofCode (c : BitVec 2) : WCond :=
  match c.toNat with
  | 1 => .ne
  | 2 => .ge
  | 3 => .lt
  | _ => .eq

/-- The code of R314, R339. -/
def XSize.code : XSize → BitVec 2
  | .x4 => 0
  | .x8 => 1
  | .x16 => 2
def XSize.ofCode (c : BitVec 2) : XSize :=
  match c.toNat with
  | 1 => .x8
  | 2 => .x16
  | _ => .x4

/-- The code of R264. -/
def TFmt.code : TFmt → BitVec 2
  | .f32 => 0
  | .bf16 => 1
  | .fp16 => 2
def TFmt.ofCode (c : BitVec 2) : TFmt :=
  match c.toNat with
  | 1 => .bf16
  | 2 => .fp16
  | _ => .f32

/-- The code of R347. -/
def QSel.code : QSel → BitVec 3
  | .inj => 0
  | .cons => 1
  | .lost => 2
  | .wave => 3
def QSel.ofCode (c : BitVec 3) : QSel :=
  match c.toNat with
  | 1 => .cons
  | 2 => .lost
  | 3 => .wave
  | _ => .inj

/-- The code of R354. -/
def TlbScope.code : TlbScope → BitVec 2
  | .va => 0
  | .ctx => 1
  | .all => 2
def TlbScope.ofCode (c : BitVec 2) : TlbScope :=
  match c.toNat with
  | 1 => .ctx
  | 2 => .all
  | _ => .va

/-- KIND of `FENCE` (R263): 1, 2, 3. -/
def FKind.code : FKind → BitVec 2
  | .acq => 1
  | .rel => 2
  | .ar => 3
def FKind.ofCode (c : BitVec 2) : FKind :=
  match c.toNat with
  | 2 => .rel
  | 3 => .ar
  | _ => .acq

/-- The type t of `RATOM` in VAR[5:4] (R262). -/
def ATy.code : ATy → BitVec 2
  | .n32 | .f32 => 0
  | .i32 => 1
  | .n64 => 2
  | .i64 => 3
def ATy.ofCode (c : BitVec 2) : ATy :=
  match c.toNat with
  | 1 => .i32
  | 2 => .n64
  | 3 => .i64
  | _ => .n32

/-- ORD of loads and stores (R261). -/
def MOrd.code (o : MOrd) : BitVec 3 :=
  match o.kind, o.pod with
  | .plain, _ => 0
  | .rlx, false => 1
  | .rlx, true => 2
  | .acq, false => 3
  | .acq, true => 4
  | .rel, false => 5
  | .rel, true => 6
  | .ar, _ => 7
def MOrd.ofCode (c : BitVec 3) : MOrd :=
  match c.toNat with
  | 1 => ⟨.rlx, false⟩
  | 2 => ⟨.rlx, true⟩
  | 3 => ⟨.acq, false⟩
  | 4 => ⟨.acq, true⟩
  | 5 => ⟨.rel, false⟩
  | 6 => ⟨.rel, true⟩
  | _ => ⟨.plain, false⟩

/-- ORD of `ATOM` and `RED` (R261). -/
def MOrd.codeA (o : MOrd) : BitVec 3 :=
  (match o.kind with
   | .acq => 1#2
   | .rel => 2#2
   | .ar => 3#2
   | _ => 0#2) ++ BitVec.ofBool o.pod
def MOrd.ofCodeA (c : BitVec 3) : MOrd :=
  ⟨match (c.extractLsb' 1 2).toNat with
   | 1 => .acq
   | 2 => .rel
   | 3 => .ar
   | _ => .rlx, c.getLsbD 0⟩

/-- OP and DRAIN of `COLL` (R348). -/
def CollOp.code : CollOp → BitVec 6
  | .sum false => 0x00
  | .sum true => 0x10
  | .max false => 0x01
  | .max true => 0x11
  | .stat => 0x02
  | .statNorm false => 0x12
  | .statNorm true => 0x22
def CollOp.ofCode (c : BitVec 6) : CollOp :=
  match c.toNat with
  | 0x10 => .sum true
  | 0x01 => .max false
  | 0x11 => .max true
  | 0x02 => .stat
  | 0x12 => .statNorm false
  | 0x22 => .statNorm true
  | _ => .sum false

/-! ### Building fields -/

/-- A word's fields with nothing but its opcode, VAR, guards, stall and yield. -/
def Fields.start (opc : BitVec 10) (h : Hdr) (var : BitVec 6) : Fields where
  opc := opc
  var := var
  d := 0
  a := 0
  b := 0
  c := 0
  e := 0
  g0 := h.g0.code
  g1 := h.g1.code
  mods := 0
  clamp := 0
  scale := 0
  nwb := 0
  hint := 0
  stall := h.stall
  yield := BitVec.ofBool h.yield
  res := 0

/-- Sets the five operand fields. -/
def Fields.ops (f : Fields) (d a b c e : BitVec 9) : Fields := { f with d := d, a := a, b := b, c := c, e := e }
def Fields.setMods (f : Fields) (m : Mods) : Fields := { f with mods := m.code }
def Fields.setDm (f : Fields) (m : DMod) : Fields := { f with clamp := m.clamp, scale := m.scale }
def Fields.setHint (f : Fields) (n : BitVec 3) : Fields := { f with hint := n }
/-- NWB stands exactly when D holds lt0 (R248). -/
def Fields.latch (f : Fields) : Fields := { f with nwb := if f.d = 0x0C8 then 1 else 0 }
/-- Format I: D, A and IMM (R239). -/
def Fields.setImm (f : Fields) (d a : BitVec 9) (imm : BitVec 32) : Fields :=
  { f with d := d, a := a, b := imm.extractLsb' 23 9, c := imm.extractLsb' 14 9, e := imm.extractLsb' 5 9,
           res := 0#2 ++ imm.extractLsb' 0 5 }
/-- Format M: D, A, B and OFF (R240). -/
def Fields.setOff (f : Fields) (d a b : BitVec 9) (off : BitVec 18) : Fields :=
  { f with d := d, a := a, b := b, c := off.extractLsb' 9 9, e := off.extractLsb' 0 9 }
/-- Format J: SOFF and LINK (R241). -/
def Fields.setSoff (f : Fields) (soff : BitVec 32) (link : BitVec 9) : Fields :=
  { f with d := soff.extractLsb' 23 9, a := soff.extractLsb' 14 9, b := soff.extractLsb' 5 9,
           c := soff.extractLsb' 0 5 ++ link.extractLsb' 5 4, e := link.extractLsb' 0 5 ++ 0#4 }

/-- VAR with an option in [5:3] and a code in [2:0]. -/
def varOf (hi lo : BitVec 3) : BitVec 6 := hi ++ lo
def bit3 (b : Bool) : BitVec 3 := BitVec.setWidth 3 (BitVec.ofBool b)
/-- VAR with a 4-bit option and FTYPE. -/
def varF (hi : BitVec 4) (t : FTy) : BitVec 6 := hi ++ t.code

/-- Which form of `VOTE` (R274). -/
def VoteForm.code : VoteForm → BitVec 3
  | .some _ => 0
  | .every _ => 1
  | .same _ => 2
  | .cnt _ => 3
def VoteForm.dcode : VoteForm → BitVec 9
  | .some p | .every p | .same p => p.code
  | .cnt d => d.code
def VoteForm.ofCode (k : BitVec 3) (d : BitVec 9) : VoteForm :=
  match k.toNat with
  | 1 => .every (PField.ofCode d)
  | 2 => .same (PField.ofCode d)
  | 3 => .cnt (Opnd.ofCode d)
  | _ => .some (PField.ofCode d)

/-! ### The map (R259) -/

/-- Class 0x0: Integer. -/
def parse0 (f : Fields) (n : Nat) : Option Instr :=
  match n with
  | 0x00 => some (.iadd f.hdr (f.mod true true false) (ITy.ofCode f.v20) f.v3 f.od f.oa f.ob)
  | 0x01 => some (.isub f.hdr (f.mod true true false) (ITy.ofCode f.v20) f.v3 f.od f.oa f.ob)
  | 0x02 => some (.iadd3 f.hdr (f.mod true true true) (ITy.ofCode f.v20) f.v3 f.od f.oa f.ob f.oc)
  | 0x03 => some (.iaddc f.hdr (f.mod true true false) f.od f.oa f.ob f.pc f.pe)
  | 0x04 => some (.isubb f.hdr (f.mod true true false) f.od f.oa f.ob f.pc f.pe)
  | 0x05 => some (.imul f.hdr (f.mod true true false) (ITy.ofCode f.v20) f.v3 f.od f.oa f.ob)
  | 0x06 => some (.imulh f.hdr (f.mod true true false) (ITy.ofCode f.v20) f.od f.oa f.ob)
  | 0x07 => some (.imad f.hdr (f.mod true true true) (ITy.ofCode f.v20) f.v3 f.od f.oa f.ob f.oc)
  | 0x08 => some (.imadw f.hdr (f.mod true true true) (ITy.ofCode f.v20) f.od f.oa f.ob f.oc)
  | 0x09 => some (.imin f.hdr (f.mod true true false) (ITy.ofCode f.v20) f.od f.oa f.ob)
  | 0x0A => some (.imax f.hdr (f.mod true true false) (ITy.ofCode f.v20) f.od f.oa f.ob)
  | 0x0B => some (.iabs f.hdr (f.mod true false false) (ITy.ofCode f.v20) f.v3 f.od f.oa)
  | 0x0C => some (.isad f.hdr (f.mod true true true) (ITy.ofCode f.v20) f.od f.oa f.ob f.oc)
  | 0x0D => some (.idot4 f.hdr (f.mod true true true) (ITy.ofCode f.v20) f.v3 f.od f.oa f.ob f.oc)
  | 0x0E => some (.lea f.hdr (f.mod true true false) (ITy.ofCode f.v20) f.v53 f.od f.oa f.ob)
  | 0x0F => some (.iadd64 f.hdr (f.mod true true false) f.od f.oa f.ob)
  | 0x10 => some (.isub64 f.hdr (f.mod true true false) f.od f.oa f.ob)
  | 0x11 => some (.mov f.hdr (f.mod true false false) f.v3 f.od f.oa)
  | 0x12 => some (.movi f.hdr f.v3 f.od f.imm)
  | _ => none

/-- Class 0x1: Logic and bits. -/
def parse1 (f : Fields) (n : Nat) : Option Instr :=
  match n with
  | 0x00 => some (.and f.hdr f.od f.oa f.ob)
  | 0x01 => some (.or f.hdr f.od f.oa f.ob)
  | 0x02 => some (.xor f.hdr f.od f.oa f.ob)
  | 0x03 => some (.andn f.hdr f.od f.oa f.ob)
  | 0x04 => some (.lop3 f.hdr (f.e.extractLsb' 0 8) f.od f.oa f.ob f.oc)
  | 0x05 => some (.shl f.hdr f.v3 f.od f.oa f.ob)
  | 0x06 => some (.shr f.hdr f.v3 f.od f.oa f.ob)
  | 0x07 => some (.sar f.hdr f.v3 f.od f.oa f.ob)
  | 0x08 => some (.fshl f.hdr f.od f.oa f.ob f.oc)
  | 0x09 => some (.fshr f.hdr f.od f.oa f.ob f.oc)
  | 0x0A => some (.rotl f.hdr f.od f.oa f.ob)
  | 0x0B => some (.bfe f.hdr (ITy.ofCode f.v20) f.od f.oa f.ob f.oc)
  | 0x0C => some (.bfi f.hdr f.od f.oa f.ob f.oc f.oe)
  | 0x0D => some (.brev f.hdr f.od f.oa)
  | 0x0E => some (.popc f.hdr f.od f.oa)
  | 0x0F => some (.clz f.hdr f.od f.oa)
  | 0x10 => some (.ctz f.hdr f.od f.oa)
  | 0x11 => some (.prmt f.hdr f.od f.oa f.ob f.oc)
  | _ => none

/-- Class 0x2: Compare and predicate. -/
def parse2 (f : Fields) (n : Nat) : Option Instr :=
  match n with
  | 0x00 => some (.icmp f.hdr (f.mod true true false) (Cond.ofCode f.v53) (ITy.ofCode f.v20) f.pd f.oa f.ob f.pc)
  | 0x01 => some (.fcmp f.hdr (f.mod true true false) (Cond.ofCode f.v53) (FTy.ofCode f.v10) f.pd f.oa f.ob f.pc)
  | 0x02 => some (.sel f.hdr (f.mod true true false) f.od f.oa f.ob f.pc)
  | 0x03 => some (.pset f.hdr (f.e.extractLsb' 0 8) f.pd f.pa f.pb f.pc)
  | 0x04 => some (.pmovs f.hdr f.od f.pa)
  | 0x05 => some (.pmovp f.hdr (f.mod true false false) f.pd f.oa)
  | _ => none

/-- Class 0x3: Floating point. -/
def parse3 (f : Fields) (n : Nat) : Option Instr :=
  match n with
  | 0x00 => some (.fadd f.hdr (f.mod true true false) f.dm (FTy.ofCode f.v10) f.od f.oa f.ob)
  | 0x01 => some (.fsub f.hdr (f.mod true true false) f.dm (FTy.ofCode f.v10) f.od f.oa f.ob)
  | 0x02 => some (.fmul f.hdr (f.mod true true false) f.dm (FTy.ofCode f.v10) f.od f.oa f.ob)
  | 0x03 => some (.ffma f.hdr (f.mod true true true) f.dm (FTy.ofCode f.v10) f.od f.oa f.ob f.oc)
  | 0x04 => some (.fmin f.hdr (f.mod true true false) f.dm (FTy.ofCode f.v10) f.od f.oa f.ob)
  | 0x05 => some (.fmax f.hdr (f.mod true true false) f.dm (FTy.ofCode f.v10) f.od f.oa f.ob)
  | 0x06 => some (.frnd f.hdr (f.mod true false false) f.dm (RndSel.ofCode (f.var.extractLsb' 2 3)) (FTy.ofCode f.v10) f.od f.oa)
  | 0x07 => some (.fclass f.hdr (f.mod true false false) (FTy.ofCode f.v10) f.od f.oa)
  | 0x08 => some (.fscale f.hdr (f.mod true true false) f.dm (FTy.ofCode f.v10) f.od f.oa f.ob)
  | 0x09 => some (.fdot2 f.hdr (f.mod true true true) f.dm (FTy.ofCode f.v10) f.od f.oa f.ob f.oc)
  | _ => none

/-- Class 0x4: Conversion and special functions. -/
def parse4 (f : Fields) (n : Nat) : Option Instr :=
  match n with
  | 0x00 => some (.fcvt f.hdr (f.mod true false false) f.dm (f.var.getLsbD 5) (FTy.ofCode f.v10) (FTy.ofCode f.v32) f.od f.oa)
  | 0x01 => some (.i2f f.hdr (f.mod true false false) f.dm (FTy.ofCode f.v10) (ITy.ofCode (f.var.extractLsb' 2 3)) f.od f.oa)
  | 0x02 => some (.f2i f.hdr (f.mod true false false) f.scale (ITy.ofCode (f.var.extractLsb' 2 3)) (FTy.ofCode f.v10) f.od f.oa)
  | 0x03 => some (.packh f.hdr (f.mod true true false) f.dm (FTy.ofCode f.v10) f.od f.oa f.ob)
  | 0x04 => some (.frcp f.hdr (f.mod true false false) f.dm (FTy.ofCode f.v10) f.od f.oa)
  | 0x05 => some (.frsq f.hdr (f.mod true false false) f.dm (FTy.ofCode f.v10) f.od f.oa)
  | 0x06 => some (.fsqrt f.hdr (f.mod true false false) f.dm (FTy.ofCode f.v10) f.od f.oa)
  | 0x07 => some (.fexp2 f.hdr (f.mod true false false) f.dm (FTy.ofCode f.v10) f.od f.oa)
  | 0x08 => some (.flog2 f.hdr (f.mod true false false) f.dm (FTy.ofCode f.v10) f.od f.oa)
  | 0x09 => some (.fsin f.hdr (f.mod true false false) f.dm (FTy.ofCode f.v10) f.od f.oa)
  | 0x0A => some (.fcos f.hdr (f.mod true false false) f.dm (FTy.ofCode f.v10) f.od f.oa)
  | 0x0B => some (.ftanh f.hdr (f.mod true false false) f.dm (FTy.ofCode f.v10) f.od f.oa)
  | 0x0C => some (.fdiv f.hdr (f.mod true true false) f.dm (FTy.ofCode f.v10) f.od f.oa f.ob)
  | _ => none

/-- Class 0x5: Statistics. -/
def parse5 (f : Fields) (n : Nat) : Option Instr :=
  match n with
  | 0x00 => some (.stclr f.hdr f.od)
  | 0x01 => some (.stupd f.hdr (f.mod false true false) f.od f.oa f.ob)
  | 0x02 => some (.stwupd f.hdr (f.mod false true true) f.od f.oa f.ob f.oc)
  | 0x03 => some (.stmrg f.hdr f.od f.oa f.ob)
  | 0x04 => some (.stnrm f.hdr (f.mod false true false) (f.var.getLsbD 0) f.od f.oa f.ob)
  | 0x05 => some (.stred f.hdr f.od f.oa)
  | 0x06 => some (.stqred f.hdr f.od f.oa)
  | _ => none

/-- Class 0x6: Lane, quad, vote. -/
def parse6 (f : Fields) (n : Nat) : Option Instr :=
  match n with
  | 0x00 => some (.qxchg f.hdr (QxOp.ofCode f.v53) f.od f.oa)
  | 0x01 => some (.qbcst f.hdr (f.v53.extractLsb' 0 2) f.od f.oa)
  | 0x02 => some (.qhelp f.hdr f.v3)
  | 0x03 => some (.shfl f.hdr (ShflOp.ofCode f.v53) f.od f.oa f.ob)
  | 0x04 => some (.vote f.hdr (VoteForm.ofCode f.v53 f.d) f.pa)
  | 0x05 => some (.redg f.hdr (RedOp.ofCode f.v53) (ITy.ofCode f.v20) f.od f.oa)
  | 0x06 => some (.scang f.hdr (ScanOp.ofCode (f.v53.extractLsb' 0 2)) (f.v53.getLsbD 2) (ITy.ofCode f.v20) f.od f.oa)
  | 0x07 => some (.zscan f.hdr f.v3 f.od f.oa f.oc)
  | 0x08 => some (.rdlane f.hdr f.od f.oa f.ob)
  | 0x09 => some (.wrlane f.hdr f.od f.oa f.ob)
  | _ => none

/-- Class 0x7: Control. -/
def parse7 (f : Fields) (n : Nat) : Option Instr :=
  match n with
  | 0x00 => some (.bra f.hdr f.soff)
  | 0x01 => some (.brx f.hdr f.oa)
  | 0x02 => some (.call f.hdr (Opnd.ofCode f.link) f.soff)
  | 0x03 => some (.callx f.hdr f.od f.oa)
  | 0x04 => some (.ret f.hdr f.oa)
  | 0x05 => some (.regang f.hdr f.oa)
  | 0x06 => some (.exit f.hdr)
  | 0x07 => some (.yield f.hdr)
  | 0x08 => some (.nop f.hdr)
  | 0x09 => some (.trap f.hdr (f.imm.extractLsb' 0 8))
  | 0x0A => some (.bar f.hdr (BScope.ofCode f.v10) f.oa)
  | 0x0B => some (.bara f.hdr (BScope.ofCode f.v10) f.oa)
  | 0x0C => some (.barw f.hdr (BScope.ofCode f.v10) f.oa)
  | 0x0D => some (.hret f.hdr)
  | 0x0E => some (.hset f.hdr f.oa f.ob f.oc)
  | 0x0F => some (.hmask f.hdr f.v3)
  | _ => none

/-- Class 0x8: Global memory. -/
def parse8 (f : Fields) (n : Nat) : Option Instr :=
  match n with
  | 0x00 => some (.ld f.hdr f.hint (MOrd.ofCode f.v53) (Size.ofCode f.v20) f.od f.oa f.ob f.off)
  | 0x01 => some (.st f.hdr f.hint (MOrd.ofCode f.v53) (Size.ofCode f.v20) f.od f.oa f.ob f.off)
  | 0x02 => some (.stm f.hdr f.hint f.od f.oa f.ob f.off)
  | 0x03 => some (.sld f.hdr f.hint (MOrd.ofCode f.v53) (Size.ofCode f.v20) f.od f.oa f.ob f.off)
  | 0x04 => some (.sst f.hdr f.hint (MOrd.ofCode f.v53) (Size.ofCode f.v20) f.od f.oa f.ob f.off)
  | 0x05 => some (.atom f.hdr f.hint (MOrd.ofCodeA f.v53) (AOp.ofCode f.v20) f.od f.oa f.ob (if AOp.ofCode f.v20 = .cas then f.oc else .v 0) f.oe)
  | 0x06 => some (.red f.hdr f.hint (MOrd.ofCodeA f.v53) (AOp.ofCode f.v20) f.oa f.ob f.oe)
  | 0x07 => some (.pref f.hdr f.hint (f.var.getLsbD 0) f.oa f.ob f.off)
  | 0x08 => some (.fence f.hdr f.hint (FKind.ofCode f.v32) (Scope.ofCode f.v10))
  | 0x09 => some (.fencex f.hdr f.hint (Path.ofCode f.v53) (Path.ofCode f.v20))
  | 0x0A => some (if CctlOp.ofCode f.v20 = .wb ∨ CctlOp.ofCode f.v20 = .inv then .cctl f.hdr f.hint (CctlOp.ofCode f.v20) f.oa f.ob f.off else .cctl f.hdr f.hint (CctlOp.ofCode f.v20) (.v 0) (.v 0) 0)
  | _ => none

/-- Class 0x9: Scratchpad and decode. -/
def parse9 (f : Fields) (n : Nat) : Option Instr :=
  match n with
  | 0x00 => some (.lds f.hdr f.hint (Size.ofCode f.v20) f.od f.oa f.ob f.off)
  | 0x01 => some (.sts f.hdr f.hint (Size.ofCode f.v20) f.od f.oa f.ob f.off)
  | 0x02 => some (.atoms f.hdr f.hint (AOp.ofCode f.v20) f.od f.oa f.ob (if AOp.ofCode f.v20 = .cas then f.oc else .v 0) f.oe)
  | 0x03 => some (.sete f.hdr f.hint f.oa f.ob f.off)
  | 0x04 => some (.setf f.hdr f.hint f.oa f.ob f.off)
  | 0x05 => some (.tstf f.hdr f.hint f.od f.oa f.ob f.off)
  | 0x06 => some (.dec f.hdr f.hint (f.var.getLsbD 0) f.od f.oa (if f.var.getLsbD 0 then f.ob else .v 0) f.oc f.pe)
  | _ => none

/-- Class 0xA: Copy and waits. -/
def parseA (f : Fields) (n : Nat) : Option Instr :=
  match n with
  | 0x00 => some (.cpy f.hdr f.hint (XSize.ofCode f.v10) (f.var.getLsbD 2) f.v3 f.od f.oa f.oc f.oe)
  | 0x01 => some (.cpyt f.hdr f.hint f.v10 (f.var.getLsbD 2) f.v3 f.od f.oa f.ob f.oc f.oe)
  | 0x02 => some (.cpyc f.hdr f.hint (XSize.ofCode f.v10) (f.var.getLsbD 2) f.v3 f.od f.oa f.oc f.oe)
  | 0x03 => some (.ldct f.hdr f.hint (f.var.getLsbD 2) f.oa f.oe)
  | 0x04 => some (.waitc f.hdr f.hint (Path.ofCode f.v20) f.oa)
  | 0x05 => some (.rdc f.hdr f.hint (Path.ofCode f.v20) f.od)
  | 0x06 => some (.waitm f.hdr f.hint (WCond.ofCode f.v10) (f.var.getLsbD 2) f.od f.oa f.ob)
  | 0x07 => some (.abinit f.hdr f.hint f.oa f.ob)
  | 0x08 => some (.abarr f.hdr f.hint f.oa f.ob f.oc)
  | 0x09 => some (.abwait f.hdr f.hint f.oa f.ob)
  | 0x0A => some (.abflg f.hdr f.hint f.od f.oa)
  | _ => none

/-- Class 0xB: Matrix. -/
def parseB (f : Fields) (n : Nat) : Option Instr :=
  match n with
  | 0x00 => some (.mmq f.hdr (Body.ofCode f.v10) f.v32 f.od f.oa f.ob f.oc f.oe)
  | 0x01 => some (.mmf f.hdr (f.var.getLsbD 0) f.od f.oa f.ob f.oc f.oe)
  | 0x02 => some (.mmd f.hdr f.od f.oa f.ob f.oc f.oe)
  | 0x03 => some (.tenc f.hdr (Body.ofCode f.v10) f.v32 f.v54 f.od f.oa f.ob f.oe)
  | 0x04 => some (.tdec f.hdr (Body.ofCode f.v10) f.v32 f.od f.ob f.oe)
  | 0x05 => some (.tpin f.hdr (Body.ofCode f.v10) f.v32 f.ob f.oc f.oe)
  | 0x06 => some (.tunpin f.hdr f.ob f.oe)
  | 0x07 => some (.mxcfg f.hdr f.oa)
  | 0x08 => some (.tzero f.hdr f.od f.oc f.oe)
  | 0x09 => some (.tcvt f.hdr (TFmt.ofCode f.v10) f.od f.oa f.oc f.oe)
  | 0x0A => some (.ldcbk f.hdr f.oa f.oe)
  | _ => none

/-- Class 0xC: Fabric. -/
def parseC (f : Fields) (n : Nat) : Option Instr :=
  match n with
  | 0x00 => some (.rld f.hdr f.v3 (Size.ofCode f.v20) f.od f.oa f.ob (if f.v3 then f.pe else PField.zero))
  | 0x01 => some (.rst f.hdr f.v3 (Size.ofCode f.v20) f.od f.oa f.ob (if f.v3 then f.pe else PField.zero))
  | 0x02 => some (.ratom f.hdr f.v3 (ATy.ofCode f.v54) (AOp.ofCode f.v20) f.od f.oa f.ob f.oc (if f.v3 then f.pe else PField.zero))
  | 0x03 => some (.rcpy f.hdr f.v3 (f.var.getLsbD 4) (XSize.ofCode f.v10) f.od f.oa f.ob f.oc (if f.v3 then f.pe else PField.zero))
  | 0x04 => some (.msend f.hdr f.v3 (f.var.getLsbD 4) f.od f.oa f.ob f.oc (if f.v3 then f.pe else PField.zero))
  | 0x05 => some (.mdone f.hdr)
  | 0x06 => some (.quiet f.hdr)
  | 0x07 => some (.qstat f.hdr (QSel.ofCode f.v20) f.od)
  | 0x08 => some (.coll f.hdr (CollOp.ofCode f.var) f.od f.oa f.ob f.oc f.oe)
  | 0x09 => some (.rfence f.hdr)
  | _ => none

/-- Class 0xD: System. -/
def parseD (f : Fields) (n : Nat) : Option Instr :=
  match n with
  | 0x00 => some (.csrr f.hdr f.od (f.imm.extractLsb' 0 12))
  | 0x01 => some (.csrw f.hdr f.od f.oa (f.imm.extractLsb' 0 12))
  | 0x02 => some (.csrs f.hdr f.od f.oa (f.imm.extractLsb' 0 12))
  | 0x03 => some (.csrc f.hdr f.od f.oa (f.imm.extractLsb' 0 12))
  | 0x04 => some (.launch f.hdr f.od f.oa f.ob)
  | 0x05 => some (.sysc f.hdr (f.imm.extractLsb' 0 8))
  | 0x06 => some (.ldovt f.hdr f.oa)
  | 0x07 => some (.tlbinv f.hdr (TlbScope.ofCode f.v10) (if TlbScope.ofCode f.v10 = .va then f.oa else .v 0) (if TlbScope.ofCode f.v10 = .all then .v 0 else f.ob))
  | 0x08 => some (.eret f.hdr)
  | 0x09 => some (.halt f.hdr (f.var.getLsbD 0) f.oa)
  | _ => none

/-- The instruction that the fields name, whatever their VAR, unused and role checks say; none when OPC is
unassigned (R259). -/
def parse (f : Fields) : Option Instr :=
  let n := (f.opc.extractLsb' 0 6).toNat
  match (f.opc.extractLsb' 6 4).toNat with
  | 0x0 => parse0 f n
  | 0x1 => parse1 f n
  | 0x2 => parse2 f n
  | 0x3 => parse3 f n
  | 0x4 => parse4 f n
  | 0x5 => parse5 f n
  | 0x6 => parse6 f n
  | 0x7 => parse7 f n
  | 0x8 => parse8 f n
  | 0x9 => parse9 f n
  | 0xA => parseA f n
  | 0xB => parseB f n
  | 0xC => parseC f n
  | 0xD => parseD f n
  | _ => none

/-- The fields of an instruction's word; none for an event. -/
def Instr.fields : Instr → Option Fields
  | .iadd h m t sat d a b => some ((((Fields.start 0x000 h (varOf (bit3 sat) t.code)).ops d.code a.code b.code 0 0).setMods m).latch)
  | .isub h m t sat d a b => some ((((Fields.start 0x001 h (varOf (bit3 sat) t.code)).ops d.code a.code b.code 0 0).setMods m).latch)
  | .iadd3 h m t sat d a b c => some ((((Fields.start 0x002 h (varOf (bit3 sat) t.code)).ops d.code a.code b.code c.code 0).setMods m).latch)
  | .iaddc h m d a b pc pe => some ((((Fields.start 0x003 h 1).ops d.code a.code b.code pc.code pe.code).setMods m).latch)
  | .isubb h m d a b pc pe => some ((((Fields.start 0x004 h 1).ops d.code a.code b.code pc.code pe.code).setMods m).latch)
  | .imul h m t sat d a b => some ((((Fields.start 0x005 h (varOf (bit3 sat) t.code)).ops d.code a.code b.code 0 0).setMods m).latch)
  | .imulh h m t d a b => some ((((Fields.start 0x006 h (varOf 0 t.code)).ops d.code a.code b.code 0 0).setMods m).latch)
  | .imad h m t sat d a b c => some ((((Fields.start 0x007 h (varOf (bit3 sat) t.code)).ops d.code a.code b.code c.code 0).setMods m).latch)
  | .imadw h m t d a b c => some ((((Fields.start 0x008 h (varOf 0 t.code)).ops d.code a.code b.code c.code 0).setMods m).latch)
  | .imin h m t d a b => some ((((Fields.start 0x009 h (varOf 0 t.code)).ops d.code a.code b.code 0 0).setMods m).latch)
  | .imax h m t d a b => some ((((Fields.start 0x00A h (varOf 0 t.code)).ops d.code a.code b.code 0 0).setMods m).latch)
  | .iabs h m t sat d a => some ((((Fields.start 0x00B h (varOf (bit3 sat) t.code)).ops d.code a.code 0 0 0).setMods m).latch)
  | .isad h m t d a b c => some ((((Fields.start 0x00C h (varOf 0 t.code)).ops d.code a.code b.code c.code 0).setMods m).latch)
  | .idot4 h m t sat d a b c => some ((((Fields.start 0x00D h (varOf (bit3 sat) t.code)).ops d.code a.code b.code c.code 0).setMods m).latch)
  | .lea h m t k d a b => some ((((Fields.start 0x00E h (varOf k t.code)).ops d.code a.code b.code 0 0).setMods m).latch)
  | .iadd64 h m d a b => some ((((Fields.start 0x00F h 0).ops d.code a.code b.code 0 0).setMods m).latch)
  | .isub64 h m d a b => some ((((Fields.start 0x010 h 0).ops d.code a.code b.code 0 0).setMods m).latch)
  | .mov h m w d a => some ((((Fields.start 0x011 h (varOf (bit3 w) 0)).ops d.code a.code 0 0 0).setMods m).latch)
  | .movi h w d imm => some (((Fields.start 0x012 h (varOf (bit3 w) 0)).setImm d.code 0 imm).latch)
  | .and h d a b => some (((Fields.start 0x040 h 0).ops d.code a.code b.code 0 0).latch)
  | .or h d a b => some (((Fields.start 0x041 h 0).ops d.code a.code b.code 0 0).latch)
  | .xor h d a b => some (((Fields.start 0x042 h 0).ops d.code a.code b.code 0 0).latch)
  | .andn h d a b => some (((Fields.start 0x043 h 0).ops d.code a.code b.code 0 0).latch)
  | .lop3 h lut d a b c => some (((Fields.start 0x044 h 0).ops d.code a.code b.code c.code (0#1 ++ lut)).latch)
  | .shl h w d a b => some (((Fields.start 0x045 h (varOf (bit3 w) 0)).ops d.code a.code b.code 0 0).latch)
  | .shr h w d a b => some (((Fields.start 0x046 h (varOf (bit3 w) 0)).ops d.code a.code b.code 0 0).latch)
  | .sar h w d a b => some (((Fields.start 0x047 h (varOf (bit3 w) 0)).ops d.code a.code b.code 0 0).latch)
  | .fshl h d a b c => some (((Fields.start 0x048 h 0).ops d.code a.code b.code c.code 0).latch)
  | .fshr h d a b c => some (((Fields.start 0x049 h 0).ops d.code a.code b.code c.code 0).latch)
  | .rotl h d a b => some (((Fields.start 0x04A h 0).ops d.code a.code b.code 0 0).latch)
  | .bfe h t d a b c => some (((Fields.start 0x04B h (varOf 0 t.code)).ops d.code a.code b.code c.code 0).latch)
  | .bfi h d a b c e => some (((Fields.start 0x04C h 0).ops d.code a.code b.code c.code e.code).latch)
  | .brev h d a => some (((Fields.start 0x04D h 0).ops d.code a.code 0 0 0).latch)
  | .popc h d a => some (((Fields.start 0x04E h 0).ops d.code a.code 0 0 0).latch)
  | .clz h d a => some (((Fields.start 0x04F h 0).ops d.code a.code 0 0 0).latch)
  | .ctz h d a => some (((Fields.start 0x050 h 0).ops d.code a.code 0 0 0).latch)
  | .prmt h d a b c => some (((Fields.start 0x051 h 0).ops d.code a.code b.code c.code 0).latch)
  | .icmp h m cd t pd a b pq => some (((Fields.start 0x080 h (varOf cd.code t.code)).ops pd.code a.code b.code pq.code 0).setMods m)
  | .fcmp h m cd ft pd a b pq => some (((Fields.start 0x081 h (varOf cd.code (0#1 ++ ft.code))).ops pd.code a.code b.code pq.code 0).setMods m)
  | .sel h m d a b pq => some ((((Fields.start 0x082 h 0).ops d.code a.code b.code pq.code 0).setMods m).latch)
  | .pset h lut pd pa pb pc => some ((Fields.start 0x083 h 0).ops pd.code pa.code pb.code pc.code (0#1 ++ lut))
  | .pmovs h d pa => some ((Fields.start 0x084 h 0).ops d.code pa.code 0 0 0)
  | .pmovp h m pd a => some (((Fields.start 0x085 h 0).ops pd.code a.code 0 0 0).setMods m)
  | .fadd h m dm ft d a b => some (((((Fields.start 0x0C0 h (varF 0 ft)).ops d.code a.code b.code 0 0).setMods m).setDm dm).latch)
  | .fsub h m dm ft d a b => some (((((Fields.start 0x0C1 h (varF 0 ft)).ops d.code a.code b.code 0 0).setMods m).setDm dm).latch)
  | .fmul h m dm ft d a b => some (((((Fields.start 0x0C2 h (varF 0 ft)).ops d.code a.code b.code 0 0).setMods m).setDm dm).latch)
  | .ffma h m dm ft d a b c => some (((((Fields.start 0x0C3 h (varF 0 ft)).ops d.code a.code b.code c.code 0).setMods m).setDm dm).latch)
  | .fmin h m dm ft d a b => some (((((Fields.start 0x0C4 h (varF 0 ft)).ops d.code a.code b.code 0 0).setMods m).setDm dm).latch)
  | .fmax h m dm ft d a b => some (((((Fields.start 0x0C5 h (varF 0 ft)).ops d.code a.code b.code 0 0).setMods m).setDm dm).latch)
  | .frnd h m dm rm ft d a => some (((((Fields.start 0x0C6 h (varF (0#1 ++ rm.code) ft)).ops d.code a.code 0 0 0).setMods m).setDm dm).latch)
  | .fclass h m ft d a => some ((((Fields.start 0x0C7 h (varF 0 ft)).ops d.code a.code 0 0 0).setMods m).latch)
  | .fscale h m dm ft d a b => some (((((Fields.start 0x0C8 h (varF 0 ft)).ops d.code a.code b.code 0 0).setMods m).setDm dm).latch)
  | .fdot2 h m dm ft d a b c => some (((((Fields.start 0x0C9 h (varF 0 ft)).ops d.code a.code b.code c.code 0).setMods m).setDm dm).latch)
  | .fcvt h m dm hi dt sf d a => some (((((Fields.start 0x100 h (varF (BitVec.ofBool hi ++ 0#1 ++ sf.code) dt)).ops d.code a.code 0 0 0).setMods m).setDm dm).latch)
  | .i2f h m dm dt it d a => some (((((Fields.start 0x101 h (varF (0#1 ++ it.code) dt)).ops d.code a.code 0 0 0).setMods m).setDm dm).latch)
  | .f2i h m scale it sf d a => some (((((Fields.start 0x102 h (varF (0#1 ++ it.code) sf)).ops d.code a.code 0 0 0).setMods m).setDm ⟨0, scale⟩).latch)
  | .packh h m dm ft d a b => some (((((Fields.start 0x103 h (varF 0 ft)).ops d.code a.code b.code 0 0).setMods m).setDm dm).latch)
  | .frcp h m dm ft d a => some (((((Fields.start 0x104 h (varF 0 ft)).ops d.code a.code 0 0 0).setMods m).setDm dm).latch)
  | .frsq h m dm ft d a => some (((((Fields.start 0x105 h (varF 0 ft)).ops d.code a.code 0 0 0).setMods m).setDm dm).latch)
  | .fsqrt h m dm ft d a => some (((((Fields.start 0x106 h (varF 0 ft)).ops d.code a.code 0 0 0).setMods m).setDm dm).latch)
  | .fexp2 h m dm ft d a => some (((((Fields.start 0x107 h (varF 0 ft)).ops d.code a.code 0 0 0).setMods m).setDm dm).latch)
  | .flog2 h m dm ft d a => some (((((Fields.start 0x108 h (varF 0 ft)).ops d.code a.code 0 0 0).setMods m).setDm dm).latch)
  | .fsin h m dm ft d a => some (((((Fields.start 0x109 h (varF 0 ft)).ops d.code a.code 0 0 0).setMods m).setDm dm).latch)
  | .fcos h m dm ft d a => some (((((Fields.start 0x10A h (varF 0 ft)).ops d.code a.code 0 0 0).setMods m).setDm dm).latch)
  | .ftanh h m dm ft d a => some (((((Fields.start 0x10B h (varF 0 ft)).ops d.code a.code 0 0 0).setMods m).setDm dm).latch)
  | .fdiv h m dm ft d a b => some (((((Fields.start 0x10C h (varF 0 ft)).ops d.code a.code b.code 0 0).setMods m).setDm dm).latch)
  | .stclr h d => some ((Fields.start 0x140 h 0).ops d.code 0 0 0 0)
  | .stupd h m d a x => some (((Fields.start 0x141 h 0).ops d.code a.code x.code 0 0).setMods m)
  | .stwupd h m d a x w => some (((Fields.start 0x142 h 0).ops d.code a.code x.code w.code 0).setMods m)
  | .stmrg h d a b => some ((Fields.start 0x143 h 0).ops d.code a.code b.code 0 0)
  | .stnrm h m smp d a x => some (((Fields.start 0x144 h (varOf 0 (bit3 smp))).ops d.code a.code x.code 0 0).setMods m)
  | .stred h d a => some ((Fields.start 0x145 h 0).ops d.code a.code 0 0 0)
  | .stqred h d a => some ((Fields.start 0x146 h 0).ops d.code a.code 0 0 0)
  | .qxchg h op d a => some (((Fields.start 0x180 h (varOf op.code 0)).ops d.code a.code 0 0 0).latch)
  | .qbcst h k d a => some (((Fields.start 0x181 h (varOf (0#1 ++ k) 0)).ops d.code a.code 0 0 0).latch)
  | .qhelp h on => some ((Fields.start 0x182 h (varOf (bit3 on) 0)).ops 0 0 0 0 0)
  | .shfl h op d a b => some (((Fields.start 0x183 h (varOf op.code 0)).ops d.code a.code b.code 0 0).latch)
  | .vote h form pa => some ((Fields.start 0x184 h (varOf form.code 0)).ops form.dcode pa.code 0 0 0)
  | .redg h op t d a => some ((Fields.start 0x185 h (varOf op.code t.code)).ops d.code a.code 0 0 0)
  | .scang h op ex t d a => some (((Fields.start 0x186 h (varOf (BitVec.ofBool ex ++ op.code) t.code)).ops d.code a.code 0 0 0).latch)
  | .zscan h fl d a sc => some (((Fields.start 0x187 h (varOf (bit3 fl) 0)).ops d.code a.code 0 sc.code 0).latch)
  | .rdlane h d a b => some ((Fields.start 0x188 h 0).ops d.code a.code b.code 0 0)
  | .wrlane h d a b => some ((Fields.start 0x189 h 0).ops d.code a.code b.code 0 0)
  | .bra h soff => some ((Fields.start 0x1C0 h 0).setSoff soff 0)
  | .brx h a => some ((Fields.start 0x1C1 h 0).ops 0 a.code 0 0 0)
  | .call h link soff => some ((Fields.start 0x1C2 h 0).setSoff soff link.code)
  | .callx h link a => some ((Fields.start 0x1C3 h 0).ops link.code a.code 0 0 0)
  | .ret h a => some ((Fields.start 0x1C4 h 0).ops 0 a.code 0 0 0)
  | .regang h a => some ((Fields.start 0x1C5 h 0).ops 0 a.code 0 0 0)
  | .exit h => some ((Fields.start 0x1C6 h 0).ops 0 0 0 0 0)
  | .yield h => some ((Fields.start 0x1C7 h 0).ops 0 0 0 0 0)
  | .nop h => some ((Fields.start 0x1C8 h 0).ops 0 0 0 0 0)
  | .trap h n => some ((Fields.start 0x1C9 h 0).setImm 0 0 (n.setWidth 32))
  | .bar h sc a => some ((Fields.start 0x1CA h (varOf 0 (0#1 ++ sc.code))).ops 0 a.code 0 0 0)
  | .bara h sc a => some ((Fields.start 0x1CB h (varOf 0 (0#1 ++ sc.code))).ops 0 a.code 0 0 0)
  | .barw h sc a => some ((Fields.start 0x1CC h (varOf 0 (0#1 ++ sc.code))).ops 0 a.code 0 0 0)
  | .hret h => some ((Fields.start 0x1CD h 0).ops 0 0 0 0 0)
  | .hset h a b c => some ((Fields.start 0x1CE h 0).ops 0 a.code b.code c.code 0)
  | .hmask h sm => some ((Fields.start 0x1CF h (varOf (bit3 sm) 0)).ops 0 0 0 0 0)
  | .ld h hint ord sz d a b off => some (((Fields.start 0x200 h (varOf ord.code sz.code)).setOff d.code a.code b.code off).setHint hint)
  | .st h hint ord sz d a b off => some (((Fields.start 0x201 h (varOf ord.code sz.code)).setOff d.code a.code b.code off).setHint hint)
  | .stm h hint d a b off => some (((Fields.start 0x202 h 0).setOff d.code a.code b.code off).setHint hint)
  | .sld h hint ord sz d a b off => some (((Fields.start 0x203 h (varOf ord.code sz.code)).setOff d.code a.code b.code off).setHint hint)
  | .sst h hint ord sz d a b off => some (((Fields.start 0x204 h (varOf ord.code sz.code)).setOff d.code a.code b.code off).setHint hint)
  | .atom h hint ord op d a b c e => some (((Fields.start 0x205 h (varOf ord.codeA op.code)).ops d.code a.code b.code (if op = .cas then c.code else 0) e.code).setHint hint)
  | .red h hint ord op a b e => some (((Fields.start 0x206 h (varOf ord.codeA op.code)).ops 0 a.code b.code 0 e.code).setHint hint)
  | .pref h hint l2 a b off => some (((Fields.start 0x207 h (varOf 0 (bit3 l2))).setOff 0 a.code b.code off).setHint hint)
  | .fence h hint kind sc => some (((Fields.start 0x208 h (0#2 ++ kind.code ++ sc.code)).ops 0 0 0 0 0).setHint hint)
  | .fencex h hint p q => some (((Fields.start 0x209 h (varOf p.code q.code)).ops 0 0 0 0 0).setHint hint)
  | .cctl h hint op a b off => some ((if op = .wb ∨ op = .inv then (Fields.start 0x20A h (varOf 0 op.code)).setOff 0 a.code b.code off else Fields.start 0x20A h (varOf 0 op.code)).setHint hint)
  | .lds h hint sz d a b off => some (((Fields.start 0x240 h (varOf 0 sz.code)).setOff d.code a.code b.code off).setHint hint)
  | .sts h hint sz d a b off => some (((Fields.start 0x241 h (varOf 0 sz.code)).setOff d.code a.code b.code off).setHint hint)
  | .atoms h hint op d a b c e => some (((Fields.start 0x242 h (varOf 0 op.code)).ops d.code a.code b.code (if op = .cas then c.code else 0) e.code).setHint hint)
  | .sete h hint a b off => some (((Fields.start 0x243 h 0).setOff 0 a.code b.code off).setHint hint)
  | .setf h hint a b off => some (((Fields.start 0x244 h 0).setOff 0 a.code b.code off).setHint hint)
  | .tstf h hint d a b off => some (((Fields.start 0x245 h 0).setOff d.code a.code b.code off).setHint hint)
  | .dec h hint delta d a b c ps => some (((Fields.start 0x246 h (varOf 0 (bit3 delta))).ops d.code a.code (if delta then b.code else 0) c.code ps.code).setHint hint)
  | .cpy h hint sz ss ds d a c e => some (((Fields.start 0x280 h (0#2 ++ BitVec.ofBool ds ++ BitVec.ofBool ss ++ sz.code)).ops d.code a.code 0 c.code e.code).setHint hint)
  | .cpyt h hint w ss ds d a b c e => some (((Fields.start 0x281 h (0#2 ++ BitVec.ofBool ds ++ BitVec.ofBool ss ++ w)).ops d.code a.code b.code c.code e.code).setHint hint)
  | .cpyc h hint sz ss ds d a c e => some (((Fields.start 0x282 h (0#2 ++ BitVec.ofBool ds ++ BitVec.ofBool ss ++ sz.code)).ops d.code a.code 0 c.code e.code).setHint hint)
  | .ldct h hint sp a e => some (((Fields.start 0x283 h (0#3 ++ BitVec.ofBool sp ++ 0#2)).ops 0 a.code 0 0 e.code).setHint hint)
  | .waitc h hint p a => some (((Fields.start 0x284 h (varOf 0 p.code)).ops 0 a.code 0 0 0).setHint hint)
  | .rdc h hint p d => some (((Fields.start 0x285 h (varOf 0 p.code)).ops d.code 0 0 0 0).setHint hint)
  | .waitm h hint cd w d a b => some (((Fields.start 0x286 h (0#3 ++ BitVec.ofBool w ++ cd.code)).ops d.code a.code b.code 0 0).setHint hint)
  | .abinit h hint a b => some (((Fields.start 0x287 h 0).ops 0 a.code b.code 0 0).setHint hint)
  | .abarr h hint a b c => some (((Fields.start 0x288 h 0).ops 0 a.code b.code c.code 0).setHint hint)
  | .abwait h hint a b => some (((Fields.start 0x289 h 0).ops 0 a.code b.code 0 0).setHint hint)
  | .abflg h hint d a => some (((Fields.start 0x28A h 0).ops d.code a.code 0 0 0).setHint hint)
  | .mmq h body cap d a b c e => some ((Fields.start 0x2C0 h (0#2 ++ cap ++ body.code)).ops d.code a.code b.code c.code e.code)
  | .mmf h fp d a b c e => some ((Fields.start 0x2C1 h (varOf 0 (bit3 fp))).ops d.code a.code b.code c.code e.code)
  | .mmd h d a b c e => some ((Fields.start 0x2C2 h 0).ops d.code a.code b.code c.code e.code)
  | .tenc h body cap sp d a b e => some ((Fields.start 0x2C3 h (sp ++ cap ++ body.code)).ops d.code a.code b.code 0 e.code)
  | .tdec h body cap d b e => some ((Fields.start 0x2C4 h (0#2 ++ cap ++ body.code)).ops d.code 0 b.code 0 e.code)
  | .tpin h body cap b c e => some ((Fields.start 0x2C5 h (0#2 ++ cap ++ body.code)).ops 0 0 b.code c.code e.code)
  | .tunpin h b e => some ((Fields.start 0x2C6 h 0).ops 0 0 b.code 0 e.code)
  | .mxcfg h a => some ((Fields.start 0x2C7 h 0).ops 0 a.code 0 0 0)
  | .tzero h d c e => some ((Fields.start 0x2C8 h 0).ops d.code 0 0 c.code e.code)
  | .tcvt h fmt d a c e => some ((Fields.start 0x2C9 h (0#4 ++ fmt.code)).ops d.code a.code 0 c.code e.code)
  | .ldcbk h a e => some ((Fields.start 0x2CA h 0).ops 0 a.code 0 0 e.code)
  | .rld h sf sz d a b ps => some ((Fields.start 0x300 h (varOf (bit3 sf) sz.code)).ops d.code a.code b.code 0 (if sf then ps.code else 0))
  | .rst h sf sz d a b ps => some ((Fields.start 0x301 h (varOf (bit3 sf) sz.code)).ops d.code a.code b.code 0 (if sf then ps.code else 0))
  | .ratom h sf ty op d a b c ps => some ((Fields.start 0x302 h (ty.code ++ BitVec.ofBool sf ++ op.code)).ops d.code a.code b.code c.code (if sf then ps.code else 0))
  | .rcpy h sf sp sz d a b c ps => some ((Fields.start 0x303 h (0#1 ++ BitVec.ofBool sp ++ BitVec.ofBool sf ++ 0#1 ++ sz.code)).ops d.code a.code b.code c.code (if sf then ps.code else 0))
  | .msend h sf sp d a b c ps => some ((Fields.start 0x304 h (0#1 ++ BitVec.ofBool sp ++ BitVec.ofBool sf ++ 0#3)).ops d.code a.code b.code c.code (if sf then ps.code else 0))
  | .mdone h => some ((Fields.start 0x305 h 0).ops 0 0 0 0 0)
  | .quiet h => some ((Fields.start 0x306 h 0).ops 0 0 0 0 0)
  | .qstat h qs d => some ((Fields.start 0x307 h (varOf 0 qs.code)).ops d.code 0 0 0 0)
  | .coll h op d a b c e => some ((Fields.start 0x308 h op.code).ops d.code a.code b.code c.code e.code)
  | .rfence h => some ((Fields.start 0x309 h 0).ops 0 0 0 0 0)
  | .csrr h d csr => some ((Fields.start 0x340 h 0).setImm d.code 0 (csr.setWidth 32))
  | .csrw h d a csr => some ((Fields.start 0x341 h 0).setImm d.code a.code (csr.setWidth 32))
  | .csrs h d a csr => some ((Fields.start 0x342 h 0).setImm d.code a.code (csr.setWidth 32))
  | .csrc h d a csr => some ((Fields.start 0x343 h 0).setImm d.code a.code (csr.setWidth 32))
  | .launch h d a b => some ((Fields.start 0x344 h 0).ops d.code a.code b.code 0 0)
  | .sysc h n => some ((Fields.start 0x345 h 0).setImm 0 0 (n.setWidth 32))
  | .ldovt h a => some ((Fields.start 0x346 h 0).ops 0 a.code 0 0 0)
  | .tlbinv h sc a b => some ((Fields.start 0x347 h (0#4 ++ sc.code)).ops 0 (if sc = .va then a.code else 0) (if sc = .all then 0 else b.code) 0 0)
  | .eret h => some ((Fields.start 0x348 h 0).ops 0 0 0 0 0)
  | .halt h hold a => some ((Fields.start 0x349 h (varOf 0 (bit3 hold))).ops 0 a.code 0 0 0)
  | _ => none

/-- The word of an instruction; none for an event. -/
def encode (i : Instr) : Option (BitVec 96) := i.fields.map Fields.toWord

/-! ### Decoding -/

/-- Why a word is no instruction (R393 steps 3 to 5, R394). -/
inductive Illegal where
  | opc
  | var
  | reserved (bit : Nat)
  | operand (field : Nat)
  deriving DecidableEq, Repr

/-- The lowest set bit of a word, from bit `n` of `k` bits on. -/
def lowestBit (w : BitVec 96) : Nat → Nat → Option Nat
  | _, 0 => none
  | n, k + 1 => if w.getLsbD n then some n else lowestBit w (n + 1) k

/-- Forms R and I whose D names a register but never lt0 (R267, R274, R298): with D equal to 0x0C8 the word
fails R248 whatever NWB holds. -/
def Instr.barsLatch : Instr → Bool
  | .pmovs .. | .vote _ (.cnt _) _ | .redg .. | .rdlane .. | .wrlane .. | .callx .. | .stclr .. | .stupd ..
  | .stwupd .. | .stmrg .. | .stnrm .. | .stred .. | .stqred .. | .rdc .. | .qstat .. | .csrr .. | .csrw ..
  | .csrs .. | .csrc .. => true
  | _ => false

/-- The checks of steps 4 and 5 on an instruction read from fields `f`, given its own fields `g`. -/
def checkFields (f g : Fields) (i : Instr) : Except Illegal Instr :=
  if f.var ≠ g.var ∨ i.varOk = false then .error .var
  else
    let diff := f.toWord ^^^ g.toWord
    let diff := if i.barsLatch && f.d == 0x0C8 then diff ||| (1#96 <<< 15) else diff
    match lowestBit diff 0 96 with
    | some n => .error (.reserved n)
    | none =>
      match i.badField with
      | some n => .error (.operand n)
      | none => .ok i

/-- Decodes a word (R266), naming the first check that fails. -/
def decode (w : BitVec 96) : Except Illegal Instr :=
  let f := Fields.ofWord w
  match parse f with
  | none => .error .opc
  | some i =>
    match i.fields with
    | none => .error .opc
    | some g => checkFields f g i

/-- What the core issues for a slot's word: the instruction, or the illegal word itself. -/
def decodeIssue (w : BitVec 96) : Instr :=
  match decode w with
  | .ok i => i
  | .error _ => .illegalInstructionIssue w

/-- The instruction read from an instruction whose bits are `w`, bit 0 the least significant bit of its
first byte; every instruction is 12 bytes long and little-endian (R232, R5), so `w` is the word. -/
def decodeTableWord (nbits w : Nat) : Option Instr :=
  if nbits ≤ 96 then (decode (BitVec.ofNat 96 w)).toOption else none

end Sys2Proof
end

