-- ==== Sys2Proof/Machine/Flags.lean ====
section
/-! DEFINITION. Rounding and the flags it raises (spec 05 R110 to R116, R137, R139; 21 R416). A float is
unpacked to an exact value, sign × mantissa × 2^exponent, computed on exactly, and rounded once. A value that
is not dyadic is held with more bits than any format keeps and an odd last bit, which rounds as the exact
value does. -/

namespace Sys2Proof.Machine

/-- The sticky flags of GMR (R99, R116). -/
structure Flags where
  nv : Bool := false
  dz : Bool := false
  of : Bool := false
  uf : Bool := false
  ix : Bool := false
  deriving DecidableEq, Repr

def Flags.none : Flags := {}
def Flags.or (a b : Flags) : Flags := ⟨a.nv || b.nv, a.dz || b.dz, a.of || b.of, a.uf || b.uf, a.ix || b.ix⟩
def Flags.invalid : Flags := { nv := true }
def Flags.inexact : Flags := { ix := true }

/-- GMR bits [31:27] (R99). -/
def Flags.gmr (f : Flags) : BitVec 32 :=
  (BitVec.ofBool f.ix ++ BitVec.ofBool f.uf ++ BitVec.ofBool f.of ++ BitVec.ofBool f.dz ++
    BitVec.ofBool f.nv) ++ 0#27

/-- The engine flags of R139 that arithmetic raises: bit 0 invalid, 1 overflow, 2 underflow, 3 inexact. A
division by zero has no engine flag. -/
def Flags.engine (f : Flags) : BitVec 7 :=
  0#3 ++ BitVec.ofBool f.ix ++ BitVec.ofBool f.uf ++ BitVec.ofBool f.of ++ BitVec.ofBool f.nv

/-- Engine flags spill and saturate (R139). -/
def flagSpill : BitVec 7 := 0x10
def flagSaturate : BitVec 7 := 0x20
def flagPartial : BitVec 7 := 0x40

/-- Rounding modes in the code of GMR.RND (R99). -/
inductive RMode where
  | rne | rz | ru | rd
  deriving DecidableEq, Repr

def RMode.ofCode (c : BitVec 2) : RMode :=
  match c.toNat with
  | 1 => .rz
  | 2 => .ru
  | 3 => .rd
  | _ => .rne

/-- A float format: exponent bits and fraction bits (R110). -/
structure FFmt where
  eb : Nat
  fb : Nat
  deriving DecidableEq, Repr

def FFmt.f64 : FFmt := ⟨11, 52⟩
def FFmt.f32 : FFmt := ⟨8, 23⟩
def FFmt.f16 : FFmt := ⟨5, 10⟩
def FFmt.bf16 : FFmt := ⟨8, 7⟩

def FFmt.bias (f : FFmt) : Nat := 2 ^ (f.eb - 1) - 1
/-- The least exponent of a unit in the last place. -/
def FFmt.qmin (f : FFmt) : Int := 1 - (f.bias : Int) - f.fb
def FFmt.signBit (f : FFmt) (neg : Bool) : Nat := if neg then 2 ^ (f.eb + f.fb) else 0
def FFmt.infBits (f : FFmt) : Nat := (2 ^ f.eb - 1) * 2 ^ f.fb
def FFmt.maxBits (f : FFmt) : Nat := f.infBits - 1
/-- The canonical NaN (R110). -/
def FFmt.nan (f : FFmt) : Nat := f.infBits + 2 ^ (f.fb - 1)

/-- The value of a float: a NaN, signalling or quiet, an infinity, or ± m × 2^e. -/
inductive FVal where
  | nan (sig : Bool)
  | inf (neg : Bool)
  | fin (neg : Bool) (m : Nat) (e : Int)
  deriving DecidableEq, Repr

namespace FVal

def isNan : FVal → Bool
  | .nan _ => true
  | _ => false
def isSig : FVal → Bool
  | .nan s => s
  | _ => false
def isInf : FVal → Bool
  | .inf _ => true
  | _ => false
def isZero : FVal → Bool
  | .fin _ m _ => m == 0
  | _ => false
def neg : FVal → Bool
  | .nan _ => false
  | .inf n => n
  | .fin n _ _ => n
/-- Multiplication by a power of two. -/
def scale (k : Int) : FVal → FVal
  | .fin n m e => .fin n m (e + k)
  | v => v
/-- Sets the sign of a number. -/
def withNeg (n : Bool) : FVal → FVal
  | .nan s => .nan s
  | .inf _ => .inf n
  | .fin _ m e => .fin n m e
def zero : FVal := .fin false 0 0
def one : FVal := .fin false 1 0

end FVal

/-- The value that a format's bits hold (R110). -/
def unpack (f : FFmt) (x : Nat) : FVal :=
  let neg := x / 2 ^ (f.eb + f.fb) % 2 == 1
  let ex := x / 2 ^ f.fb % 2 ^ f.eb
  let fr := x % 2 ^ f.fb
  if ex = 2 ^ f.eb - 1 then
    if fr = 0 then .inf neg else .nan (fr < 2 ^ (f.fb - 1))
  else if ex = 0 then .fin neg fr f.qmin
  else .fin neg (fr + 2 ^ f.fb) (f.qmin + (ex - 1 : Nat))

/-- A rounded result: its bits and the flags raised. -/
structure Rnd where
  bits : Nat
  flags : Flags
  deriving DecidableEq, Repr

/-- Whether a magnitude of which `rem` of `full` (a power of two) is cut rounds away from zero. -/
def roundUp (mode : RMode) (neg odd : Bool) (rem full : Nat) : Bool :=
  match mode with
  | .rne => decide (full < 2 * rem) || (decide (full = 2 * rem) && odd)
  | .rz => false
  | .ru => !neg && decide (rem ≠ 0)
  | .rd => neg && decide (rem ≠ 0)

/-- Rounds m × 2^e to a multiple of 2^q: the multiple, and whether it changed. -/
def roundAt (mode : RMode) (neg : Bool) (m : Nat) (e q : Int) : Nat × Bool :=
  if q ≤ e then (m * 2 ^ (e - q).toNat, false)
  else
    let full := 2 ^ (q - e).toNat
    let hi := m / full
    let rem := m % full
    (if roundUp mode neg (hi % 2 == 1) rem full then hi + 1 else hi, decide (rem ≠ 0))

/-- What a finite overflow becomes with the format's SAT bit clear (R114). -/
def overflowBits (f : FFmt) (mode : RMode) (neg : Bool) : Nat :=
  f.signBit neg + match mode, neg with
    | .rne, _ => f.infBits
    | .rz, _ => f.maxBits
    | .ru, false => f.infBits
    | .ru, true => f.maxBits
    | .rd, false => f.maxBits
    | .rd, true => f.infBits

/-- How a rounding leaves a finite value: the bits with an unbounded exponent clipped to the format, and the
facts the flags rest on (R111, R116). -/
structure Rounding where
  bits : Nat
  overflows : Bool
  tiny : Bool
  inexact : Bool
  deriving DecidableEq, Repr

/-- Rounds a finite magnitude to a format. -/
def roundMag (f : FFmt) (mode : RMode) (neg : Bool) (m : Nat) (e : Int) : Rounding :=
  if m = 0 then ⟨0, false, false, false⟩
  else
    let top := e + Nat.log2 m
    let q := max (top - f.fb) f.qmin
    let (n, ix) := roundAt mode neg m e q
    let bits := n + (q - f.qmin).toNat * 2 ^ f.fb
    let (u, _) := roundAt mode neg m e (top - f.fb)
    ⟨bits, decide (f.infBits ≤ bits), decide (top - f.fb + Nat.log2 u < f.qmin + f.fb), ix⟩

/-- The one rounding of a result (R113, R114, R116): `sat` is the format's SAT bit. -/
def rnd (f : FFmt) (mode : RMode) (sat : Bool) : FVal → Rnd
  | .nan _ => ⟨f.nan, {}⟩
  | .inf neg => if sat then ⟨f.signBit neg + f.maxBits, { ix := true }⟩ else ⟨f.signBit neg + f.infBits, {}⟩
  | .fin neg m e =>
    let r := roundMag f mode neg m e
    if r.overflows then
      ⟨if sat then f.signBit neg + f.maxBits else overflowBits f mode neg, { of := true, ix := true }⟩
    else ⟨f.signBit neg + r.bits, { uf := r.tiny && r.inexact, ix := r.inexact }⟩

/-- RNE without saturation: engines and statistics (R113). -/
def rne (f : FFmt) (v : FVal) : Rnd := rnd f .rne false v

/-- The choice of the overflow table for a finite overflow (R137): 0 largest finite, 1 infinity, 2 NaN. -/
def ovtField (ovt : BitVec 32) (f : FFmt) : Nat :=
  if f = .f16 then (ovt.extractLsb' 4 2).toNat
  else if f = .bf16 then (ovt.extractLsb' 2 2).toNat
  else (ovt.extractLsb' 0 2).toNat

/-- `rnd_ovt`: RNE and the context's overflow table (R137, R416). The bits and the engine flags. -/
def rndOvt (ovt : BitVec 32) (f : FFmt) : FVal → Nat × BitVec 7
  | .nan sig => (f.nan, if sig then 1 else 0)
  | .inf neg => (f.signBit neg + f.infBits, 0)
  | .fin neg m e =>
    let r := roundMag f .rne neg m e
    if r.overflows then
      match ovtField ovt f with
      | 0 => (f.signBit neg + f.maxBits, 0x2A)
      | 2 => (f.nan, 0x0A)
      | _ => (f.signBit neg + f.infBits, 0x0A)
    else (f.signBit neg + r.bits, ({ uf := r.tiny && r.inexact, ix := r.inexact } : Flags).engine)

/-- Rounds a finite value to an integer: the integer, and whether a fraction was cut. -/
def roundInt (mode : RMode) (neg : Bool) (m : Nat) (e : Int) : Int × Bool :=
  let (n, ix) := roundAt mode neg m e 0
  (if neg then -(n : Int) else n, ix)

/-! ### Integer formats -/

/-- Width of an integer type (R269). -/
def ITy.width : ITy → Nat
  | .i32 | .n32 => 32
  | .i16 | .n16 => 16
  | .i8 | .n8 => 8

/-- Signedness of an integer type (R269). -/
def ITy.signed : ITy → Bool
  | .i32 | .i16 | .i8 => true
  | _ => false

/-- The least and the greatest value of an integer type. -/
def ITy.min (t : ITy) : Int := if ITy.signed t then -(2 ^ (ITy.width t - 1) : Nat) else 0
def ITy.max (t : ITy) : Int :=
  if ITy.signed t then (2 ^ (ITy.width t - 1) : Nat) - 1 else (2 ^ ITy.width t : Nat) - 1

/-- The value of the low bits of a word in an integer type (R269 `rd`). -/
def ITy.rd (t : ITy) (x : Word) : Int :=
  let n := x.toNat % 2 ^ ITy.width t
  if ITy.signed t && decide (2 ^ (ITy.width t - 1) ≤ n) then (n : Int) - (2 ^ ITy.width t : Nat) else n

/-- A value wrapped to the type and extended to 32 bits (R112, R269 `put`). -/
def ITy.put (t : ITy) (x : Int) : Word :=
  BitVec.ofInt 32 (ITy.rd t (BitVec.ofInt 32 x))

/-- A value clamped to the type and extended to 32 bits (R269 `putsat`). -/
def ITy.putSat (t : ITy) (x : Int) : Word :=
  BitVec.ofInt 32 (if x < ITy.min t then ITy.min t else if ITy.max t < x then ITy.max t else x)

/-- Index of an integer format in GMR's RND and SAT (R99, R285). -/
def ITy.fmtIdx : ITy → Nat
  | .i32 => 3
  | .n32 => 4
  | .i16 => 5
  | .n16 => 6
  | .i8 => 7
  | .n8 => 8

/-- The rounding mode GMR holds for format `j` (R99). -/
def gmrMode (gmr : Word) (j : Nat) : RMode := RMode.ofCode (gmr.extractLsb' (2 * j) 2)

/-- The SAT bit GMR holds for format `j` (R99). -/
def gmrSat (gmr : Word) (j : Nat) : Bool := gmr.getLsbD (18 + j)

/-- A value converted to an integer type (R114, R294): the result in the type, and the flags. -/
def toIntFmt (gmr : Word) (t : ITy) (v : FVal) : Int × Flags :=
  let sat := gmrSat gmr (ITy.fmtIdx t)
  match v with
  | .nan _ => (0, { nv := true })
  | .inf neg => (if sat then (if neg then ITy.min t else ITy.max t) else 0, { nv := true })
  | .fin neg m e =>
    let (n, ix) := roundInt (gmrMode gmr (ITy.fmtIdx t)) neg m e
    if n < ITy.min t then
      (if sat then ITy.min t else ITy.rd t (BitVec.ofInt 32 n), { nv := true, ix := true })
    else if ITy.max t < n then
      (if sat then ITy.max t else ITy.rd t (BitVec.ofInt 32 n), { nv := true, ix := true })
    else (n, { ix := ix })

end Sys2Proof.Machine
end

