-- ==== Sys2Proof/Machine/Float.lean ====
section
/-! DEFINITION. Exact floating-point operations before their one rounding (spec 05 R111, R129, R130, R133 to
R135; 13 R287 to R297), and the statistics arithmetic built of rounded ones. -/

namespace Sys2Proof.Machine

/-- An exact result and the flags the operation raises in its own right. -/
abbrev Exact := FVal × Flags

/-- A NaN result of operands one of which is a NaN: canonical, NV when one is signalling (R111). -/
def nanOf (vs : List FVal) : Exact := (.nan false, { nv := vs.any FVal.isSig })

/-- The canonical NaN of an invalid operation. -/
def invalidOp : Exact := (.nan false, Flags.invalid)

/-- A signed integer × 2^e as a value; an exact zero takes the sign that the rounding mode gives (R111). -/
def ofSum (mode : RMode) (n : Int) (e : Int) : FVal :=
  if n = 0 then .fin (mode == .rd) 0 e else .fin (decide (n < 0)) n.natAbs e

/-- Addition. -/
def fAdd (mode : RMode) (a b : FVal) : Exact :=
  match a, b with
  | .fin na ma ea, .fin nb mb eb =>
    if ma = 0 ∧ mb = 0 then (.fin (if na = nb then na else mode == .rd) 0 0, {})
    else
      let e := min ea eb
      let va : Int := (ma * 2 ^ (ea - e).toNat : Nat)
      let vb : Int := (mb * 2 ^ (eb - e).toNat : Nat)
      (ofSum mode ((if na then -va else va) + (if nb then -vb else vb)) e, {})
  | .nan _, _ | _, .nan _ => nanOf [a, b]
  | .inf na, .inf nb => if na = nb then (a, {}) else invalidOp
  | .inf _, _ => (a, {})
  | _, .inf _ => (b, {})

/-- The negation of a value; of a NaN, itself. -/
def FVal.negate (v : FVal) : FVal := v.withNeg (!v.neg)

/-- Multiplication. -/
def fMul (a b : FVal) : Exact :=
  match a, b with
  | .nan _, _ | _, .nan _ => nanOf [a, b]
  | .fin na ma ea, .fin nb mb eb => (.fin (na ^^ nb) (ma * mb) (ea + eb), {})
  | .inf na, b => if b.isZero then invalidOp else (.inf (na ^^ b.neg), {})
  | a, .inf nb => if a.isZero then invalidOp else (.inf (a.neg ^^ nb), {})

/-- Fused multiply-add; an invalid product is NaN with NV whatever the addend (R287). -/
def fFma (mode : RMode) (a b c : FVal) : Exact :=
  let (p, fp) := fMul a b
  let (s, fs) := fAdd mode p c
  (s, fp.or fs)

/-- The smaller or the larger operand (R288). -/
def fMinMax (wantMax : Bool) (a b : FVal) : Exact :=
  let fl : Flags := { nv := a.isSig || b.isSig }
  match a, b with
  | .nan _, .nan _ => (.nan false, fl)
  | .nan _, b => (b, fl)
  | a, .nan _ => (a, fl)
  | a, b =>
    -- the sign of b − a, with −0 below +0
    let lt : Bool :=
      match a, b with
      | .inf na, .inf nb => na && !nb
      | .inf na, _ => na
      | _, .inf nb => !nb
      | .fin na ma ea, .fin nb mb eb =>
        let e := min ea eb
        let va : Int := (ma * 2 ^ (ea - e).toNat : Nat)
        let vb : Int := (mb * 2 ^ (eb - e).toNat : Nat)
        let x := if na then -va else va
        let y := if nb then -vb else vb
        if x = y then na && !nb else decide (x < y)
      | _, _ => false
    (if wantMax then (if lt then b else a) else (if lt then a else b), fl)

/-- How two numbers compare; none with a NaN. Zeros of both signs are equal (R273). -/
def fCompare (a b : FVal) : Option Ordering :=
  match a, b with
  | .nan _, _ | _, .nan _ => none
  | .inf na, .inf nb => some (compare (if na then 0 else 1) (if nb then 0 else 1))
  | .inf na, _ => some (if na then .lt else .gt)
  | _, .inf nb => some (if nb then .gt else .lt)
  | .fin na ma ea, .fin nb mb eb =>
    let e := min ea eb
    let va : Int := (ma * 2 ^ (ea - e).toNat : Nat)
    let vb : Int := (mb * 2 ^ (eb - e).toNat : Nat)
    some (compare (if na then -va else va) (if nb then -vb else vb))

/-- A quotient of naturals as a value with 70 bits beyond the divisor and a sticky last bit. -/
def quot (neg : Bool) (a : Nat) (ea : Int) (b : Nat) (eb : Int) : FVal :=
  let k := 130 + Nat.log2 b
  let n := a * 2 ^ k
  .fin neg (2 * (n / b) + (if n % b = 0 then 0 else 1)) (ea - eb - k - 1)

/-- Division (R296). -/
def fDiv (a b : FVal) : Exact :=
  match a, b with
  | .nan _, _ | _, .nan _ => nanOf [a, b]
  | .inf na, .inf _ => let _ := na; invalidOp
  | .inf na, b => (.inf (na ^^ b.neg), {})
  | .fin na _ _, .inf nb => (.fin (na ^^ nb) 0 0, {})
  | .fin na ma ea, .fin nb mb eb =>
    if mb = 0 then
      if ma = 0 then invalidOp else (.inf (na ^^ nb), { dz := true })
    else if ma = 0 then (.fin (na ^^ nb) 0 0, {})
    else (quot (na ^^ nb) ma ea mb eb, {})

/-- The integer square root: bits are tried from bit `k − 1` down. -/
def isqrtBits (n : Nat) : Nat → Nat → Nat
  | 0, r => r
  | k + 1, r =>
    let t := r + 2 ^ k
    if t * t ≤ n then isqrtBits n k t else isqrtBits n k r

/-- The greatest r with r² ≤ n. -/
def isqrt (n : Nat) : Nat := isqrtBits n (Nat.log2 n / 2 + 1) 0

/-- √(m × 2^e), m ≠ 0, with a sticky last bit. -/
def sqrtVal (m : Nat) (e : Int) : FVal :=
  let odd := e % 2 = 1
  let m := if odd then 2 * m else m
  let e := if odd then e - 1 else e
  let n := m * 2 ^ 160
  let r := isqrt n
  .fin false (2 * r + (if r * r = n then 0 else 1)) (e / 2 - 80 - 1)

/-- Square root (R296). -/
def fSqrt : FVal → Exact
  | .nan s => nanOf [.nan s]
  | .inf true => invalidOp
  | .inf false => (.inf false, {})
  | .fin n m e => if m = 0 then (.fin n 0 0, {}) else if n then invalidOp else (sqrtVal m e, {})

/-- Reciprocal (R296). -/
def fRcp (a : FVal) : Exact := fDiv FVal.one a

/-- 1/√a (R296): the root of a quotient, its last bit sticky. -/
def fRsq : FVal → Exact
  | .nan s => nanOf [.nan s]
  | .inf true => invalidOp
  | .inf false => (.fin false 0 0, {})
  | .fin n m e =>
    if m = 0 then (.inf n, { dz := true })
    else if n then invalidOp
    else
      let odd := e % 2 = 1
      let m := if odd then 2 * m else m
      let e := if odd then e - 1 else e
      let k := 2 * (90 + Nat.log2 m)
      let r := isqrt (2 ^ k / m)
      (.fin false (2 * r + (if r * r * m = 2 ^ k then 0 else 1)) (-(e / 2) - (k / 2 : Nat) - 1), {})

/-- Rounding to an integral value; a zero keeps the operand's sign (R289). -/
def fRound (mode : RMode) : FVal → Exact
  | .nan s => nanOf [.nan s]
  | .inf n => (.inf n, {})
  | .fin n m e => (.fin n (roundAt mode n m e 0).1 0, {})

/-- The class bit of an element (R290). -/
def classBit (f : FFmt) (x : Nat) : Nat :=
  match unpack f x with
  | .nan true => 0
  | .nan false => 1
  | .inf true => 2
  | .inf false => 9
  | .fin n m _ =>
    if m = 0 then (if n then 5 else 6)
    else if m < 2 ^ f.fb then (if n then 4 else 7)
    else (if n then 3 else 8)

/-! ### Destination modifiers (R115, R247) -/

/-- The power of two of the scale field. -/
def scaleOf (s : BitVec 3) : Int := s.toInt

/-- The destination clamp, on a rounded result of format `f` (R115). -/
def clampF (f : FFmt) (c : BitVec 2) (x : Nat) : Nat :=
  let v := unpack f x
  let one := f.bias * 2 ^ f.fb
  let between (lo hi : FVal) (lob hib : Nat) : Nat :=
    match v with
    | .nan _ => 0
    | v =>
      if fCompare v lo = some .lt then lob
      else if fCompare hi v = some .lt then hib
      else x
  match c.toNat with
  | 1 => between FVal.zero FVal.one 0 one
  | 2 => between (.fin true 1 0) FVal.one (f.signBit true + one) one
  | 3 => match v with
    | .inf n => f.signBit n + f.maxBits
    | _ => x
  | _ => x

/-- The frame of R286: an exact value scaled, rounded once and clamped. -/
def frame (f : FFmt) (mode : RMode) (sat : Bool) (scale : BitVec 3) (clamp : BitVec 2) (y : Exact) : Rnd :=
  let r := rnd f mode sat (y.1.scale (scaleOf scale))
  ⟨clampF f clamp r.bits, y.2.or r.flags⟩

/-! ### FP32 operations with RNE (R113, R133 to R136) -/

def f32v (x : Word) : FVal := unpack .f32 x.toNat

/-- A statistics operation: one exact FP32 operation rounded with RNE. -/
def st (y : Exact) : Word × Flags :=
  let r := rne .f32 y.1
  (BitVec.ofNat 32 r.bits, y.2.or r.flags)

def sAdd (a b : Word) : Word × Flags := st (fAdd .rne (f32v a) (f32v b))
def sSub (a b : Word) : Word × Flags := st (fAdd .rne (f32v a) (f32v b).negate)
def sMul (a b : Word) : Word × Flags := st (fMul (f32v a) (f32v b))
def sDiv (a b : Word) : Word × Flags := st (fDiv (f32v a) (f32v b))
def sRsq (a : Word) : Word × Flags := st (fRsq (f32v a))

/-- A statistics triple W, μ, M2 (R132). -/
structure Triple where
  w : Word
  mu : Word
  m2 : Word
  deriving DecidableEq, Repr

/-- The canonical empty triple (R132). -/
def Triple.empty : Triple := ⟨0, 0, 0⟩
/-- A word that is +0 or −0. -/
def isZero32 (x : Word) : Bool := x.toNat % 2 ^ 31 == 0
/-- A triple is empty when W is ±0 (R132). -/
def Triple.isEmpty (t : Triple) : Bool := isZero32 t.w

/-- Update with x (R133). -/
def Triple.update (t : Triple) (x : Word) : Triple × Flags :=
  let (w, f1) := sAdd t.w 0x3F800000
  let (d, f2) := sSub x t.mu
  let (q, f3) := sDiv d w
  let (mu, f4) := sAdd t.mu q
  let (e, f5) := sSub x mu
  let (p, f6) := sMul d e
  let (m2, f7) := sAdd t.m2 p
  (⟨w, mu, m2⟩, [f1, f2, f3, f4, f5, f6, f7].foldl Flags.or {})

/-- Weighted update with (x, w) (R133, R301). -/
def Triple.weighted (t : Triple) (x wt : Word) : Triple × Flags :=
  if isZero32 wt then (t, {})
  else
    let (w, f1) := sAdd t.w wt
    if isZero32 w then (Triple.empty, {})
    else
      let (d, f2) := sSub x t.mu
      let (r, f3) := sDiv wt w
      let (rd, f4) := sMul r d
      let (mu, f5) := sAdd t.mu rd
      let (e, f6) := sSub x mu
      let (wd, f7) := sMul wt d
      let (p, f8) := sMul wd e
      let (m2, f9) := sAdd t.m2 p
      (⟨w, mu, m2⟩, [f1, f2, f3, f4, f5, f6, f7, f8, f9].foldl Flags.or {})

/-- Merge of a and b (R134). -/
def Triple.merge (a b : Triple) : Triple × Flags :=
  if a.isEmpty && b.isEmpty then (Triple.empty, {})
  else if a.isEmpty then (b, {})
  else if b.isEmpty then (a, {})
  else
    let (w, f1) := sAdd a.w b.w
    let (d, f2) := sSub b.mu a.mu
    let (q, f3) := sDiv b.w w
    let (p, f4) := sMul d q
    let (mu, f5) := sAdd a.mu p
    let (s, f6) := sAdd a.m2 b.m2
    let (dd, f7) := sMul d d
    let (ww, f8) := sMul a.w b.w
    let (r, f9) := sDiv ww w
    let (t, f10) := sMul dd r
    let (m2, f11) := sAdd s t
    (⟨w, mu, m2⟩, [f1, f2, f3, f4, f5, f6, f7, f8, f9, f10, f11].foldl Flags.or {})

/-- The empty-result code (R135). -/
def emptyResult : Word := 0x7FD00000

/-- Normalisation: mean, variance and inverse deviation (R135). -/
def Triple.normalise (t : Triple) (eps : Word) (sample : Bool) : Triple × Flags :=
  if t.isEmpty then (⟨emptyResult, emptyResult, emptyResult⟩, {})
  else
    let (n, f1) := if sample then sSub t.w 0x3F800000 else (t.w, {})
    let mu := f32v t.mu
    let mean := if mu.isNan then 0x7FC00000#32 else t.mu
    let (var, f2) := sDiv t.m2 n
    let (s, f3) := sAdd var eps
    let (inv, f4) := sRsq s
    (⟨mean, var, inv⟩, [f1, { nv := mu.isSig }, f2, f3, f4].foldl Flags.or {})

end Sys2Proof.Machine
end

