-- ==== Sys2Proof/Config.lean ====
section
/-! DEFINITION. What the manual leaves open as a VALUE: constants with no body, so that no proof can
know them. The model applies each to a counter or to the operands it depends on. -/

namespace Sys2Proof.Config

/-- A fresh undefined 32-bit word (R3): the k-th the run has needed, in lane l (assumption 1). -/
opaque freeWord (k l : Nat) : Word

/-- A fresh undefined byte (R3) of the k-th undefined block of bytes, at offset i (assumption 1). -/
opaque freeByte (k i : Nat) : Byte

/-- A free number for a choice of place or of party that the manual leaves to the device (assumption 2). -/
opaque freeNat (k : Nat) : Nat

end Sys2Proof.Config
end

