-- ==== Sys2Proof/Machine/Tbl.lean ====
section
/-! DEFINITION. Sparse tables by number, in one canonical form: memory, register files and every other
collection of like things is one of these. Keys rise strictly and no entry equals what an unlisted key
reads as, so equal tables are equal lists. -/

namespace Sys2Proof.Machine

/-- A sparse table: key and value pairs. -/
abbrev Tbl (α : Type) := List (Nat × α)

/-- The value at key `k`; an unlisted key reads as `d`. -/
def Tbl.get {α : Type} (d : α) : Tbl α → Nat → α
  | [], _ => d
  | (k', v) :: t, k => if k = k' then v else Tbl.get d t k

/-- Puts an entry in its place, replacing the one with its key. -/
def Tbl.insert {α : Type} : Tbl α → Nat → α → Tbl α
  | [], k, v => [(k, v)]
  | (k', v') :: t, k, v =>
    if k < k' then (k, v) :: (k', v') :: t
    else if k = k' then (k, v) :: t
    else (k', v') :: Tbl.insert t k v

/-- Removes every entry with key `k`. -/
def Tbl.erase {α : Type} (t : Tbl α) (k : Nat) : Tbl α :=
  t.filter (fun e => !(e.1 == k))

/-- Writes `v` at key `k`; writing the unlisted value `d` removes the entry. -/
def Tbl.set {α : Type} [DecidableEq α] (d : α) (t : Tbl α) (k : Nat) (v : α) : Tbl α :=
  if v = d then Tbl.erase t k else Tbl.insert t k v

/-- Strictly rising keys, each above `lo` when one is given. -/
def Tbl.rising {α : Type} : Option Nat → Tbl α → Bool
  | _, [] => true
  | none, (k, _) :: t => Tbl.rising (some k) t
  | some lo, (k, _) :: t => decide (lo < k) && Tbl.rising (some k) t

/-- The canonical form: keys strictly rising, no entry equal to the unlisted value. -/
def Tbl.wf {α : Type} [DecidableEq α] (d : α) (t : Tbl α) : Bool :=
  Tbl.rising none t && t.all (fun e => !decide (e.2 = d))

/-- The sum of a table of counts. -/
def Tbl.total (t : Tbl Nat) : Nat := t.foldl (fun n e => n + e.2) 0

/-- Raises the count at a key. -/
def Tbl.raise (t : Tbl Nat) (k : Nat) : Tbl Nat := Tbl.set 0 t k (Tbl.get 0 t k + 1)

/-- Byte memory: an unlisted byte reads as zero (R32 for a scratchpad window; R227 step 3 for HBM4). -/
abbrev Memory := Tbl Byte

/-- One byte. -/
def Memory.byte (m : Memory) (a : Nat) : Byte := Tbl.get 0 m a

/-- Stores one byte. -/
def Memory.setByte (m : Memory) (a : Nat) (b : Byte) : Memory := Tbl.set 0 m a b

/-- The canonical form of a memory. -/
def Memory.wf (m : Memory) : Bool := Tbl.wf 0 m

/-- The `n` bytes from address `a`, lowest first. -/
def Memory.bytes (m : Memory) (a : Nat) : Nat → List Byte
  | 0 => []
  | n + 1 => Memory.byte m a :: Memory.bytes m (a + 1) n

/-- Stores a list of bytes from address `a`, lowest first. -/
def Memory.setBytes (m : Memory) (a : Nat) : List Byte → Memory
  | [] => m
  | b :: bs => Memory.setBytes (Memory.setByte m a b) (a + 1) bs

/-- A list of bytes as one little-endian number (R5). -/
def leNat : List Byte → Nat
  | [] => 0
  | b :: bs => b.toNat + 256 * leNat bs

/-- The low `n` bytes of a number, lowest first (R5). -/
def leBytes (v : Nat) : Nat → List Byte
  | 0 => []
  | n + 1 => BitVec.ofNat 8 v :: leBytes (v / 256) n

/-- `n` bytes as one little-endian number. -/
def Memory.read (m : Memory) (a n : Nat) : Nat := leNat (Memory.bytes m a n)

/-- Stores the low `n` bytes of a number. -/
def Memory.write (m : Memory) (a n v : Nat) : Memory := Memory.setBytes m a (leBytes v n)

/-- Puts an element behind those that precede it. -/
def insertBy {α : Type} (before : α → α → Bool) (x : α) : List α → List α
  | [] => [x]
  | y :: ys => if before y x then y :: insertBy before x ys else x :: y :: ys

/-- A list in the order of `before`, a strict order; equal elements keep their places. -/
def sortBy {α : Type} (before : α → α → Bool) : List α → List α
  | [] => []
  | x :: xs => insertBy before x (sortBy before xs)

end Sys2Proof.Machine
end

