-- ==== Sys2Proof/Machine/State.lean ====
section
/-! DEFINITION. The state of one Orolo device as plain data: its homes and caches, the blocks resident on its
cores with all their groups hold, launches and queues, the fabric interfaces, the management window,
and the agenda by which the outside world and the device's unordered choices enter. -/

namespace Sys2Proof.Machine

/-! ### Registers -/

/-- A vector register with its shape tag (R92): U one word, A base and stride, G 96 words. -/
inductive VReg where
  | u (w : Word)
  | a (b s : Word)
  | g (ws : List Word)
  deriving DecidableEq, Repr

/-- The value lane `l` reads (R92). -/
def VReg.read : VReg → Nat → Word
  | .u w, _ => w
  | .a b s, l => b + BitVec.ofNat 32 l * s
  | .g ws, l => ws.getD l 0

/-- A 64-bit per-lane latch as two words of each lane (R85, R89). -/
structure Latch where
  lo : VReg
  hi : VReg
  deriving DecidableEq, Repr

/-- What a quad waits for after its instruction (R27, R281). A barrier wait holds the barrier's index
(0 to 7 block, 8 bench, 9 launch), the generation awaited, and whether the waiting instruction made the
arrival itself (`BAR`) or not (`BARW`). -/
inductive QWait where
  | run
  | regang (mask : QuadMask) (order : Nat)
  | barrier (idx gen : Nat) (arrives : Bool)
  deriving DecidableEq, Repr

/-- A quad (R21, R26): its PC, issue stamp, whether it has exited, and its wait. -/
structure Quad where
  pc : Dword
  stamp : Nat
  exited : Bool
  wait : QWait
  deriving DecidableEq, Repr

/-- The condition a whole group waits for at its next instruction (R76, R155, R57, R179): the
instruction has not executed. `memWord` holds the bytes of the line at its home as its last read saw them, none before
the first; `memHit` a value that satisfied a `WAITM` on `n` bytes at `pa`, with the mask of its bytes that were written
from outside the launch (R318, R230). `tlb` holds the physical pages, with their sizes, of the translations whose accesses a
`TLBINV` waits for (R354). `release`
is the wait of a release that an instruction makes before it executes (R185, R57): whether its write-back of L1 has
been taken, and whether the instruction is a swap point. -/
inductive GWait where
  | ready
  | pendingReg (regs : List Nat)
  | path (p : Path) (t : Nat)
  | memWord (pa n : Nat) (cond : WCond) (b : Nat) (seen : Option (List Byte))
  | memHit (pa n x mask : Nat)
  | phase (off : Nat) (t : Word)
  | quiet
  | rfence
  | counterFull (p : Path)
  | lineEmpty (lines : List Nat)
  | lineFull (lines : List Nat)
  | matrixQueue
  | queueFull (q : Nat)
  | fence
  | release (wrote swap : Bool)
  | tlb (pages : List (Nat × Nat))
  | halt (ticket : Nat)
  | storeOrder
  deriving DecidableEq, Repr

/-- Why a block was asked to halt: a fault, a pre-emption by priority or of its context (R69, R225), a gang that broke
after its commit (R413), or the end of its launch (R384). -/
inductive HaltWhy where
  | fault
  | priority
  | context (hold : Bool)
  | broken
  | ended
  deriving DecidableEq, Repr

/-- A handler frame (R47, R108). -/
structure Frame where
  pcs : List Dword
  stamps : List Nat
  waits : List QWait
  exited : QuadMask
  mk0 : Word
  mk1 : Word
  mk2 : Word
  helper : Bool
  lt0 : Latch
  lt1 : Latch
  wait : GWait
  deriving DecidableEq, Repr

/-! ### Operations in flight -/

/-- Where a returned value goes: registers from `base`, `n` of them, in the lanes named; `scalar` names
the scalar file. `size` fixes the extension (R304). -/
structure Dest where
  scalar : Bool
  base : Nat
  n : Nat
  size : Size
  deriving DecidableEq, Repr

/-- One lane access of a memory-pipe operation: physical address, length, where it performs (at the
home, or in L1), store data or atomic operand, the compare value, the bit of the lane's value at which a
loaded part stands, and whether the lane is a helper lane, which event counters leave out (R31). -/
structure Access where
  lane : Nat
  pa : Nat
  len : Nat
  home : Bool
  data : Nat
  cmp : Nat
  sh : Nat
  helper : Bool
  deriving DecidableEq, Repr

/-- The instruction that issued an operation: its PC and the quads of its issue set (R376). -/
structure Origin where
  pc : Dword
  quads : QuadMask
  deriving DecidableEq, Repr

/-- The kinds of memory-pipe operation in flight. -/
inductive MemKind where
  | load
  | store
  | atom (op : AOp) (ty : ATy)
  | cctl (op : CctlOp)
  deriving DecidableEq, Repr

/-- An operation of path G or S in flight (R154, R155, R174): its issue number, the lane accesses still to
perform and the values gathered so far by lane. It leaves the list at its return. A load that only helper
lanes execute raises no counter (`counted = false`). `hint` is the instruction's cache hint (R152). `wrote` marks a release whose write-back of L1 has been taken
(step 3 of R176). -/
structure MemOp where
  seq : Nat
  path : Path
  kind : MemKind
  ord : MOrd
  acc : List Access
  got : Tbl Nat
  dst : Option Dest
  counted : Bool
  wrote : Bool
  hint : BitVec 3
  org : Origin
  deriving DecidableEq, Repr

/-- A register result of a scratchpad instruction that has not landed (R148, R311). -/
structure Landing where
  seq : Nat
  dst : Option Dest
  vals : List (Nat × Nat)
  sdst : Option (Nat × Word)
  pdst : Option (Nat × LaneMask × LaneMask)
  deriving DecidableEq, Repr

/-- A byte location of a copy: global physical, or scratchpad offset. -/
inductive Loc where
  | glob (pa : Nat)
  | spad (off : Nat)
  deriving DecidableEq, Repr

/-- Formats of a converting copy (R158): FP32 to BF16 or FP16, BF16 or FP16 to FP32. -/
inductive CvKind where
  | f2b | f2h | b2f | h2f
  deriving DecidableEq, Repr

/-- What a copy does to its bytes (R157 to R161, R316): a conversion holds the overflow table, and a code copy
the code table, as they stand at its issue; `nibbles` transposes blocks of two rows and two columns of 4 bits. -/
inductive CopyKind where
  | plain
  | conv (cv : CvKind) (ovt : Word)
  | code (table : List (BitVec 16))
  | nibbles
  | loadTable
  deriving DecidableEq, Repr

/-- The source of an engine operation: its bytes in order, those read so far by their index, and the line of the
window that it waits for, with the time since when (R148, R433). -/
structure Source where
  locs : List Loc
  read : Tbl Byte
  wait : Option (Nat × Nat)
  deriving DecidableEq, Repr

/-- A copy in flight (R154, R314): its cache hint (R152, R305), its source, the destination bytes in order, what it writes once its source is read, the
flag set, the object, and the scratchpad lines whose count it raised and that have not landed. -/
structure CopyOp where
  seq : Nat
  kind : CopyKind
  hint : BitVec 3
  src : Source
  dst : List Loc
  buf : Option (List Byte)
  flags : BitVec 7
  obj : Option Nat
  lines : List Nat
  landed : Bool
  org : Origin
  deriving DecidableEq, Repr

/-- The work of a matrix queue entry (R320). An operation holds MXA (R327) and the overflow table (note (l) of R19)
as they stand at its issue. -/
inductive MatKind where
  | mmq (body : Body) (cap : BitVec 2) (mxa : Word)
  | mmf (fp16 : Bool)
  | mmd
  | tenc (body : Body) (cap sp : BitVec 2) (tau : BitVec 16) (ovt : Word)
  | tdec (body : Body) (cap : BitVec 2)
  | tpin
  | tunpin
  | tzero (w64 : Bool)
  | tcvt (fmt : TFmt) (ovt : Word)
  | ldcbk (pas : List Nat)
  deriving DecidableEq, Repr

/-- A line of the window as a matrix operand fetch has read it: its number, its bytes, and its words that failed their
check (R148, R435). -/
structure LineRead where
  line : Nat
  val : Nat
  bad : List Nat
  deriving DecidableEq, Repr

/-- One entry of a group's matrix queue (R322): the beat, its first register, the offsets of its A or source, B or
record, and C or destination for that beat, the columns, the next tile step, whether it is the issue's last
operation, the codebook table it started with (R120), and the lines that its next tile step has read while it waits for
others (R148, R325). -/
structure MatOp where
  seq : Nat
  kind : MatKind
  beat : Nat
  reg : Nat
  aoff : Nat
  boff : Nat
  coff : Nat
  ncol : Nat
  tile : Nat
  last : Bool
  codebook : Option (List Word)
  got : List LineRead
  deriving DecidableEq, Repr

/-- A matrix issue that counts on path M (R155, R322): its flags so far, its object, and whether it has
completed. -/
structure MatIssue where
  seq : Nat
  flags : BitVec 7
  obj : Option Nat
  done : Bool
  org : Origin
  deriving DecidableEq, Repr

/-- An entry of a pin table (R331): offset, bytes covered, body and cap. `released` marks an entry whose
`TUNPIN` has issued (R332). -/
structure Pin where
  off : Nat
  bytes : Nat
  body : Body
  cap : BitVec 2
  released : Bool
  deriving DecidableEq, Repr

/-- The kinds of operation on path F (R154). An `MDONE` holds the home of its inbox's HEAD word as its issue translated it,
whether HEAD has performed, whether it finishes a message, and the port that the message came through (R13, R344); a `COLL` its descriptor, as does a chunk or a notice that the communication group's name carries (R35). -/
inductive FabKind where
  | rld (sz : Size)
  | rst
  | ratom (ty : ATy)
  | rcpy
  | msend
  | mdone (head : Nat) (headDone finished : Bool) (port : Nat)
  | quiet (w0 : Nat) (settled : Bool)
  | qstat (value : Dword)
  | coll (desc : Dword)
  | tile (desc : Dword)
  | rfence
  deriving DecidableEq, Repr

/-- A failed request of a fabric operation (R438, R440, R444, R446, R458): the lane whose place it takes,
every lane it serves, and when the failure was detected (R382). -/
structure FabFail where
  lane : Nat
  lanes : List Nat
  code : BitVec 8
  detail : Nat
  peer : Nat
  seq : Nat
  addr : Dword
  performed : Bool
  time : Nat
  deriving DecidableEq, Repr

/-- An operation of path F in flight (R339): the lanes whose requests are not yet settled, the values
returned, the failures, the local source, as many bytes for each lane (R342, R343), and its completion. -/
structure FabOp where
  seq : Nat
  kind : FabKind
  open_ : List Nat
  lanes : List Nat
  got : List (Nat × Nat)
  fails : List FabFail
  dst : Option Dest
  ps : Option PField
  stat : Bool
  obj : Option Nat
  src : Source
  done : Bool
  org : Origin
  deriving DecidableEq, Repr

/-- A fence whose actions have not ended (R179, R181), with its issue number, whether its write-back of L1 has been
taken (step 3 of R176), and its instruction. -/
inductive Fence where
  | fence (kind : FKind) (sc : Scope) (seq : Nat) (wrote : Bool) (org : Origin)
  | fencex (a b : Path) (seq : Nat) (wrote : Bool) (org : Origin)
  deriving DecidableEq, Repr

/-- An asynchronous fault not yet delivered (R376), with the time of its detection (R382). -/
structure AsyncFault where
  code : BitVec 8
  hi : Nat
  org : Origin
  addr : Option Dword
  phys : Bool
  info0 : Nat
  info1 : Nat
  time : Nat
  deriving DecidableEq, Repr

/-- A scratchpad read that has taken its place in some lanes, or some lines, and waits for a full line in another
(R148, R311, R313, R331): the instruction; what each lane, or each line of a stream, that it has read gave, by its number,
none for one that fails its check; and the lines that the fetch of a matrix instruction has read. -/
structure Part where
  org : Origin
  got : List (Nat × Option Nat)
  lines : List LineRead
  deriving DecidableEq, Repr

/-! ### Groups and blocks -/

/-- A group (R20, R85, R98, R107). The register files are sparse: an unlisted scalar is 0, an unlisted
vector register is 0 tagged U, an unlisted predicate is false in every lane (R32). -/
structure Group where
  num : Nat
  slot : Nat
  active : Option Nat
  sregs : Tbl Word
  vregs : Tbl VReg
  preds : Tbl LaneMask
  oregs : Tbl VReg
  lt0 : Latch
  lt1 : Latch
  latchOnly : Nat
  quads : List Quad
  issues : Nat
  helper : Bool
  gmr : Word
  mxa : Word
  hvec : Word
  hmaskr : Word
  trec0 : Word
  trec1 : Word
  trec2 : Word
  trec3 : Word
  ecnt : Tbl Word
  ecsel : Tbl Word
  timeCap : Dword
  arrivals : Tbl Nat
  wait : GWait
  part : Option Part
  waitSince : Nat
  readyAt : Option Nat
  lastIssue : Nat
  /-- The clock of the model's last offer that found the group waiting; the model's own (assumption 27). -/
  tried : Nat
  stallUntil : Nat
  yielded : Bool
  swapped : Bool
  /-- Late results that no swap point has awaited, with their paths: what pending means in steady mode (R84). -/
  owed : List (Nat × Path)
  saveO : Bool
  memops : List MemOp
  landings : List Landing
  copies : List CopyOp
  mats : List MatOp
  matIssues : List MatIssue
  fabs : List FabOp
  fences : List Fence
  pins : List Pin
  frame : Option Frame
  resumed : Bool
  asyncs : List AsyncFault
  badRegs : List Nat
  /-- Software altered the matrix queue state of the record: matrix results and flags are undefined (R409). -/
  matFree : Bool
  retired : Bool
  deriving DecidableEq, Repr

/-- A line of a restartable block's write buffer (R39): its line number, bytes and byte mask, whether it
holds an uncorrectable error (R411), and the group and the instruction of the latest store into it (R435). -/
structure WLine where
  line : Nat
  data : Memory
  mask : BitVec 128
  bad : Bool
  src : Nat
  org : Origin
  deriving DecidableEq, Repr

/-- The inbox a block has bound (R201). -/
structure Inbox where
  num : Nat
  desc : Dword
  deriving DecidableEq, Repr

/-- A member's part of a collective round (R211 to R216, R447, R448): the first `COLL`'s operands and time, the
fields of the descriptor, the groups that have issued, this member's contribution by element, the elements after
this member's step of the reduce pass and the drained result with the flags of each chunk, how many chunks of each
pass have come in and gone out, whether the reduce pass was closed by its timeout and how many of its chunks had arrived
then, whether the arrival has been made,
and whether the round has failed. -/
structure CollRound where
  op : CollOp
  rc : Nat
  dst : Nat
  obj : Nat
  desc : Dword
  timeout : Nat
  eps : Word
  ovt : Word
  since : Nat
  nmem : Nat
  pos : Nat
  round : Nat
  issued : List Nat
  contrib : Tbl (List Word)
  reduced : Tbl (List Word)
  result : Tbl (List Word)
  redFlags : Tbl (BitVec 7)
  gatFlags : Tbl (BitVec 7)
  redIn : Nat
  redOut : Nat
  gatIn : Nat
  gatOut : Nat
  timedOut : Bool
  redEnd : Nat
  finished : Bool
  failed : Bool
  org : Origin
  deriving DecidableEq, Repr

/-- A block resident on a core, or saved (R33, R105). `named` is the core that its placement map names, which a block that
runs again need not be on (R44, R69); `overdue` says that its halt has passed the bound of R408. -/
structure Block where
  ref : BlockRef
  ctx : Nat
  job : Nat
  tenant : Nat
  die : Nat
  core : Nat
  named : Nat
  entry : Dword
  spad : Nat
  volf : Nat
  commg : Option Nat
  handg : Option Nat
  cosched : Bool
  steady : Bool
  restartable : Bool
  pinned : Bool
  wbuf : List WLine
  groups : List Group
  spm : Memory
  fe : Tbl Nat
  bars : Tbl Nat
  inbox : Option Inbox
  colls : List CollRound
  halting : Option HaltWhy
  haltSince : Nat
  haltClock : Nat
  halted : Bool
  held : Bool
  stuck : Bool
  overdue : Bool
  order : Nat
  badSpm : List Nat
  discards : Nat
  deriving DecidableEq, Repr

/-- A saved block (R105, R380), with the place and length of its record and the time of the save. -/
structure Saved where
  blk : Block
  va : Dword
  bytes : Nat
  since : Nat
  matKey : Nat
  deriving DecidableEq, Repr

/-! ### Launches and queues -/

/-- What a kernel header gives a launch (R256). -/
structure Header where
  groups : Nat
  hflags : Nat
  gmr0 : Word
  scratch : Nat
  volf : Nat
  commg : Nat
  handg : Nat
  deriving DecidableEq, Repr

/-- The protocol state of a gang launch on this member (R72 to R74, R412). -/
inductive GangState where
  | idle
  | reserved
  | withdrawing
  | committed
  | aborted
  | broken
  deriving DecidableEq, Repr

/-- A discarded block that runs again (R44): its number, its die and the core that its map names, and when it was
discarded. -/
structure Rerun where
  block : Nat
  die : Nat
  core : Nat
  since : Nat
  deriving DecidableEq, Repr

/-- A launch that a queue has accepted and that has not completed (R57, R61, R62): where its packet stood, the packet's
64 bytes, the context, tenant and job it runs with, and the header once checked; its progress: the next block whose map
entry is read, the blocks read that wait for room and those that run again, each with its die and core, the whole map
of a co-scheduled launch, counts of blocks, and the cores that ran one; a gang's members; the RECMODE of its queue, the
place in the record log and the bytes that parties outside it wrote since it started (R230); in replay the place of the
log's first entry after the start, and the entries taken (R231). -/
structure Launch where
  ref : LaunchRef
  ctx : Nat
  tenant : Nat
  job : Nat
  addr : Dword
  packet : List Byte
  header : Option Header
  eligible : Bool
  next : Nat
  waiting : List (Nat × Nat × Nat)
  again : List Rerun
  eccDone : List Nat
  map : List (Nat × Nat)
  retired : Nat
  dispatched : Nat
  stopped : Bool
  status : Option Nat
  benchBars : Tbl Nat
  launchBar : Nat
  gang : GangState
  members : List Nat
  waitSince : Nat
  cores : List CoreId
  mode : Nat
  recLog : Nat
  recFull : Bool
  taken : List Nat
  ext : Tbl Bool
  deriving DecidableEq, Repr

/-- A hardware queue's block (R52, R219). -/
structure Queue where
  ctl : Word
  msi : Word
  nextSeq : Word
  doneSeq : Word
  cring : Dword
  cword : Dword
  grant : BitVec 256
  done : List Nat
  deriving DecidableEq, Repr

/-- What the device holds for a context beside its descriptor in memory: the overflow table (R137), the
code table (R138), the codebook (R120), and its halt state (R225, R383, R389). -/
structure Context where
  ovt : Word
  codeTable : Option (List (BitVec 16))
  codebook : Option (List Word)
  hold : Bool
  halted : Bool
  lost : Nat
  deriving DecidableEq, Repr

/-! ### Caches -/

/-- A line of a core's L1 (R149, R172, R173, R387, R435): its bytes, the mask of dirty bytes, the context and
the launch that last wrote, its protected words that fail their check, the hint of the last access that gave one
(R152), and for each recorded launch its bytes that were written from outside that launch (R230 type 4). -/
structure L1Line where
  core : CoreId
  line : Nat
  ctx : Nat
  who : Option LaunchRef
  data : Memory
  dirty : BitVec 128
  bad : List Nat
  hint : BitVec 3
  exts : List (LaunchRef × BitVec 128)
  deriving DecidableEq, Repr

/-- A line held in a home slice (R150), with the context that last wrote it (R387), and whether it is the first to be
evicted (R152). Its contents are the home's, in `State.mem`. -/
structure L2Line where
  line : Nat
  dirty : Bool
  ctx : Option Nat
  stream : Bool
  deriving DecidableEq, Repr

/-- A translation (R141): the leaf's page base, size and bits. -/
structure Leaf where
  base : Nat
  size : Nat
  ct : Nat
  priv : Bool
  x : Bool
  w : Bool
  deriving DecidableEq, Repr

/-- A cached translation of a core (R143): context, virtual page base, and the leaf. -/
structure TlbEntry where
  core : CoreId
  ctx : Nat
  vbase : Nat
  leaf : Leaf
  deriving DecidableEq, Repr

/-- A translation that an access of a context has used (R354): the virtual page, and where it lies. -/
structure Trans where
  ctx : Nat
  vbase : Nat
  base : Nat
  size : Nat
  deriving DecidableEq, Repr

/-! ### The fabric -/

/-- A job's counting domain on this device (R205, R208, R209, R438, R445): the counts I, C and L, the number of
the last settled wave, the number of the first wave whose token has not yet reached this device, and the rank of a
member found down; I, C and L are held for each DFI, by die (R13); at the leader, whether a `QUIET` is known to be pending, the next wave, the totals of the last,
whether its token is out, and when the last wave started. -/
structure Job where
  inj : Tbl Nat
  cons : Tbl Nat
  lost : Tbl Nat
  wave : Nat
  arrived : Nat
  noticed : Bool
  nextWave : Nat
  prev : Option (Nat × Nat)
  tokenOut : Bool
  waveStart : Option Nat
  down : Option Nat
  deriving DecidableEq, Repr

/-- A fabric request of this device that is not settled (R193, R194, R437): the packet, whose sequence number is
given when it leaves, the group and issue that own it, the lanes it serves with their places in a response, whether
its bytes stand ready (R342), whether and when it left, and how many of its flits have been sent (R199). -/
structure Req where
  pkt : Packet
  owner : GroupRef
  op : Nat
  lanes : List (Nat × Nat)
  ready : Bool
  left : Bool
  sentAt : Nat
  flits : Nat
  deriving DecidableEq, Repr

/-- A chunk that stands in a slot of this device, not yet consumed (R213): the context, the slot's address, and the
lines that have been written. -/
structure ChunkIn where
  ctx : Nat
  addr : Dword
  chunk : Chunk
  got : List Nat
  deriving DecidableEq, Repr

/-- A query of R437 in progress. -/
structure Query where
  n : Nat
  sends : Nat
  at_ : Nat
  deriving DecidableEq, Repr

/-- What this device keeps for a peer rank (R193, R437, R443, R444): its peer-to-port word, the next
sequence number to give, the next to perform, the highest that has performed, the early arrivals held, the bound below which late
arrivals are discarded, a settling in progress, whether the peer is down, and how many control packets are on their way to it
(R190). -/
structure Peer where
  map : Word
  oldPort : Option Nat
  txSeq : Nat
  rxSeq : Nat
  perf : Nat
  early : List Packet
  discard : Nat
  settling : Option Nat
  query : Option Query
  down : Bool
  ctl : Nat
  deriving DecidableEq, Repr

/-- A fabric port (R191, R199, R223, R389), with when its last control packet left. -/
structure Port where
  mode : Byte
  voxgo : Bool
  trained : Bool
  weights : Tbl Nat
  deficits : Tbl Nat
  turn : Nat
  ctlAt : Option Nat
  refusals : Nat
  replays : Nat
  exhausted : Nat
  deriving DecidableEq, Repr

/-- Control packets (R190, R208, R437, R72 to R74, R412, R445). -/
inductive Ctl where
  | quietNotice (job : Nat)
  | token (job wave si sc : Nat)
  | settled (job wave : Nat)
  | query (n : Nat)
  | reply (r : Nat)
  | down (job rank : Nat)
  | reserveAck (gang rank : Nat)
  | commit (gang : Nat)
  | withdraw (gang rank : Nat)
  | release (gang : Nat)
  | refusal (gang rank : Nat)
  | abort (gang : Nat) (committed : Bool)
  deriving DecidableEq, Repr

/-- A response to a fabric request (R190, R440). -/
inductive Resp where
  | read (bytes : List Byte)
  | write
  | atomic (old : Dword)
  | refused (reason : Nat)
  deriving DecidableEq, Repr

/-- What the device has sent to the outside, in order; `gang` is a control packet of the gang protocol with the tenant class
that it carries (R72), and `hostReads` and `hostWrites` are memory requests to the host (R217). -/
inductive Out where
  | request (p : Packet)
  | response (dst seq : Nat) (r : Resp)
  | control (dst : Nat) (c : Ctl)
  | gang (cls dst : Nat) (c : Ctl)
  | msi (vector : Nat)
  | hostData (bytes : List Byte)
  | controlDone
  | hostReads (addr len : Nat)
  | hostWrites (addr : Nat) (bytes : List Byte)
  deriving DecidableEq, Repr

/-- A packet other than a request that waits for its port (R190, R199): its destination; the port that a response came
in by, where the peer-to-port map names any other's; and the tenant class of a packet of the gang protocol (R72). -/
structure Held where
  dst : Nat
  port : Option Nat
  cls : Option Nat
  pkt : Out
  deriving DecidableEq, Repr

/-- A ring whose round this device closed by its timeout and whose block has gone: late chunks are still taken from its
slots (R447). -/
structure Ring where
  ctx : Nat
  job : Nat
  desc : Dword
  deriving DecidableEq, Repr

/-- A gang whose launch here has ended (R72 to R74, R412): its identifier, whether it had been committed, its tenant class,
the members whose word to the leader may still come, each with how many of the control packets on their way to it are still to be
answered until the abort is, and whether an abort may still come to a member. -/
structure EndedGang where
  id : Nat
  committed : Bool
  cls : Nat
  owed : List (Nat × Nat)
  abortOwed : Bool
  deriving DecidableEq, Repr

/-- A message delivered to a block's inbox and not finished yet (R13, R202): the context, the inbox's descriptor, the TAIL
at which it stands, and the port that it came through. -/
structure MsgIn where
  ctx : Nat
  desc : Dword
  index : Nat
  port : Nat
  deriving DecidableEq, Repr

/-! ### The management window and the platform -/

/-- A request that has reached the management controller and is not served to its end (R225, R356): its number, the
context, HOLD, whether it halts the context's blocks (GO, or a `HALT`), whether it is a PREQ write, and whether its service
has begun. -/
structure CtxReq where
  ticket : Nat
  ctx : Nat
  hold : Bool
  go : Bool
  preq : Bool
  begun : Bool
  deriving DecidableEq, Repr

/-- The registers of the management window that belong to no queue, port or peer (R218, R225, R226, R384,
R388, R428). `requests` are the PREQ writes and `HALT`s in the order of their arrival, `tickets` counts them (R356). -/
structure Mgmt where
  status : Word
  rank : Nat
  ctxtab : Dword
  jobtab : Dword
  keytab : Dword
  preq : Word
  teniso : Word
  powercap : Nat
  hladdr : Dword
  hlctl : Word
  hlseq : Word
  ackto : Nat
  feto : Nat
  linkto : Nat
  resynca : Dword
  resyncDone : Bool
  /-- The RESYNC command under way: its buffer and the entry it takes next (R388, R390). -/
  resync : Option (Nat × Nat)
  requests : List CtxReq
  tickets : Nat
  coreMap : Tbl Byte
  msixTable : Memory
  msixPending : Tbl Bool
  deriving DecidableEq, Repr

/-- The management controller's actuators and readings (R17, R228, R386), and the cores taken out of dispatch
(R408). -/
structure Platform where
  clock : Nat
  gate : Nat
  sensors : Sensors
  above : Bool
  corrected : Tbl Nat
  dead : List CoreId
  deriving DecidableEq, Repr

/-- A turn of the agenda: what happens next. An event is a row of the opcode table; `issue` offers the next issue to a
group, and `pair` does so where both slots of a marked pair find a free pipe; `elapse` lets nanoseconds pass; the others
are single accesses of operations in flight (`copyByte` reads one byte of an engine's source, R182), the end of a fence's
actions, the next entry of a RESYNC command, a write of the host into its own memory (R217), soft errors, and a patrol
scrub of a word (R387). -/
inductive Turn where
  | issue (g : GroupRef)
  | pair (g : GroupRef)
  | event (i : Instr)
  | elapse (ns : Nat)
  | perform (g : GroupRef) (seq : Nat)
  | copyMove (g : GroupRef) (seq : Nat)
  | copyByte (g : GroupRef) (seq k : Nat)
  | fence (g : GroupRef)
  | resync
  | hostMemory (addr : Nat) (bytes : List Byte)
  | softError (addr : Nat)
  | l1Error (c : CoreId) (addr : Nat)
  | bufError (b : BlockRef) (line : Nat)
  | spadError (b : BlockRef) (off : Nat)
  | regError (g : GroupRef) (reg : Nat)
  | corrected (k : Nat)
  | scrub (addr : Nat)
  deriving DecidableEq, Repr

/-- The group and issue set that execute the present instruction, and its PC: indexes into
`State.blocks` and `Block.groups`; a register with an uncorrectable error that the present instruction reads (R435), by
its number; what its issue adds to the counts and the pending results of its group: whether it is the second of a pair (R80),
the clocks of its bank conflicts (R97), the results that come later, by register and path, and the registers that it
writes whole, whose errors go with their old words (R387); and the launch on whose behalf the present step writes, none for
a party outside every launch (R230 type 4). -/
structure Cur where
  blk : Nat
  grp : Nat
  quads : QuadMask
  pc : Dword
  bad : Option Nat
  paired : Bool
  delay : Nat
  owes : List (Nat × Path)
  renew : List Nat
  who : Option LaunchRef
  deriving DecidableEq, Repr

/-- The machine: one device of a pod. -/
structure State where
  cur : Cur
  agenda : List Turn
  mem : Memory
  badMem : List Nat
  eccFail : List Nat
  l1 : List L1Line
  l2 : List L2Line
  tlb : List TlbEntry
  used : List Trans
  blocks : List Block
  saved : List Saved
  launches : List Launch
  queues : Tbl Queue
  ctxs : Tbl Context
  turns : Tbl Nat
  rounds : Tbl Nat
  gangAcks : Tbl (List Nat)
  gangAborts : List Nat
  gangEnded : List EndedGang
  dispatchCount : Nat
  jobs : Tbl Job
  peers : Tbl Peer
  ports : Tbl Port
  reqs : List Req
  chunks : List ChunkIn
  msgs : List MsgIn
  loopResp : List (Nat × Resp)
  heldq : List Held
  rings : List Ring
  out : List Out
  mgmt : Mgmt
  plat : Platform
  fuses : Tbl (BitVec 168)
  time : Nat
  clock : Nat
  free : Nat
  deriving DecidableEq, Repr

/-! ### Reset -/

/-- A latch at a group's start holds undefined values (R32, R3): the words of free block `k`. -/
def VReg.undef (k : Nat) : VReg := .g ((List.range numLanes).map (Config.freeWord k))

/-- A latch whose 64 bits are undefined, from free blocks `k` and `k + 1`. -/
def Latch.undef (k : Nat) : Latch := ⟨VReg.undef k, VReg.undef (k + 1)⟩

/-- A quad at a group's start (R32). -/
def Quad.start (pc : Dword) : Quad := ⟨pc, 0, false, .run⟩

/-- A group at its start (R32): number, resident slot, entry PC, GMR of the kernel header, and the
launch packet's address in s0 and s1. `k` is the first free block its latches take. -/
def Group.start (num slot : Nat) (pc : Dword) (gmr : Word) (packet : Dword) (k : Nat) : Group where
  num := num
  slot := slot
  active := none
  sregs := Tbl.set 0 (Tbl.set 0 [(61, 0xFFFFFFFF#32), (62, 0xFFFFFFFF#32), (63, 0xFFFFFFFF#32)]
    1 (packet.extractLsb' 32 32)) 0 (packet.extractLsb' 0 32)
  vregs := []
  preds := []
  oregs := []
  lt0 := Latch.undef k
  lt1 := Latch.undef (k + 2)
  latchOnly := 0
  quads := List.replicate 24 (Quad.start pc)
  issues := 0
  helper := false
  gmr := gmr
  mxa := 0x7F800000#32
  hvec := 0
  hmaskr := 1
  trec0 := 0
  trec1 := 0
  trec2 := 0
  trec3 := 0
  ecnt := []
  ecsel := []
  timeCap := 0
  arrivals := []
  wait := .ready
  part := none
  waitSince := 0
  readyAt := none
  lastIssue := 0
  tried := 0
  stallUntil := 0
  yielded := false
  swapped := false
  owed := []
  saveO := false
  memops := []
  landings := []
  copies := []
  mats := []
  matIssues := []
  fabs := []
  fences := []
  pins := []
  frame := none
  resumed := false
  asyncs := []
  badRegs := []
  matFree := false
  retired := false

/-- What an out-of-range group index reads as: a group of no block. -/
def Group.nil : Group := Group.start 0 0 0 0 0 0

/-- What an out-of-range block index reads as. -/
def Block.nil : Block where
  ref := ⟨⟨0, 0⟩, 0⟩
  ctx := 0
  job := 0
  tenant := 0
  die := 0
  core := 0
  named := 0
  entry := 0
  spad := 0
  volf := 128
  commg := none
  handg := none
  cosched := false
  steady := false
  restartable := false
  pinned := false
  wbuf := []
  groups := []
  spm := []
  fe := []
  bars := []
  inbox := none
  colls := []
  halting := none
  haltSince := 0
  haltClock := 0
  halted := false
  held := false
  stuck := false
  overdue := false
  order := 0
  badSpm := []
  discards := 0

/-- A queue block at reset (R219): PREEMPT set, every other field zero. -/
def Queue.reset : Queue := ⟨4#32, 0, 0, 0, 0, 0, 0, []⟩

/-- A context at its creation (R120, R137, R138). DESIGN CHOICE: the manual names no event that creates a context; the model
gives every context these tables at device reset and at no other time (assumption 70). -/
def Context.reset : Context := ⟨0x15#32, none, none, false, false, 0⟩

/-- A job as JOBRESET leaves it (R192, R223): wave numbers start at 1 (R208). -/
def Job.reset : Job := ⟨[], [], [], 0, 1, false, 1, none, false, none, none⟩

/-- A peer at reset: its map entry invalid; sequences start at 1, so that a reply of 0 says that nothing has performed
(assumption 7). -/
def Peer.reset : Peer := ⟨0, none, 1, 1, 0, [], 0, none, none, false, 0⟩

/-- A port at reset (R199, R223): disabled, class weights 1. -/
def Port.reset : Port := ⟨0, false, false, [], [], 0, none, 0, 0, 0⟩

/-- The management registers at reset (R218, R226, R228, R428; assumption 7 for those without one). -/
def Mgmt.reset : Mgmt where
  status := 0
  rank := 0
  ctxtab := 0
  jobtab := 0
  keytab := 0
  preq := 0x20000000#32
  teniso := 0
  powercap := 4200
  hladdr := 0
  hlctl := 0x40000000#32
  hlseq := 0
  ackto := 1000
  feto := 10000
  linkto := 10
  resynca := 0
  resyncDone := false
  resync := none
  requests := []
  tickets := 0
  coreMap := []
  msixTable := []
  msixPending := []

/-- The platform at reset (R17, R228): 850 MHz, the issue gate open. -/
def Platform.reset : Platform := ⟨850, 16, ⟨0, 0, 0, 0, []⟩, false, [], []⟩

/-- The fuses of every die (R11): which eight cores are disabled differs from package to package; the
model disables physical cores 160 to 167 (assumption 6). Unlisted dies read this too. -/
def fusesDefault : BitVec 168 := BitVec.ofNat 168 (2 ^ 160 - 1)

/-- The device right after reset, before any bring-up step (R227): nothing resident, queues closed, memory
unlisted, TIME zero (R103). -/
def State.reset : State where
  cur := ⟨0, 0, 0, 0, none, false, 0, [], [], none⟩
  agenda := []
  mem := []
  badMem := []
  eccFail := []
  l1 := []
  l2 := []
  tlb := []
  used := []
  blocks := []
  saved := []
  launches := []
  queues := []
  ctxs := []
  turns := []
  rounds := []
  gangAcks := []
  gangAborts := []
  gangEnded := []
  dispatchCount := 0
  jobs := []
  peers := []
  ports := []
  reqs := []
  chunks := []
  msgs := []
  loopResp := []
  heldq := []
  rings := []
  out := []
  mgmt := Mgmt.reset
  plat := Platform.reset
  fuses := []
  time := 0
  clock := 0
  free := 0

/-! ### How a step can stop -/

/-- Faults of the model (not of the machine, whose faults are next states). Closed. -/
inductive Fault where
  /-- Raised by `hostRead` and `hostWrite` for an address that BAR2 does not map to HBM4 (R217: the host
  must not access the rest; the manual gives no response). Safe: the run stops. -/
  | hostReserved
  deriving DecidableEq, Repr

/-- Refusals of the model. Closed. -/
inductive Refusal where
  /-- Raised by an arm of `exec` that has no meaning yet. Safe: the run stops. -/
  | notModelled (mnemonic : String)
  deriving DecidableEq, Repr

end Sys2Proof.Machine
end

