-- ==== Sys2Proof/Machine/Regs.lean ====
section
/-! DEFINITION. The group that executes, its lanes and its register files (spec 02 R21 to R31, 04 R85 to R95):
every read and write of a register goes through this file. -/

namespace Sys2Proof.Machine

/-! ### The group that executes -/

/-- The block of the present instruction or event. -/
def State.blk (s : State) : Block := s.blocks.getD s.cur.blk Block.nil

/-- The group of the present instruction or event. -/
def State.grp (s : State) : Group := s.blk.groups.getD s.cur.grp Group.nil

/-- Replaces the present block. -/
def State.setBlk (s : State) (b : Block) : State := { s with blocks := s.blocks.set s.cur.blk b }

/-- Changes the present block. -/
def State.modBlk (s : State) (f : Block → Block) : State := s.setBlk (f s.blk)

/-- Replaces the present group. -/
def State.setGrp (s : State) (g : Group) : State :=
  s.setBlk { s.blk with groups := s.blk.groups.set s.cur.grp g }

/-- Changes the present group. -/
def State.modGrp (s : State) (f : Group → Group) : State := s.setGrp (f s.grp)

/-- The group a reference names, by index of block and group. -/
def State.find (s : State) (r : GroupRef) : Option (Nat × Nat) :=
  match s.blocks.findIdx? (fun b => b.ref == r.block) with
  | none => none
  | some i =>
    match (s.blocks.getD i Block.nil).groups.findIdx? (fun g => g.num == r.group) with
    | none => none
    | some j => some (i, j)

/-- Seats a group as the present one. -/
def State.seat (s : State) (r : GroupRef) : Option State :=
  match s.find r with
  | none => none
  | some (i, j) => some { s with cur := { s.cur with
      blk := i, grp := j, bad := none, paired := false, delay := 0, owes := [], renew := [], who := some r.block.launch } }

/-- Seats a block, with its first group. -/
def State.seatBlk (s : State) (r : BlockRef) : Option State :=
  match s.blocks.findIdx? (fun b => b.ref == r) with
  | none => none
  | some i => some { s with cur := { s.cur with blk := i, grp := 0, who := some r.launch } }

/-- The present group's reference. -/
def State.ref (s : State) : GroupRef := ⟨s.blk.ref, s.grp.num⟩

/-- Runs `f` with group `j` of block `i` seated, and seats the old group again. -/
def State.within (s : State) (i j : Nat) (f : State → State) : State :=
  let t := f { s with cur := { s.cur with blk := i, grp := j, who := some (s.blocks.getD i Block.nil).ref.launch } }
  { t with cur := s.cur }

/-- The core of the present block. -/
def State.core (s : State) : CoreId := ⟨s.blk.die, s.blk.core⟩

/-- Adds a number to a list that holds each once. -/
def addOnce (l : List Nat) (x : Nat) : List Nat := if l.contains x then l else l ++ [x]

/-! ### Register files (R85) -/

/-- A scalar register. -/
def Group.sreg (g : Group) (n : Nat) : Word := Tbl.get 0 g.sregs n
/-- A vector register with its tag. -/
def Group.vreg (g : Group) (n : Nat) : VReg := Tbl.get (.u 0) g.vregs n
/-- An operand-file register. -/
def Group.oreg (g : Group) (n : Nat) : VReg := Tbl.get (.u 0) g.oregs n
/-- A predicate in lane `l`; p7 is true everywhere (R85). -/
def Group.pred (g : Group) (n : BitVec 3) (l : Nat) : Bool :=
  if n = 7 then true else (Tbl.get 0 g.preds n.toNat).getLsbD l

/-- Registers that a write has replaced whole pass their check again (R387), by the numbers of `Dest.regs`. -/
def Group.renewed (g : Group) (rs : List Nat) : Group := { g with badRegs := g.badRegs.filter (fun r => !rs.contains r) }

def Group.setS (g : Group) (n : Nat) (w : Word) : Group := { g with sregs := Tbl.set 0 g.sregs n w }
def Group.setV (g : Group) (n : Nat) (r : VReg) : Group := { g with vregs := Tbl.set (.u 0) g.vregs n r }
def Group.setO (g : Group) (n : Nat) (r : VReg) : Group := { g with oregs := Tbl.set (.u 0) g.oregs n r }

/-- The 96-bit mask of the lanes that satisfy `f`. -/
def maskOf (f : Nat → Bool) : LaneMask :=
  (BitVec.ofBoolListLE ((List.range numLanes).map f)).setWidth numLanes

/-- Writes a predicate in the lanes named; a write to p7 is ignored (R85, R268). -/
def Group.setP (g : Group) (n : BitVec 3) (lanes val : Nat → Bool) : Group :=
  if n = 7 then g
  else { g with preds := Tbl.set 0 g.preds n.toNat (maskOf (fun l => if lanes l then val l else g.pred n l)) }

/-- A P field read in a lane (R268). -/
def Group.pfield (g : Group) (p : PField) (l : Nat) : Bool := g.pred p.num l ^^ p.neg

/-- A 64-bit scalar pair (R86). -/
def Group.spair (g : Group) (n : Nat) : Dword := g.sreg (n + 1) ++ g.sreg n
/-- Writes a 64-bit scalar pair. -/
def Group.setSpair (g : Group) (n : Nat) (w : Dword) : Group :=
  (g.setS n (w.extractLsb' 0 32)).setS (n + 1) (w.extractLsb' 32 32)

/-! ### Lanes (R21, R29, R30, R245) -/

/-- The activity mask bit of a lane (R29). -/
def Group.maskBit (g : Group) (l : Nat) : Bool := (g.sreg (61 + l / 32)).getLsbD (l % 32)

/-- A helper lane: helper mode on, the lane's bit clear, some bit of its quad set (R30). -/
def Group.isHelper (g : Group) (l : Nat) : Bool :=
  g.helper && !g.maskBit l &&
    (g.maskBit (4 * (l / 4)) || g.maskBit (4 * (l / 4) + 1) || g.maskBit (4 * (l / 4) + 2) ||
      g.maskBit (4 * (l / 4) + 3))

/-- Both guards of an instruction hold in a lane (R245). -/
def Group.guards (g : Group) (h : Hdr) (l : Nat) : Bool :=
  (g.pred h.g0.num l ^^ h.g0.neg) && (g.pred h.g1.num l ^^ h.g1.neg)

/-- The lane lies in a quad of the issue set (R22). -/
def State.inSet (s : State) (l : Nat) : Bool := decide (l < numLanes) && s.cur.quads.getLsbD (l / 4)

/-- The lanes of X(g): those that execute and are not helper lanes (R270). -/
def State.xlane (s : State) (h : Hdr) (l : Nat) : Bool :=
  s.inSet l && s.grp.maskBit l && s.grp.guards h l

/-- active(g): the lanes that execute, helper lanes among them (R270). -/
def State.lane (s : State) (h : Hdr) (l : Nat) : Bool :=
  s.inSet l && (s.grp.maskBit l || s.grp.isHelper l) && s.grp.guards h l

/-- The lanes that satisfy `f`, ascending. -/
def lanesOf (f : Nat → Bool) : List Nat := (List.range numLanes).filter f

/-- X(g) in ascending order. -/
def State.xs (s : State) (h : Hdr) : List Nat := lanesOf (s.xlane h)

/-- active(g) in ascending order. -/
def State.lanes (s : State) (h : Hdr) : List Nat := lanesOf (s.lane h)

/-- Whether an instruction writes every lane (R93). -/
def isFull (f : Nat → Bool) : Bool := (List.range numLanes).all f

/-! ### Writing vectors (R92, R95) -/

/-- A register after a write of `val` in `lanes`: the tag `full` gives when every lane writes, else G with
the old values where no lane writes. -/
def VReg.write (old : VReg) (lanes : Nat → Bool) (val : Nat → Word) (full : Option VReg) : VReg :=
  match isFull lanes, full with
  | true, some r => r
  | _, _ => .g ((List.range numLanes).map (fun l => if lanes l then val l else old.read l))

/-- Fresh undefined words for every lane (R3, assumption 1). -/
def State.fresh (s : State) : (Nat → Word) × State :=
  (fun l => Config.freeWord s.free l, { s with free := s.free + 1 })

/-- A latch half after a write in some lanes: undefined in every other lane (R89). -/
def latchHalf (lanes : Nat → Bool) (val undef : Nat → Word) : VReg :=
  .g ((List.range numLanes).map (fun l => if lanes l then val l else undef l))

/-- The failing registers after a latch update: what failed in lt0 (200) fails in lt1 (201) now, and lt0 is written whole
(R89, R387). -/
def latchBad (bs : List Nat) : List Nat :=
  bs.filter (fun r => r != 200 && r != 201) ++ if bs.contains 200 then [201] else []

/-- The latch update of R89: lt0 moves to lt1, and lt0 takes the result in the lanes that execute. `hi` is
absent for a 32-bit result. -/
def State.latch (s : State) (lanes : Nat → Bool) (lo : Nat → Word) (hi : Option (Nat → Word)) : State :=
  let (u0, s1) := s.fresh
  let (u1, s2) := s1.fresh
  let l0 : Latch := ⟨latchHalf lanes lo u0, latchHalf lanes (hi.getD u1) u1⟩
  s2.modGrp (fun g => { g with lt1 := g.lt0, lt0 := l0, badRegs := latchBad g.badRegs })

/-- Operand file and latches die: their values are undefined from a swap point on (R88, R91). -/
def State.killShort (s : State) : State :=
  let k := s.free
  { s with free := s.free + 12 }.modGrp (fun g =>
    { g with oregs := (List.range 8).map (fun i => (i, VReg.undef (k + i))),
             lt0 := Latch.undef (k + 8), lt1 := Latch.undef (k + 10) })

/-! ### Program counters (R235, R241) -/

/-- The line address of a PC. -/
def pcLine (p : Dword) : Dword := p &&& ~~~(63#64)
/-- The slot of a PC. -/
def pcSlot (p : Dword) : Nat := (p.extractLsb' 0 3).toNat
/-- The PC of the next slot. -/
def pcNext (p : Dword) : Dword := if pcSlot p = 4 then pcLine p + 64 else p + 1

/-- The PC of the slot before. -/
def pcPrev (p : Dword) : Dword := if pcSlot p = 0 then pcLine p - 64 + 4 else p - 1
/-- The slot index of a PC (R241). -/
def slotIndex (p : Dword) : Int := 5 * (p.extractLsb' 6 58).toInt + pcSlot p
/-- The PC with a slot index. -/
def pcOfIndex (i : Int) : Dword := BitVec.ofInt 58 (i / 5) ++ BitVec.ofNat 6 (i % 5).toNat

/-! ### Quads -/

/-- The quads of a mask, ascending. -/
def quadsOf (m : QuadMask) : List Nat := (List.range 24).filter (fun q => m.getLsbD q)

/-- Changes the quads of the present group that a mask names. -/
def State.modQuads (s : State) (m : QuadMask) (f : Nat → Quad → Quad) : State :=
  s.modGrp (fun g => { g with quads := g.quads.mapIdx (fun i q => if m.getLsbD i then f i q else q) })

/-- Mask of the quads that satisfy `f`. -/
def quadMask (f : Nat → Bool) : QuadMask :=
  (BitVec.ofBoolListLE ((List.range 24).map f)).setWidth 24

/-- Beats that hold a quad of the issue set (R22). -/
def State.beats (s : State) : List Nat :=
  (List.range 3).filter (fun b => (List.range 8).any (fun i => s.cur.quads.getLsbD (8 * b + i)))

/-! ### Event counters (R104, R229) -/

/-- Adds `n` to the counters that select event `code`. -/
def Group.bump (g : Group) (code n : Nat) : Group :=
  { g with ecnt := (List.range 8).foldl (fun t i =>
      if (Tbl.get 0 g.ecsel i).toNat % 256 = code ∧ code ≠ 0 then
        Tbl.set 0 t i (Tbl.get 0 t i + BitVec.ofNat 32 n)
      else t) g.ecnt }

/-- Adds `n` to the present group's counters of event `code`. -/
def State.count (s : State) (code n : Nat) : State := s.modGrp (fun g => g.bump code n)

end Sys2Proof.Machine
end

