-- ==== Sys2Proof/Machine/Paging.lean ====
section
/-! DEFINITION. Context descriptors and translation (spec 06 R140 to R144, 09 R221, 22 R429 to R431). -/

namespace Sys2Proof.Machine

/-- Physical addresses of the package's HBM4 (R144). -/
def inHbm (pa : Nat) : Bool := decide (pa < 0xC000000000)
/-- Physical addresses of host memory (R144). -/
def inHost (pa : Nat) : Bool := decide (0x8000000000000 ≤ pa ∧ pa < 0x10000000000000)

/-- Device memory read at its home: `n` bytes at a physical address, little-endian. -/
def State.phys (s : State) (pa n : Nat) : Nat := Memory.read s.mem pa n

/-! ### Context descriptors (R221) -/

/-- Field of the descriptor of context `j`. -/
def State.desc (s : State) (j off n : Nat) : Nat := s.phys (s.mgmt.ctxtab.toNat + 128 * j + off) n

def State.ctxValid (s : State) (j : Nat) : Bool := s.desc j 0x13 1 % 2 == 1
/-- Privileged contexts (R224). -/
def State.ctxPriv (s : State) (j : Nat) : Bool := s.desc j 0x13 1 / 2 % 2 == 1
def State.ctxRoot (s : State) (j : Nat) : Nat := s.desc j 0 8 / 2 ^ 12 % 2 ^ 40 * 2 ^ 12
def State.ctxKey (s : State) (j : Nat) : Dword := BitVec.ofNat 64 (s.desc j 8 8)
def State.ctxTenant (s : State) (j : Nat) : Nat := s.desc j 0x10 2
def State.ctxClass (s : State) (j : Nat) : Nat := s.desc j 0x12 1 % 16
def State.ctxBase (s : State) (j : Nat) : Dword := BitVec.ofNat 64 (s.desc j 0x18 8)
def State.ctxSize (s : State) (j : Nat) : Nat := s.desc j 0x20 8
def State.recBase (s : State) (j : Nat) : Dword := BitVec.ofNat 64 (s.desc j 0x28 8)
def State.recSize (s : State) (j : Nat) : Nat := s.desc j 0x30 8
def State.faultQ (s : State) (j : Nat) : Dword := BitVec.ofNat 64 (s.desc j 0x38 8)

/-- What the device holds for a context beside its descriptor. -/
def State.ctx (s : State) (j : Nat) : Context := Tbl.get Context.reset s.ctxs j
def State.setCtx (s : State) (j : Nat) (c : Context) : State :=
  { s with ctxs := Tbl.set Context.reset s.ctxs j c }

/-! ### Uncorrectable words (R387) -/

/-- The protected word of a physical address: 8 bytes (assumption 8). -/
def protWord (pa : Nat) : Nat := pa / 8

/-- Some word of `n` bytes at `pa` fails its check. -/
def State.badAt (s : State) (pa n : Nat) : Bool :=
  s.badMem.any (fun w => decide (protWord pa ≤ w ∧ w ≤ protWord (pa + n - 1)))

/-! ### The walk (R141, R142, R429) -/

/-- A failed translation: the level, the reason, the entry and its physical address (R429); or the
physical address of an uncorrectable entry (R431). -/
inductive WalkErr where
  | fail (level reason entry pa : Nat)
  | ecc (pa : Nat)
  deriving DecidableEq, Repr

/-- Bits [63:57] equal to bit [56] (R140). -/
def signOk (va : Dword) : Bool := va == (va.extractLsb' 0 57).signExtend 64

/-- The reserved bits of an entry (R141, R429). -/
def entryReserved (e level : Nat) : Bool :=
  let leaf := e / 2 % 2 == 1
  e / 2 ^ 52 != 0 || e / 2 ^ 9 % 8 != 0 || e / 4 % 2 == 1 ||
    (e / 256 % 2 == 1 && !(level == 1 && leaf))

/-- Bytes that a leaf at a level maps. -/
def leafSize (e level : Nat) : Nat :=
  if level = 3 then 2 ^ 30 else if level = 2 then 2 ^ 21 else if e / 256 % 2 = 1 then 2 ^ 16 else 2 ^ 12

def entryPa (e : Nat) : Nat := e / 2 ^ 12 % 2 ^ 40 * 2 ^ 12

/-- The page a leaf entry maps. -/
def leafOf (e level : Nat) : Leaf :=
  let size := leafSize e level
  ⟨entryPa e / size * size, size, e / 64 % 4, e / 32 % 2 == 1, e / 16 % 2 == 1, e / 8 % 2 == 1⟩

/-- The first entry of the group of a 64 KiB page that breaks R142, with its address. -/
def badSibling (s : State) (base e : Nat) : List Nat → Option WalkErr
  | [] => none
  | i :: is =>
    let pa := base + 8 * i
    if s.badAt pa 8 then some (.ecc pa)
    else
      let x := s.phys pa 8
      if x % 2 = 1 ∧ x / 2 % 2 = 1 ∧ x / 256 % 2 = 1 ∧ x / 8 % 32 = e / 8 % 32 ∧
          entryPa x / 2 ^ 16 = entryPa e / 2 ^ 16 ∧ entryPa x / 2 ^ 12 % 16 = i % 16 then
        badSibling s base e is
      else some (.fail 1 4 x pa)

/-- The checks of one leaf entry that passed reasons 0 to 3 (R429: 6, 5, 7, then 4). -/
def checkLeaf (s : State) (va : Dword) (e pa level : Nat) : Except WalkErr Leaf :=
  let sz64 := level == 1 && e / 256 % 2 == 1
  let misaligned :=
    if level = 3 then entryPa e % 2 ^ 30 != 0
    else if level = 2 then entryPa e % 2 ^ 21 != 0
    else sz64 && entryPa e / 2 ^ 12 % 16 != va.toNat / 2 ^ 12 % 16
  if 2 ≤ e / 64 % 4 then .error (.fail level 6 e pa)
  else if misaligned then .error (.fail level 5 e pa)
  else if !(inHbm (entryPa e) || inHost (entryPa e)) then .error (.fail level 7 e pa)
  else if sz64 then
    let i := va.toNat / 2 ^ 12 % 16
    match badSibling s (pa - 8 * i) e ((List.range 16).filter (· != i)) with
    | some err => .error err
    | none => .ok (leafOf e level)
  else .ok (leafOf e level)

/-- The walk from a table at a level down (R141). -/
def walkFrom (s : State) (va : Dword) : Nat → Nat → Except WalkErr Leaf
  | 0, _ => .error (.fail 0 0 0 0)
  | k + 1, table =>
    let level := k + 1
    let pa := table + 8 * (va.toNat / 2 ^ (12 + 9 * k) % 512)
    if s.badAt pa 8 then .error (.ecc pa)
    else
      let e := s.phys pa 8
      if e % 2 = 0 then .error (.fail level 0 e pa)
      else if entryReserved e level then .error (.fail level 1 e pa)
      else if e / 2 % 2 = 1 then
        if 4 ≤ level then .error (.fail level 2 e pa) else checkLeaf s va e pa level
      else if level = 1 then .error (.fail level 3 e pa)
      else walkFrom s va k (entryPa e)

/-- The walk of an address in a context. -/
def State.walk (s : State) (ctx : Nat) (va : Dword) : Except WalkErr Leaf := walkFrom s va 5 (s.ctxRoot ctx)

/-- The entries that a walk reads, by their addresses: one of each level, and the sixteen of a 64 KiB page (R141, R142). -/
def walkReads (s : State) (va : Dword) : Nat → Nat → List Nat
  | 0, _ => []
  | k + 1, table =>
    let i := va.toNat / 2 ^ (12 + 9 * k) % 512
    let e := s.phys (table + 8 * i) 8
    if e % 2 = 0 ∨ entryReserved e (k + 1) then [table + 8 * i]
    else if e / 2 % 2 = 1 then
      if k = 0 ∧ e / 256 % 2 = 1 then (List.range 16).map (fun j => table + 8 * (i / 16 * 16 + j)) else [table + 8 * i]
    else (table + 8 * i) :: walkReads s va k (entryPa e)

/-- The bytes that a walk reads: ROOT in the context's descriptor, and the entries (R141, R221). -/
def State.walkBytes (s : State) (ctx : Nat) (va : Dword) : List Nat :=
  ((s.mgmt.ctxtab.toNat + 128 * ctx) :: walkReads s va 5 (s.ctxRoot ctx)).flatMap (fun a => (List.range 8).map (fun i => a + i))

/-- A cached translation of a core (R143). -/
def State.cached (s : State) (core : CoreId) (ctx : Nat) (va : Dword) : Option Leaf :=
  (s.tlb.find? (fun t => t.core == core && t.ctx == ctx && va.toNat / t.leaf.size * t.leaf.size == t.vbase)).map (fun t => t.leaf)

/-- The leaf that governs an address: a cached translation of the core, or a walk (R143). -/
def State.leaf (s : State) (core : CoreId) (ctx : Nat) (va : Dword) : Except WalkErr Leaf :=
  if !signOk va then .error (.fail 0 8 0 0)
  else
    match s.cached core ctx va with
    | some l => .ok l
    | none => s.walk ctx va

/-- The physical address of a virtual one in its page. -/
def Leaf.pa (l : Leaf) (va : Dword) : Nat := l.base + va.toNat % l.size

/-- How an address is used. -/
inductive Use where
  | read | write | atomic | fetch | waitm
  deriving DecidableEq, Repr

/-- The protection reason an access breaks first, in the order 10, 11, 9, 8, 12 (R430). -/
def protReason (priv : Bool) (u : Use) (l : Leaf) (pa : Nat) : Option Nat :=
  if u = .atomic ∧ inHost pa then some 10
  else if u = .waitm ∧ !inHbm pa then some 11
  else if l.priv ∧ !priv then some 9
  else if (u = .write ∨ u = .atomic) ∧ !l.w then some 8
  else if u = .fetch ∧ !l.x then some 12
  else none

/-! ### Faults as data (R372, R382) -/

/-- A precise fault before its delivery: the code, TREC's DETAIL, bits [31:16] of the record's DETAIL, ADDR
with whether it is physical, INFO0, INFO1 and the beat. `target` marks INFO words that describe a branch target
or a handler entry and not the issuing slot (R394, R459). `time` is the time of an earlier detection. -/
structure FaultInfo where
  code : BitVec 8
  detail : Nat := 0
  hi : Nat := 0
  addr : Option Dword := none
  phys : Bool := false
  info0 : Nat := 0
  info1 : Nat := 0
  beat : Nat := 0
  target : Bool := false
  time : Option Nat := none
  deriving DecidableEq, Repr

/-- A failed translation as a fault (R429, R431). -/
def WalkErr.fault (va : Dword) : WalkErr → FaultInfo
  | .fail level reason e pa =>
    { code := 0x10, hi := level + 8 * reason, addr := some va, info0 := e, info1 := pa }
  | .ecc pa => { code := 0x50, addr := some (BitVec.ofNat 64 pa), phys := true }

/-- A protection fault (R430, R402). -/
def protFault (va : Option Dword) (reason : Nat) : FaultInfo := { code := 0x11, addr := va, info0 := reason }

/-- Translates an address that must be aligned to `al`, and checks its use (R457 item 2). The physical
address and the page's cache type; host memory is CT 1 (R144). -/
def State.transl (s : State) (core : CoreId) (ctx : Nat) (u : Use) (al : Nat) (va : Dword) :
    Except FaultInfo (Nat × Nat) :=
  if !signOk va then .error ((WalkErr.fail 0 8 0 0).fault va)
  else if va.toNat % al != 0 then .error { code := 0x12, addr := some va }
  else
    match s.leaf core ctx va with
    | .error e => .error (e.fault va)
    | .ok l =>
      match protReason (s.ctxPriv ctx) u l (l.pa va) with
      | some r => .error (protFault (some va) r)
      | none => .ok (l.pa va, if inHost (l.pa va) then 1 else l.ct)

/-- Whether every page of `n` bytes from `va` can be used; the first failure otherwise. -/
def State.translRange (s : State) (core : CoreId) (ctx : Nat) (u : Use) (va : Dword) (n : Nat) :
    Except FaultInfo Unit :=
  let first := va.toNat / 4096
  let last := (va.toNat + (n - 1)) / 4096
  (List.range (last + 1 - first)).foldl (fun r i =>
    match r with
    | .error e => .error e
    | .ok _ =>
      let a := if i = 0 then va else BitVec.ofNat 64 ((first + i) * 4096)
      match s.transl core ctx u 1 a with
      | .error e => .error e
      | .ok _ => .ok ()) (.ok ())

end Sys2Proof.Machine
end

