-- ==== Sys2Proof/Machine/Cache.lean ====
section
/-! DEFINITION. Where global accesses perform (spec 06 R149 to R153, 07 R172 to R177, 02 R39 to R43): the
homes, a core's L1, and the write buffers of restartable blocks. -/

namespace Sys2Proof.Machine

/-! ### The homes -/

/-- The context on whose behalf the present step writes (R387). -/
def State.writer (s : State) : Option Nat :=
  match s.cur.who with
  | none => none
  | some r => (s.launches.find? (fun x => x.ref == r)).map (fun x => x.ctx)

/-- Bytes of HBM4 of one die (R144). -/
def hbmDie : Nat := 0x3000000000

/-- Where a physical address of HBM4 is at home (R144): its die, its stack and its slice of the die. -/
def dieOf (pa : Nat) : Nat := pa / hbmDie
def stackOf (pa : Nat) : Nat := 4 * dieOf pa + pa % hbmDie / 128 % 4
def sliceOf (pa : Nat) : Nat := pa % hbmDie / 512 % 64

/-- The set of a slice that holds a line: one of 2,048 (R150; assumption 56). -/
def l2Set (pa : Nat) : Nat × Nat × Nat := (dieOf pa, sliceOf pa, (pa % hbmDie / 32768 * 4 + pa % hbmDie / 128 % 4) % 2048)

/-- The lines of the set that a line of a slice belongs to. -/
def State.l2Ways (s : State) (line : Nat) : List L2Line := s.l2.filter (fun x => l2Set (128 * x.line) == l2Set (128 * line))

/-- A line that the hints let a slice evict: one hinted as a stream, or any when its set holds none (R152). -/
def State.l2Evictable (s : State) (x : L2Line) : Bool := x.stream || (s.l2Ways x.line).all (fun y => !y.stream)

/-- Holds a line in its home slice; a full set of 12 ways first evicts the one longest unused among those that the hints
let it (R150, R152). -/
def State.l2Put (s : State) (x : L2Line) : State :=
  let t := { s with l2 := s.l2.filter (fun y => y.line != x.line) }
  let ways := t.l2Ways x.line
  if ways.length < 12 then { t with l2 := x :: t.l2 }
  else
    match (ways.filter t.l2Evictable).getLast? with
    | none => { t with l2 := x :: t.l2 }
    | some v => { t with l2 := x :: t.l2.filter (fun y => y.line != v.line) }

/-- Whether a slice's copy of a line was hinted as a stream. -/
def State.l2Stream (s : State) (line : Nat) : Bool := (s.l2.find? (fun x => x.line == line)).elim false (fun x => x.stream)

/-- Marks a line as held dirty by its home slice, last written by context `ctx` (R150, R387). -/
def State.touchL2 (s : State) (ctx : Option Nat) (pa : Nat) : State :=
  if inHbm pa then s.l2Put ⟨pa / 128, true, ctx, s.l2Stream (pa / 128)⟩ else s

/-- Fills a line into its home slice, clean unless it stands there (R309, R150). -/
def State.fillL2 (s : State) (pa : Nat) : State :=
  if inHbm pa && !(s.l2.any (fun x => x.line == pa / 128)) then s.l2Put ⟨pa / 128, false, none, false⟩ else s

/-- Notes who wrote bytes at their homes: those of another party count as from outside a launch in record mode, its own
do not (R230 type 4). -/
def Launch.noteWrite (who : Option LaunchRef) (pa n : Nat) (l : Launch) : Launch :=
  if l.mode = 1 then
    { l with ext := (List.range n).foldl (fun t i => Tbl.set false t (pa + i) (who != some l.ref)) l.ext }
  else l

/-- The mask of the `n` bytes at `pa` whose home holds what was written from outside a launch in record mode. -/
def Launch.extMask (l : Launch) (pa n : Nat) : Nat :=
  if l.mode = 1 ∧ !l.ext.isEmpty then
    (List.range n).foldl (fun m i => m + if Tbl.get false l.ext (pa + i) then 2 ^ i else 0) 0
  else 0

/-- Where host memory stands among the physical addresses (R144): host address PA[50:0]. -/
def hostBase : Nat := 2 ^ 51

/-- A device access to host memory is a memory request of the host port (R217; assumption 53). -/
def State.asksHost (s : State) (pa n : Nat) : State :=
  if inHost pa then { s with out := s.out ++ [.hostReads (pa - hostBase) n] } else s

def State.tellsHost (s : State) (pa : Nat) (bytes : List Byte) : State :=
  if inHost pa then { s with out := s.out ++ [.hostWrites (pa - hostBase) bytes] } else s

/-- Bytes stand at a home. A protected word that is wholly written passes its check again (R387). -/
def State.putHome (s : State) (pa : Nat) (bytes : List Byte) : State :=
  let n := bytes.length
  { s with mem := Memory.setBytes s.mem pa bytes,
           badMem := s.badMem.filter (fun w => !decide (pa ≤ 8 * w ∧ 8 * w + 8 ≤ pa + n)),
           launches := s.launches.map (Launch.noteWrite s.cur.who pa n) }.touchL2 s.writer pa

/-- A write of bytes at a home. -/
def State.homeWrite (s : State) (pa : Nat) (bytes : List Byte) : State := (s.putHome pa bytes).tellsHost pa bytes

/-- Protected words among `ws` that bytes at `pas` touch without replacing them whole (R387). -/
def partWords (ws : List Nat) (pas : List Nat) : List Nat :=
  ws.filter (fun w => pas.any (fun a => a / 8 == w) && !(List.range 8).all (fun i => pas.contains (8 * w + i)))

/-- Failing words at the homes that a write of these bytes does not replace whole. -/
def State.partBad (s : State) (pas : List Nat) : List Nat := if s.badMem.isEmpty then [] else partWords s.badMem pas

/-- Cells as runs of bytes that lie together. -/
def cellRuns : List (Nat × Byte) → List (Nat × List Byte)
  | [] => []
  | (a, b) :: cs =>
    match cellRuns cs with
    | [] => [(a, [b])]
    | (m, bs) :: rs => if m = a + 1 then (a, b :: bs) :: rs else (a, [b]) :: (m, bs) :: rs

/-- A write of bytes at their homes. A failing word that it touches in part keeps its stored bits; one that it replaces
whole passes its check again (R387). -/
def State.storeCells (s : State) (cells : List (Nat × Byte)) : State :=
  let pas := cells.map (fun c => c.1)
  let kept := s.partBad pas
  let t := cells.foldl (fun (t : State) (c : Nat × Byte) => if kept.contains (c.1 / 8) then t else t.putHome c.1 [c.2]) s
  let t := if pas.any inHost then (cellRuns cells).foldl (fun t r => t.tellsHost r.1 r.2) t else t
  { t with badMem := t.badMem.filter (fun w => !(List.range 8).all (fun i => pas.contains (8 * w + i))) }

/-- The bytes at addresses from `pa` on as cells. -/
def cellsFrom (pa : Nat) (bytes : List Byte) : List (Nat × Byte) := bytes.mapIdx (fun i b => (pa + i, b))

/-- Notes failures that no consumer reports (R387). -/
def State.noteEcc (s : State) (words : List Nat) : State :=
  { s with eccFail := words.foldl (fun l w => addOnce l (8 * w)) s.eccFail }

/-- A read of bytes at a home. -/
def State.homeRead (s : State) (pa n : Nat) : List Byte := Memory.bytes s.mem pa n

/-! ### L1 -/

/-- The mask of a launch among those of a line. -/
def extOf (exts : List (LaunchRef × BitVec 128)) (l : LaunchRef) : BitVec 128 := (exts.lookup l).getD 0

/-- A mask for each launch in record mode, those of zero left out. -/
def State.extsBy (s : State) (f : Launch → BitVec 128) : List (LaunchRef × BitVec 128) :=
  (s.launches.filter (fun l => l.mode == 1 && f l != 0)).map (fun l => (l.ref, f l))

/-- The masks of a line as its home holds it (R230 type 4). -/
def State.homeExts (s : State) (line : Nat) : List (LaunchRef × BitVec 128) :=
  s.extsBy (fun l => BitVec.ofNat 128 (l.extMask (128 * line) 128))

/-- The masks of a line after a write of some of its bytes on behalf of the present step. -/
def State.markExts (s : State) (exts : List (LaunchRef × BitVec 128)) (mask : BitVec 128) : List (LaunchRef × BitVec 128) :=
  s.extsBy (fun l =>
    if s.cur.who = some l.ref then extOf exts l.ref &&& ~~~mask else extOf exts l.ref ||| mask)

/-- The bytes of a range within its line, as a mask of the line. -/
def lineMask (pa n : Nat) : BitVec 128 := BitVec.ofNat 128 ((2 ^ n - 1) * 2 ^ (pa % 128))

/-- Whether a line is the line of a core. -/
def L1Line.is (c : CoreId) (line : Nat) (x : L1Line) : Bool := x.core == c && x.line == line

/-- A core's copy of a line. -/
def State.l1Find (s : State) (c : CoreId) (line : Nat) : Option L1Line := s.l1.find? (L1Line.is c line)

/-- Drops a core's copy of a line. -/
def State.l1Drop (s : State) (c : CoreId) (line : Nat) : State :=
  { s with l1 := s.l1.filter (fun x => !L1Line.is c line x) }

/-- Replaces a core's copy of a line. -/
def State.l1Put (s : State) (x : L1Line) : State :=
  { s with l1 := x :: (s.l1.filter (fun y => !L1Line.is x.core x.line y)) }

/-- Words of 8 bytes of a line that a byte mask touches. -/
def maskWords (line : Nat) (mask : BitVec 128) : List Nat :=
  ((List.range 16).filter (fun k => mask.extractLsb' (8 * k) 8 != 0)).map (fun k => 16 * line + k)

/-- A line's dirty bytes reach their home: which of them a launch in record mode counts as from outside goes with
them (R230 type 4). -/
def Launch.noteLine (x : L1Line) (l : Launch) : Launch :=
  if l.mode = 1 then
    { l with ext := ((List.range 128).filter x.dirty.getLsbD).foldl (fun t i =>
        Tbl.set false t (128 * x.line + i) ((extOf x.exts l.ref).getLsbD i)) l.ext }
  else l

/-- The bytes of a line whose dirty bit is set, stored to its home in one step (R173). A dirty word that fails
its check goes home failing, and the failure is noted for the line's owner, as is that of a failing word at the home that
the line replaces in part (R387, R435). -/
def State.wbBytes (s : State) (x : L1Line) : State :=
  let cells := ((List.range 128).filter x.dirty.getLsbD).map (fun i =>
    (128 * x.line + i, Memory.byte x.data (128 * x.line + i)))
  let t := { s with cur := { s.cur with who := x.who } }.storeCells cells
  let t := { t with launches := t.launches.map (Launch.noteLine x) }
  let t := if x.dirty = 0 then t else t.touchL2 (some x.ctx) (128 * x.line)
  let bad := (maskWords x.line x.dirty).filter (fun w => x.bad.contains w)
  { t with cur := s.cur, badMem := t.badMem ++ bad.filter (fun w => !t.badMem.contains w) }.noteEcc
    (bad ++ s.partBad (cells.map (fun (c : Nat × Byte) => c.1)))

/-- Writes back a line and leaves it clean (R173). -/
def State.writeBack (s : State) (c : CoreId) (line : Nat) : State :=
  match s.l1Find c line with
  | none => s
  | some x => if x.dirty = 0 then s else (s.wbBytes x).l1Put { x with dirty := 0 }

/-- Writes back every dirty byte of a core's L1 (R176 step 3). -/
def State.writeBackAll (s : State) (c : CoreId) : State :=
  (s.l1.filter (fun x => x.core == c)).foldl (fun t x => t.writeBack c x.line) s

/-- Writes back and invalidates a line. -/
def State.flushLine (s : State) (c : CoreId) (line : Nat) : State := (s.writeBack c line).l1Drop c line

/-- Writes back and invalidates a core's whole L1 (R177). Write buffers are no part of it. -/
def State.flushAll (s : State) (c : CoreId) : State :=
  let t := s.writeBackAll c
  { t with l1 := t.l1.filter (fun x => !(x.core == c)) }

/-- The bytes of a line at its home, as a line's data. -/
def State.lineData (s : State) (line : Nat) : Memory :=
  Memory.setBytes [] (128 * line) (s.homeRead (128 * line) 128)

/-- Lines held by the buffers of the blocks of a core (R39). -/
def State.poolUsed (s : State) (c : CoreId) : Nat :=
  (s.blocks.filter (fun b => b.die == c.die && b.core == c.core)).foldl (fun n b => n + b.wbuf.length) 0

/-- The place of a line in the order of eviction: a stream goes first and a kept line last (R152). -/
def L1Line.place (x : L1Line) : Nat := if x.hint = 1 then 0 else if x.hint = 2 then 2 else 1

/-- The lines of a core's L1 in the set that a line belongs to: one of 128 (R149; assumption 56). -/
def State.l1Ways (s : State) (c : CoreId) (line : Nat) : List L1Line :=
  s.l1.filter (fun x => x.core == c && x.line % 128 == line % 128)

/-- A line that the hints let its set evict. -/
def State.l1Evictable (s : State) (x : L1Line) : Bool := (s.l1Ways x.core x.line).all (fun y => decide (x.place ≤ y.place))

/-- Evicts one of some lines: that longest unused among those that the hints let go first. -/
def State.l1Evict (s : State) (xs : List L1Line) : State :=
  match (xs.filter (fun x => xs.all (fun y => decide (x.place ≤ y.place)))).getLast? with
  | none => s
  | some x => s.flushLine x.core x.line

/-- Makes room for a line in its set of 20 ways, and among the 2,560 lines that cache and buffers share (R39, R149). -/
def State.l1Room (s : State) (c : CoreId) (line : Nat) : State :=
  let ways := s.l1Ways c line
  if 20 ≤ ways.length then s.l1Evict ways
  else
    let own := s.l1.filter (fun x => x.core == c)
    if 2560 ≤ own.length + s.poolUsed c then s.l1Evict own else s

/-- Fills a line into a core's L1 on a miss (R173). -/
def State.l1Fill (s : State) (c : CoreId) (ctx line : Nat) : State :=
  match s.l1Find c line with
  | some _ => s
  | none =>
    let t := (s.l1Room c line).fillL2 (128 * line)
    t.l1Put ⟨c, line, ctx, none, t.lineData line, 0, t.badMem.filter (fun w => w / 16 == line), 0, t.homeExts line⟩

/-- Raises a counter of errors of the telemetry, which saturates (R386). -/
def State.countCorrected (s : State) (k : Nat) : State :=
  { s with plat := { s.plat with
      corrected := Tbl.set 0 s.plat.corrected k (min (Tbl.get 0 s.plat.corrected k + 1) (2 ^ 32 - 1)) } }

/-- A clean line of L1 that holds an error of its own is dropped and filled again from its home, and the error counts as
corrected (R435). Telemetry word 2 counts L1 (R386). -/
def State.l1Clean (s : State) (c : CoreId) (line : Nat) : State :=
  match s.l1Find c line with
  | none => s
  | some x =>
    if x.dirty != 0 || x.bad.all s.badMem.contains then s
    else ((s.l1Drop c line).l1Fill c x.ctx line).countCorrected 2

/-- Gives a line the hint of an access that has performed (R152). DESIGN CHOICE: an access with hint 0 leaves the hint that
an earlier one gave the line (assumption 72). -/
def State.noteHint (s : State) (c : CoreId) (pa : Nat) (h : BitVec 3) : State :=
  { s with l1 := if h = 1 ∨ h = 2 then s.l1.map (fun x => if L1Line.is c (pa / 128) x then { x with hint := h } else x) else s.l1,
           l2 := if h = 4 then s.l2.map (fun x => if x.line = pa / 128 then { x with stream := true } else x) else s.l2 }

/-- The hint of an instruction that bypasses L1: of the codes only 4 acts (R305). -/
def streamHint (h : BitVec 3) : BitVec 3 := if h = 4 then 4 else 0

/-- Gives the lines of some addresses a hint. -/
def State.noteHints (s : State) (c : CoreId) (pas : List Nat) (h : BitVec 3) : State :=
  if h = 0 then s else (pas.map (· / 128)).eraseDups.foldl (fun t l => t.noteHint c (128 * l) h) s

/-- A load that performs in L1 (R172, R173): the line is filled on a miss. -/
def State.l1Load (s : State) (c : CoreId) (ctx pa n : Nat) : List Byte × State :=
  let t := s.l1Fill c ctx (pa / 128)
  match t.l1Find c (pa / 128) with
  | none => (s.homeRead pa n, t)
  | some x => (Memory.bytes x.data pa n, t)

/-- Failing words of a core's copy of a line that a write of `n` bytes replaces in part. -/
def State.l1Part (s : State) (c : CoreId) (pa n : Nat) : List Nat :=
  match s.l1Find c (pa / 128) with
  | none => []
  | some x => if x.bad.isEmpty then [] else partWords x.bad ((List.range n).map (fun i => pa + i))

/-- A store that enters L1 (R172, R173): its bytes stand dirty in the line. A failing word that it replaces in part keeps
its bits (R387). -/
def State.l1Store (s : State) (c : CoreId) (ctx pa : Nat) (bytes : List Byte) : State :=
  let t := s.l1Fill c ctx (pa / 128)
  match t.l1Find c (pa / 128) with
  | none => t
  | some x =>
    let kept := t.l1Part c pa bytes.length
    let cells := (cellsFrom pa bytes).filter (fun z => !kept.contains (z.1 / 8))
    t.l1Put { x with
      data := cells.foldl (fun d z => Memory.setByte d z.1 z.2) x.data
      dirty := cells.foldl (fun m z => m ||| (1#128 <<< (z.1 % 128))) x.dirty
      ctx := ctx
      who := s.cur.who
      exts := t.markExts x.exts (lineMask pa bytes.length)
      bad := x.bad.filter (fun w => !decide (pa ≤ 8 * w ∧ 8 * w + 8 ≤ pa + bytes.length)) }

/-- A load of a group that performs at the home (R172): a copy in L1 is written back and refreshed. DESIGN CHOICE: the read
itself does not put the line into its home slice, which holds what a write, an L1 fill or `PREF` brought (assumption 72). -/
def State.homeLoad (s : State) (c : CoreId) (pa n : Nat) : List Byte × State :=
  match s.l1Find c (pa / 128) with
  | none => (s.homeRead pa n, s.asksHost pa n)
  | some x =>
    let t := s.wbBytes x
    (t.homeRead pa n, t.l1Put { x with data := t.lineData x.line, dirty := 0, exts := t.homeExts x.line,
                                       bad := t.badMem.filter (fun w => w / 16 == x.line) })

/-- The dirty bytes of a core's copy of a line and `n` bytes stored with them reach the home in one step (R172): a failing word
that they replace whole together passes its check again (R387). -/
def State.homeJoin (s : State) (c : CoreId) (pa n : Nat) : State :=
  match s.l1Find c (pa / 128) with
  | none => s
  | some x =>
    let pas := ((List.range 128).filter x.dirty.getLsbD).map (fun i => 128 * x.line + i) ++ (List.range n).map (fun i => pa + i)
    { s with badMem := s.badMem.filter (fun w => !(List.range 8).all (fun i => pas.contains (8 * w + i))) }

/-- Failing words, of the home or of a core's copy of the line, that a store of `n` bytes at the home replaces in part. -/
def State.homePart (s : State) (c : CoreId) (pa n : Nat) : List Nat :=
  (s.homeJoin c pa n).partBad ((List.range n).map (fun i => pa + i)) ++ s.l1Part c pa n

/-- A store of a group that performs at the home (R172): it merges into a copy in L1, and the copy's dirty bytes reach the
home in the same step. A failing word that it replaces in part keeps its bits, at the home and in the copy (R387). -/
def State.homeStore (s : State) (c : CoreId) (pa : Nat) (bytes : List Byte) : State :=
  match s.l1Find c (pa / 128) with
  | none => s.storeCells (cellsFrom pa bytes)
  | some x =>
    let t := ((s.homeJoin c pa bytes.length).wbBytes x).storeCells (cellsFrom pa bytes)
    let kept := s.l1Part c pa bytes.length
    let cells := (cellsFrom pa bytes).filter (fun z => !kept.contains (z.1 / 8))
    t.l1Put { x with data := cells.foldl (fun d z => Memory.setByte d z.1 z.2) x.data
                     dirty := 0
                     exts := t.markExts x.exts (lineMask pa bytes.length)
                     bad := x.bad.filter (fun w => !decide (pa ≤ 8 * w ∧ 8 * w + 8 ≤ pa + bytes.length)) }

/-! ### Write buffers of restartable blocks (R39 to R43) -/

/-- Whether stores of a block enter its write buffer (R40, R42). -/
def Block.buffers (b : Block) : Bool := b.restartable && !b.pinned

/-- The buffered byte of a block at a physical address. -/
def Block.bufByte (b : Block) (pa : Nat) : Option Byte :=
  match b.wbuf.find? (fun w => w.line == pa / 128 && w.mask.getLsbD (pa % 128)) with
  | .none => .none
  | .some w => .some (Memory.byte w.data pa)

/-- Stores bytes of one line into the buffer, for a group and its instruction. -/
def Block.bufStore (b : Block) (pa : Nat) (bytes : List Byte) (src : Nat) (org : Origin) : Block :=
  let old := (b.wbuf.find? (fun w => w.line == pa / 128)).getD ⟨pa / 128, [], 0, false, src, org⟩
  let mask := (List.range bytes.length).foldl (fun m i => m ||| (1#128 <<< (pa % 128 + i))) old.mask
  let new : WLine := ⟨pa / 128, Memory.setBytes old.data pa bytes, mask, old.bad, src, org⟩
  { b with wbuf := b.wbuf.filter (fun w => w.line != pa / 128) ++ [new] }

/-- Whether a store needs a line that the buffer or the pool cannot give (R40): lines held, 512 of a buffer
and 1,536 of a core. -/
def State.bufFull (s : State) (pa : Nat) : Bool :=
  !(s.blk.wbuf.any (fun w => w.line == pa / 128)) &&
    (decide (512 ≤ s.blk.wbuf.length) || decide (1536 ≤ s.poolUsed s.core))

/-- A line that a buffer needs comes from L1's 2,560: one of the cache gives way when none is free (R39, R149). -/
def State.bufRoom (s : State) (pa : Nat) : State :=
  let own := s.l1.filter (fun x => x.core == s.core)
  if !(s.blk.wbuf.any (fun w => w.line == pa / 128)) && decide (2560 ≤ own.length + s.poolUsed s.core) then s.l1Evict own else s

/-- The buffered bytes of a line as cells. -/
def WLine.cells (w : WLine) : List (Nat × Byte) :=
  ((List.range 128).filter w.mask.getLsbD).map (fun i => (128 * w.line + i, Memory.byte w.data (128 * w.line + i)))

/-- A line of the present block's buffer that holds an uncorrectable error (R411). -/
def State.badBuf (s : State) : Option WLine := s.blk.wbuf.find? (fun w => w.bad)

/-- Overlays the buffered bytes of the present block on bytes read elsewhere (R40). -/
def State.overBuf (s : State) (pa : Nat) (bytes : List Byte) : List Byte :=
  if s.blk.wbuf.isEmpty then bytes
  else bytes.mapIdx (fun i x => (s.blk.bufByte (pa + i)).getD x)

end Sys2Proof.Machine
end

