-- ==== Sys2Proof/Machine/Special.lean ====
section
/-! DEFINITION. The special functions 2^a, log2 a, sin 2πa, cos 2πa and tanh a (spec 13 R296, R297): each is
evaluated in fixed point with 320 fraction bits, exact cases apart, and handed on with an odd last bit for the
one rounding. That no operand of FP32, FP16 or BF16 has a value closer than 2^−200 to a rounding boundary is
assumption 3. -/

namespace Sys2Proof.Machine

/-- Fraction bits of the fixed-point evaluation. -/
def fixBits : Nat := 320

def fixOne : Nat := 2 ^ 320

/-- ln 2 and π with 320 fraction bits. -/
def fixLn2 : Nat := 0xb17217f7d1cf79abc9e3b39803f2f6af40f343267298b62d8a0d175b8baafa2be7b876206debac98
def fixPi : Nat := 0x3243f6a8885a308d313198a2e03707344a4093822299f31d0082efa98ec4e6c89452821e638d01377

/-- m × 2^e in fixed point, cut toward zero. -/
def toFix (m : Nat) (e : Int) : Nat :=
  let k := e + 320
  if 0 ≤ k then m * 2 ^ k.toNat else m / 2 ^ (-k).toNat

/-- A fixed-point value that is not exact: one more bit, which is odd. -/
def inexactVal (neg : Bool) (r : Nat) : FVal := .fin neg (2 * r + 1) (-321)

/-- e^y for y in [0, 1): the Taylor series, `k` terms from term `i` on; `t` is the last term. -/
def expTerms (y : Nat) : Nat → Nat → Nat → Nat → Nat
  | 0, _, _, acc => acc
  | k + 1, i, t, acc =>
    let t' := t * y / 2 ^ 320 / i
    expTerms y k (i + 1) t' (acc + t')

/-- 2^f for f in [0, 1) in fixed point; below 2. -/
def exp2Fix (f : Nat) : Nat :=
  min (expTerms (f * fixLn2 / 2 ^ 320) 90 1 fixOne fixOne) (2 * fixOne - 1)

/-- 2^a. -/
def fExp2 : FVal → Exact
  | .nan s => nanOf [.nan s]
  | .inf true => (FVal.zero, {})
  | .inf false => (.inf false, {})
  | .fin n m e =>
    if m = 0 then (FVal.one, {})
    else if 0 ≤ e ∨ m % 2 ^ (-e).toNat = 0 then
      -- an integer power: exact; a large one is beyond every format
      let k : Nat := if 12 < e then 2 ^ 12 else min (roundAt .rz false m e 0).1 (2 ^ 12)
      (.fin false 1 (if n then -(k : Int) else k), {})
    else
      let d := 2 ^ (-e).toNat
      let whole := min (m / d) (2 ^ 12)
      let frac := m % d
      let (i, fr) : Int × Nat := if n then (-(whole : Int) - 1, d - frac) else (whole, frac)
      let fx := toFix fr e
      -- a fraction too small for fixed point still lifts the value above a power of two
      (FVal.scale i (inexactVal false (exp2Fix fx)), {})

/-- ln((1 + z)/(1 − z)) / 2 as a series in z: `k` terms, denominators from `i` in steps of 2. -/
def atanhTerms (z2 : Nat) : Nat → Nat → Nat → Nat → Nat
  | 0, _, _, acc => acc
  | k + 1, i, t, acc => atanhTerms z2 k (i + 2) (t * z2 / 2 ^ 320) (acc + t / i)

/-- log2 of m/2^k for m in [2^k, 2^(k+1)), in fixed point. -/
def log2Fix (m k : Nat) : Nat :=
  let z := (m - 2 ^ k) * fixOne / (m + 2 ^ k)
  2 * atanhTerms (z * z / 2 ^ 320) 110 1 z 0 * 2 ^ 320 / fixLn2

/-- log2 a. -/
def fLog2 : FVal → Exact
  | .nan s => nanOf [.nan s]
  | .inf true => invalidOp
  | .inf false => (.inf false, {})
  | .fin n m e =>
    if m = 0 then (.inf true, { dz := true })
    else if n then invalidOp
    else
      let k := Nat.log2 m
      let top : Int := e + k
      if m = 2 ^ k then (if top < 0 then .fin true top.natAbs 0 else .fin false top.natAbs 0, {})
      else
        let v : Int := top * (fixOne : Int) + (log2Fix m k : Int)
        -- the fixed-point value lies at or below the exact one
        if v < 0 then (inexactVal true (v.natAbs - 1), {}) else (inexactVal false v.natAbs, {})

/-- Alternating series of sine (from i = 2) and cosine (from i = 1): the sum of the terms added and
subtracted; `t` is the last term in magnitude. -/
def trigTerms (x2 : Nat) : Nat → Nat → Bool → Nat → Int → Int
  | 0, _, _, _, acc => acc
  | k + 1, i, s, t, acc =>
    let t' := t * x2 / 2 ^ 320 / (i * (i + 1))
    trigTerms x2 k (i + 2) (!s) t' (if s then acc - t' else acc + t')

/-- sin(θ)/θ and cos θ for θ² in fixed point, both kept below 1. -/
def sincFix (x2 : Nat) : Nat := min (trigTerms x2 45 2 true fixOne fixOne).natAbs (fixOne - 1)
def cosFix (x2 : Nat) : Nat := min (trigTerms x2 45 1 true fixOne fixOne).natAbs (fixOne - 1)

/-- sin(2πt) or cos(2πt) of t = m × 2^e in (0, 1/8]: an inexact magnitude. -/
def sinMag (m : Nat) (e : Int) : FVal :=
  let th := 2 * fixPi * toFix m e / 2 ^ 320
  let s := sincFix (th * th / 2 ^ 320)
  .fin false (2 * (m * (2 * fixPi) * s) + 1) (e - 641)
def cosMag (m : Nat) (e : Int) : FVal :=
  let th := 2 * fixPi * toFix m e / 2 ^ 320
  inexactVal false (cosFix (th * th / 2 ^ 320))

/-- sin(2π x) for x = r/8d turns, 0 ≤ r < 8d, with d = 2^k: by octants. -/
def turnSin (r d : Nat) (e : Int) : FVal :=
  let oct := r / d
  let f := r % d
  let up := sinMag f e
  let dn := sinMag (d - f) e
  let cu := cosMag f e
  let cd := cosMag (d - f) e
  match oct with
  | 0 => up
  | 1 => cd
  | 2 => cu
  | 3 => dn
  | 4 => up.withNeg true
  | 5 => cd.withNeg true
  | 6 => cu.withNeg true
  | _ => dn.withNeg true

/-- sin(2π a), or cos(2π a) when `quarter` shifts the angle by a quarter turn. -/
def fTurn (quarter : Bool) : FVal → Exact
  | .nan s => nanOf [.nan s]
  | .inf _ => invalidOp
  | .fin n m e =>
    -- |a| as a multiple of 1/8d with d = 2^k, taken modulo one turn
    let k := (-e).toNat
    let d := 2 ^ k
    let whole := 8 * d
    let r0 := (if 0 ≤ e then 0 else 8 * m) % whole
    let r := if quarter then (r0 + 2 * d) % whole else r0
    let s := n && !quarter
    if r % (2 * d) = 0 then
      match r / (2 * d) with
      | 0 => (.fin s 0 0, {})
      | 1 => (.fin s 1 0, {})
      | 2 => (.fin s 0 0, {})
      | _ => (.fin (!s) 1 0, {})
    else
      let v := if r % d = 0 then
          -- an odd multiple of an eighth: the root of one half
          let h := sqrtVal 1 (-1)
          if r / d = 5 ∨ r / d = 7 then h.withNeg true else h
        else turnSin r d (-(k : Int) - 3)
      (if s then v.withNeg (!v.neg) else v, {})

def fSin (a : FVal) : Exact := fTurn false a
def fCos (a : FVal) : Exact := fTurn true a

/-- tanh x of a small x: x(1 − x²/3 + 2x⁴/15 − 17x⁶/315 + 62x⁸/2835), below x. -/
def tanhSmall (m : Nat) (e : Int) : FVal :=
  let x := toFix m e
  let x2 := x * x / 2 ^ 320
  let x4 := x2 * x2 / 2 ^ 320
  let x6 := x4 * x2 / 2 ^ 320
  let x8 := x4 * x4 / 2 ^ 320
  let s := min (fixOne + 2 * x4 / 15 + 62 * x8 / 2835 - x2 / 3 - 17 * x6 / 315) (fixOne - 1)
  .fin false (2 * (m * s) + 1) (e - 321)

/-- tanh x of a larger x: 1 − 2/(e^2x + 1). -/
def tanhBig (m : Nat) (e : Int) : FVal :=
  let x := toFix m e
  let y := 2 * x * fixOne / fixLn2
  let i := y / fixOne
  let ex := exp2Fix (y % fixOne) * 2 ^ i
  inexactVal false (min (fixOne - 2 * fixOne * fixOne / (ex + fixOne)) (fixOne - 1))

/-- tanh a. -/
def fTanh : FVal → Exact
  | .nan s => nanOf [.nan s]
  | .inf n => (.fin n 1 0, {})
  | .fin n m e =>
    if m = 0 then (.fin n 0 0, {})
    else
      let top := e + Nat.log2 m
      let v := if top < -40 then tanhSmall m e
        else if 6 ≤ top then inexactVal false (fixOne - 1)
        else tanhBig m e
      (v.withNeg n, {})

end Sys2Proof.Machine
end

