-- ==== Sys2Proof/Machine/Operands.lean ====
section
/-! DEFINITION. Reading every operand form and writing every destination form (spec 04 R85 to R95, 10 R243 to
R248, 12 R268 to R270). -/

namespace Sys2Proof.Machine

/-! ### Reading -/

/-- The FP32 pattern of a float constant (R244). -/
def fltPattern (n : BitVec 4) : Word :=
  match n.toNat with
  | 0 => 0x3F000000
  | 1 => 0x3F800000
  | 2 => 0x40000000
  | 3 => 0x40800000
  | 4 => 0xBF000000
  | 5 => 0xBF800000
  | 6 => 0xC0000000
  | 7 => 0xC0800000
  | 8 => 0x3E800000
  | 9 => 0x7F800000
  | 10 => 0xFF800000
  | 11 => 0x7FC00000
  | 12 => 0x7F7FFFFF
  | 13 => 0x00800000
  | 14 => 0x3E22F983
  | _ => 0x3F317218

/-- The bits of a float constant in a format: its value rounded with RNE; the largest finite and the
smallest normal are the format's own (R244). -/
def fltBits (f : FFmt) (n : BitVec 4) : Nat :=
  match n.toNat with
  | 12 => f.maxBits
  | 13 => 2 ^ f.fb
  | 14 => (rne f (quot false 1 320 (2 * fixPi) 0)).bits
  | 15 => (rne f (.fin false (2 * fixLn2 + 1) (-321))).bits
  | _ => (rne f (unpack .f32 (fltPattern n).toNat)).bits

/-- A 32-bit source in a lane, read as an integer or as bits (R243, R244). -/
def Group.read (g : Group) (o : Opnd) (l : Nat) : Word :=
  match o with
  | .v n => (g.vreg n.toNat).read l
  | .s n => g.sreg n.toNat
  | .o n => (g.oreg n.toNat).read l
  | .lt0 => g.lt0.lo.read l
  | .lt1 => g.lt1.lo.read l
  | .zero => 0
  | .lane => BitVec.ofNat 32 l
  | .quad => BitVec.ofNat 32 (l / 4)
  | .int n => BitVec.ofInt 32 (Opnd.intVal n)
  | .flt n => fltPattern n
  | .bad _ => 0

/-- A 64-bit source in a lane: the even register holds the low half (R86, R243, R244). DESIGN CHOICE: a float constant read
as a 64-bit integer is its FP32 pattern extended with zeros (assumption 74). -/
def Group.read64 (g : Group) (o : Opnd) (l : Nat) : Dword :=
  match o with
  | .v n => (g.vreg (n.toNat + 1)).read l ++ (g.vreg n.toNat).read l
  | .s n => g.sreg (n.toNat + 1) ++ g.sreg n.toNat
  | .o n => (g.oreg (n.toNat + 1)).read l ++ (g.oreg n.toNat).read l
  | .lt0 => g.lt0.hi.read l ++ g.lt0.lo.read l
  | .lt1 => g.lt1.hi.read l ++ g.lt1.lo.read l
  | .int n => BitVec.ofInt 64 (Opnd.intVal n)
  | o => (g.read o l).setWidth 64

/-- Word `i` of a register group in a lane; ZERO supplies zeros (R302). -/
def Group.readN (g : Group) (o : Opnd) (i l : Nat) : Word :=
  match o with
  | .v n => (g.vreg (n.toNat + i)).read l
  | .s n => g.sreg (n.toNat + i)
  | .o n => (g.oreg (n.toNat + i)).read l
  | o => if i = 0 then g.read o l else ((g.read64 o l).extractLsb' 32 32)

/-- `n` words of data of a lane as one number, the lowest register lowest (R302). -/
def Group.data (g : Group) (o : Opnd) (n l : Nat) : Nat :=
  if n = 2 then (g.read64 o l).toNat
  else
    match o with
    | .zero => 0
    | o => (List.range n).foldr (fun i a => (g.readN o i l).toNat + 2 ^ 32 * a) 0

/-- A scalar, constant or ZERO read once: the value lane 0 reads. -/
def Group.once (g : Group) (o : Opnd) : Word := g.read o 0
/-- A 64-bit scalar pair read once. -/
def Group.once64 (g : Group) (o : Opnd) : Dword := g.read64 o 0

/-! ### Source modifiers (R246) -/

/-- Modifiers of an integer at width `w`: absolute first, then negation, both wrapped. -/
def intMod (w : Nat) (neg abs : Bool) (x : BitVec w) : BitVec w :=
  let y := if abs && x.msb then -x else x
  if neg then -y else y

/-- Modifiers of a 32-bit integer at the width of its type; the bits above are dropped. -/
def intModT (t : ITy) (neg abs : Bool) (x : Word) : Word :=
  (intMod (ITy.width t) neg abs (x.setWidth (ITy.width t))).setWidth 32

/-- Modifiers of a float's bits: absolute clears the sign, negate inverts it. -/
def fltMod (f : FFmt) (neg abs : Bool) (x : Nat) : Nat :=
  let sb := 2 ^ (f.eb + f.fb)
  let y := if abs then x % sb else x
  if neg then (if y < sb then y + sb else y - sb) else y

/-- A source of modifiers: a source with its two bits. -/
structure Src where
  o : Opnd
  neg : Bool := false
  abs : Bool := false
  deriving DecidableEq, Repr

end Sys2Proof.Machine

namespace Sys2Proof

/-- Source A with its modifiers. -/
def Mods.a (m : Mods) (o : Opnd) : Machine.Src := ⟨o, m.negA, m.absA⟩
/-- Source B with its modifiers. -/
def Mods.b (m : Mods) (o : Opnd) : Machine.Src := ⟨o, m.negB, m.absB⟩
/-- Source C with its modifiers. -/
def Mods.c (m : Mods) (o : Opnd) : Machine.Src := ⟨o, m.negC, m.absC⟩

end Sys2Proof

namespace Sys2Proof.Machine

/-- rd(x) of R269: a modified source as an integer of its type. -/
def Group.int (g : Group) (t : ITy) (x : Src) (l : Nat) : Int := ITy.rd t (intModT t x.neg x.abs (g.read x.o l))
/-- A modified 32-bit source as a word. -/
def Group.word (g : Group) (x : Src) (l : Nat) : Word := intMod 32 x.neg x.abs (g.read x.o l)
/-- A modified 64-bit source. -/
def Group.dword (g : Group) (x : Src) (l : Nat) : Dword := intMod 64 x.neg x.abs (g.read64 x.o l)

/-! ### Floats (R285) -/

/-- The format of a float type's elements. -/
def fmtOf : FTy → FFmt
  | .f32 => .f32
  | .f64 => .f64
  | .h2 => .f16
  | .b2 => .bf16

/-- Index of a float format in GMR; FP64 takes FP32's mode (R113). -/
def fmtIdx : FTy → Nat
  | .f32 | .f64 => 0
  | .h2 => 1
  | .b2 => 2

/-- The rounding mode and the SAT bit of a float result (R113, R285). -/
def Group.fmode (g : Group) (t : FTy) : RMode := gmrMode g.gmr (fmtIdx t)
def Group.fsat (g : Group) (t : FTy) : Bool := t != .f64 && gmrSat g.gmr (fmtIdx t)

/-- The bits of element `e` of a float source, unmodified (R112, R244). -/
def Group.fbits0 (g : Group) (t : FTy) (o : Opnd) (e l : Nat) : Nat :=
  match o with
  | .int n =>
    let k := Opnd.intVal n
    (rne (fmtOf t) (.fin (decide (k < 0)) k.natAbs 0)).bits
  | .flt n => fltBits (fmtOf t) n
  | o =>
    match t with
    | .f64 => (g.read64 o l).toNat
    | .f32 => (g.read o l).toNat
    | _ => (g.read o l).toNat / 2 ^ (16 * e) % 2 ^ 16

/-- The bits of a modified float source. -/
def Group.fbits (g : Group) (t : FTy) (x : Src) (e l : Nat) : Nat :=
  fltMod (fmtOf t) x.neg x.abs (g.fbits0 t x.o e l)

/-- The value of a modified float source. -/
def Group.flt (g : Group) (t : FTy) (x : Src) (e l : Nat) : FVal := unpack (fmtOf t) (g.fbits t x e l)

/-! ### Tags (R93, R94) -/

/-- A source that is uniform by its kind: scalar, constant, ZERO or U register. -/
def Group.isU (g : Group) (o : Opnd) : Bool :=
  match o with
  | .s _ | .zero | .int _ | .flt _ => true
  | .v n => match g.vreg n.toNat with
    | .u _ => true
    | _ => false
  | _ => false

/-- A 64-bit source that is uniform: both registers of its pair. -/
def Group.isU64 (g : Group) (o : Opnd) : Bool :=
  g.isU o && match o with
    | .v n => match g.vreg (n.toNat + 1) with
      | .u _ => true
      | _ => false
    | _ => true

/-- Base and stride of a U or A source; LANE has base 0 and stride 1 (R94). -/
def Group.affine (g : Group) (o : Opnd) : Option (Word × Word) :=
  match o with
  | .lane => some (0, 1)
  | .v n => match g.vreg n.toNat with
    | .u w => some (w, 0)
    | .a b s => some (b, s)
    | .g _ => none
  | .s _ | .zero | .int _ | .flt _ => some (g.read o 0, 0)
  | _ => none

/-- The register that an affine result gives: U when the stride is 0 (R93). -/
def affineReg (b s : Word) : VReg := if s = 0 then .u b else .a b s

/-- The tag a full lane-wise instruction gives when every source is uniform (R93). -/
def tagU (uniform : Bool) (val : Nat → Word) : Option VReg := if uniform then some (.u (val 0)) else none

/-! ### Writing -/

/-- The lowest-numbered lane of a set (R87). -/
def lowest (lanes : Nat → Bool) : Option Nat := (lanesOf lanes).head?

/-- Writes a 32-bit result of classes 0x0 to 0x6 to D: a vector or operand-file register and the latches, the
latches alone, or a scalar once (R87, R89, R90). -/
def State.write (s : State) (lanes : Nat → Bool) (d : Opnd) (val : Nat → Word) (full : Option VReg) : State :=
  match d with
  | .v n => (s.modGrp (fun g => g.setV n.toNat ((g.vreg n.toNat).write lanes val full))).latch lanes val none
  | .o n => (s.modGrp (fun g => g.setO n.toNat ((g.oreg n.toNat).write lanes val none))).latch lanes val none
  | .lt0 => (s.latch lanes val none).modGrp (fun g => { g with latchOnly := 3 })
  | .s n =>
    match lowest lanes with
    | none => s
    | some l => s.modGrp (fun g => g.setS n.toNat (val l))
  | _ => s

/-- The low and the high half of a 64-bit result. -/
def loOf (val : Nat → Dword) (l : Nat) : Word := (val l).extractLsb' 0 32
def hiOf (val : Nat → Dword) (l : Nat) : Word := (val l).extractLsb' 32 32

/-- Writes a 64-bit result of classes 0x0 to 0x6 to the pair D; both tags are U when `uniform` (R93). -/
def State.write64 (s : State) (lanes : Nat → Bool) (d : Opnd) (val : Nat → Dword) (uniform : Bool) : State :=
  let lo := loOf val
  let hi := hiOf val
  match d with
  | .v n =>
    (s.modGrp (fun g =>
      (g.setV n.toNat ((g.vreg n.toNat).write lanes lo (tagU uniform lo))).setV (n.toNat + 1)
        ((g.vreg (n.toNat + 1)).write lanes hi (tagU uniform hi)))).latch lanes lo (some hi)
  | .o n =>
    (s.modGrp (fun g =>
      (g.setO n.toNat ((g.oreg n.toNat).write lanes lo none)).setO (n.toNat + 1)
        ((g.oreg (n.toNat + 1)).write lanes hi none))).latch lanes lo (some hi)
  | .lt0 => (s.latch lanes lo (some hi)).modGrp (fun g => { g with latchOnly := 3 })
  | .s n =>
    match lowest lanes with
    | none => s
    | some l => s.modGrp (fun g => g.setSpair n.toNat (val l))
  | _ => s

/-- Writes a predicate in the lanes that execute (R268). -/
def State.writeP (s : State) (lanes : Nat → Bool) (p : PField) (val : Nat → Bool) : State :=
  s.modGrp (fun g => g.setP p.num lanes val)

/-- Writes a scalar. -/
def State.writeS (s : State) (d : Opnd) (w : Word) : State :=
  match d with
  | .s n => s.modGrp (fun g => g.setS n.toNat w)
  | _ => s

/-- Writes a scalar pair. -/
def State.writeS64 (s : State) (d : Opnd) (w : Dword) : State :=
  match d with
  | .s n => s.modGrp (fun g => g.setSpair n.toNat w)
  | _ => s

/-- Raises GMR's sticky flags (R100). -/
def State.raise (s : State) (f : Flags) : State := s.modGrp (fun g => { g with gmr := g.gmr ||| f.gmr })

/-- The OR of the flags of the lanes named (R100). -/
def orFlags (lanes : List Nat) (f : Nat → Flags) : Flags := lanes.foldl (fun a l => a.or (f l)) {}

end Sys2Proof.Machine
end

