-- ==== Sys2Proof/Machine/Ops.lean ====
section
/-! DEFINITION. The named operations every meaning is built from: ending an issue, waiting, accesses of the
device in a context, fault records, TAKING A FAULT and returning from its handler (spec 02 R26, R46 to R49; 03
R76; 19 R372 to R384; 20 R459). -/

namespace Sys2Proof.Machine

/-! ### Ending an issue -/

/-- The number of a core. -/
def coreKey (c : CoreId) : Nat := 256 * c.die + c.core

/-- The place of an active group in the rounds of steady mode: launch sequence number, then slot (R84, note (c) of
R19). -/
def Block.roundKey (b : Block) (slot : Nat) : Nat := 8 * (64 * b.ref.launch.seq + b.ref.launch.queue % 64) + slot

/-- In steady mode the round passes on to the place after the group's (R84). -/
def State.passRound (s : State) : State :=
  if s.blk.steady then
    { s with rounds := Tbl.set 0 s.rounds (coreKey s.core) (s.blk.roundKey (s.grp.active.getD 0) + 1) }
  else s

/-- The end of an issue (R26, R90, R249): each quad of the set takes the issue's number as its stamp and the
PC `pcs` gives it; the group has made one issue more, and the registers it wrote whole pass their check again (R387). -/
def State.finTo (s : State) (h : Hdr) (pcs : Nat → Dword → Dword) : State :=
  let n := s.grp.issues
  let beats := s.beats.length
  (s.modQuads s.cur.quads (fun i q => { q with pc := pcs i q.pc, stamp := n })).modGrp (fun g =>
    ({ g with
        issues := n + 1
        latchOnly := g.latchOnly - 1
        lastIssue := s.clock
        stallUntil := s.clock + max 1 h.stall.toNat
        yielded := h.yield
        swapped := false
        resumed := false
        owed := s.cur.owes ++ g.owed
        badRegs := g.badRegs.filter (fun r => !s.cur.renew.contains r)
        part := none
        wait := .ready } : Group).bump 3 1 |>.bump 4 beats |>.bump 5 (if s.cur.paired then 1 else 0) |>.bump 7 s.cur.delay)
    |>.passRound

/-- The end of an issue that falls through to the next slot (R235). -/
def State.fin (s : State) (h : Hdr) : State := s.finTo h (fun _ p => pcNext p)

/-- A wait on a line's pending count that goes on: the time of R433 runs on. -/
def GWait.sameCount : GWait → GWait → Bool
  | .lineEmpty ls, .lineEmpty (l :: _) | .lineFull ls, .lineFull (l :: _) => ls.contains l
  | _, _ => false

/-- The wait of a swap-point instruction that a handler interrupt may break (R47, R48). -/
def GWait.interruptible : GWait → Bool
  | .path .. | .memWord .. | .memHit .. | .phase .. | .quiet => true
  | .release _ swap => swap
  | _ => false

/-- The wait as an instruction takes it up again: a release begins with its first step, and a `WAITM` translates its
address again. -/
def GWait.again : GWait → GWait
  | .release _ swap => .release false swap
  | .memWord .. => .ready
  | w => w

/-- The group waits at its instruction, which has not executed (R70, R76). A wait that a handler may interrupt
counts as the issue that R49 asks for after a return (assumption 29). -/
def State.waitFor (s : State) (w : GWait) : State :=
  s.modGrp (fun g =>
    { g with
        wait := w
        waitSince := if g.wait = w ∨ g.wait.sameCount w then g.waitSince else s.time
        resumed := g.resumed && !w.interruptible
        tried := s.clock })

/-- A swap point: the operand file and the latches die, once for the instruction (R88, R91). -/
def State.swapPoint (s : State) : State :=
  if s.grp.swapped then s else s.killShort.modGrp (fun g => { g with swapped := true })

/-- The origin of what the present instruction issues. -/
def State.origin (s : State) : Origin := ⟨s.cur.pc, s.cur.quads⟩

/-! ### What leaves the device -/

/-- Sends something to the outside. -/
def State.emit (s : State) (o : Out) : State := { s with out := s.out ++ [o] }

/-- What a byte of the MSI-X table reads as at reset: PCI Express resets every entry masked (assumption 9). -/
def msixInit (off : Nat) : Byte := if off % 16 = 12 then 1 else 0

/-- A byte of the MSI-X table; the state lists it against its reset value. -/
def State.msixByte (s : State) (off : Nat) : Byte := Memory.byte s.mgmt.msixTable off ^^^ msixInit off

/-- Sends an MSI-X vector, or sets its pending bit when its table entry is masked (R220; assumption 9). -/
def State.msi (s : State) (v : Nat) : State :=
  if (s.msixByte (16 * v + 12)).getLsbD 0 then
    { s with mgmt := { s.mgmt with msixPending := Tbl.set false s.mgmt.msixPending v true } }
  else s.emit (.msi v)

/-! ### Accesses of the device in a context -/

/-- The translation caches of the device's own engines: none, so that every access walks. -/
def devCore : CoreId := ⟨4, 0⟩

/-- The homes of bytes read in a context, those that have one. -/
def State.ctxPas (s : State) (ctx : Nat) (va : Dword) (n : Nat) : List Nat :=
  (List.range n).filterMap (fun i => match s.transl devCore ctx .read 1 (va + BitVec.ofNat 64 i) with
    | .error _ => none
    | .ok (pa, _) => some pa)

/-- A read of bytes at these addresses asks the host for those that lie in its memory (R217). -/
def State.asksPas (s : State) (pas : List Nat) : State :=
  (cellRuns ((pas.filter inHost).map (fun a => (a, (0 : Byte))))).foldl (fun t r => t.asksHost r.1 r.2.length) s

/-- A walk of an address that no cache of the core translates asks the host for what it reads of its memory (R217). -/
def State.asksWalk (s : State) (core : CoreId) (ctx : Nat) (va : Dword) : State :=
  if signOk va && (s.cached core ctx va).isNone then s.asksPas (s.walkBytes ctx va) else s

/-- The pages of 4 KiB that bytes from an address on touch, each by an address in it. -/
def pagesOf (va : Dword) (n : Nat) : List Dword :=
  if n = 0 then []
  else (List.range ((va.toNat % 4096 + n + 4095) / 4096)).map (fun i =>
    if i = 0 then va else BitVec.ofNat 64 (va.toNat / 4096 * 4096 + 4096 * i))

/-- The walks of the device's own accesses to bytes in a context ask the host for what they read of its memory (R217). -/
def State.asksWalks (s : State) (ctx : Nat) (va : Dword) (n : Nat) : State :=
  (pagesOf va n).foldl (fun t a => t.asksWalk devCore ctx a) s

/-- The device reads bytes in a context: the requests to the host that this makes, those of the walks first (R217). -/
def State.asksCtx (s : State) (ctx : Nat) (va : Dword) (n : Nat) : State := (s.asksWalks ctx va n).asksPas (s.ctxPas ctx va n)

/-- Reads bytes in a context at their homes; none when the access fails translation, protection or ECC. -/
def State.ctxRead (s : State) (ctx : Nat) (va : Dword) : Nat → Except FaultInfo (List Byte)
  | 0 => .ok []
  | n + 1 =>
    match s.transl devCore ctx .read 1 va with
    | .error e => .error e
    | .ok (pa, _) =>
      if s.badAt pa 1 then .error { code := 0x50, addr := some (BitVec.ofNat 64 pa), phys := true }
      else
        match s.ctxRead ctx (va + 1) n with
        | .error e => .error e
        | .ok bs => .ok (Memory.byte s.mem pa :: bs)

/-- A little-endian number read in a context. -/
def State.ctxNat (s : State) (ctx : Nat) (va : Dword) (n : Nat) : Except FaultInfo Nat :=
  (s.ctxRead ctx va n).map leNat

/-- The homes of bytes written in a context, each where its page lies, and the first failure. -/
def State.ctxHomes (s : State) (ctx : Nat) (va : Dword) : Nat → List (Option Nat) × Option FaultInfo
  | 0 => ([], none)
  | n + 1 =>
    let (pas, e) := s.ctxHomes ctx (va + 1) n
    match s.transl devCore ctx .write 1 va with
    | .error f => (none :: pas, some f)
    | .ok (pa, _) => (some pa :: pas, e)

/-- Whether bytes can be written in a context: translation and protection, then a failing word that they would replace
in part (R387). -/
def State.ctxCheck (s : State) (ctx : Nat) (va : Dword) (n : Nat) : Except FaultInfo Unit :=
  match s.ctxHomes ctx va n with
  | (_, some e) => .error e
  | (pas, none) =>
    match s.partBad (pas.filterMap id) with
    | w :: _ => .error { code := 0x50, addr := some (BitVec.ofNat 64 (8 * w)), phys := true }
    | [] => .ok ()

/-- Stores bytes in a context at their homes; those that have none, or that a failing word keeps, are not stored. -/
def State.ctxStore (s : State) (ctx : Nat) (va : Dword) (bs : List Byte) : State :=
  s.storeCells (((s.ctxHomes ctx va bs.length).1.zip bs).filterMap (fun x => x.1.map (fun pa => (pa, x.2))))

/-- Writes bytes in a context, all or none. -/
def State.ctxWrite (s : State) (ctx : Nat) (va : Dword) (bs : List Byte) : Except FaultInfo State :=
  match s.ctxCheck ctx va bs.length with
  | .error e => .error e
  | .ok _ => .ok ((s.asksWalks ctx va bs.length).ctxStore ctx va bs)

/-! ### Fault records (R381, R382, R462) -/

/-- LAUNCHID of a launch (R56). -/
def launchId (l : LaunchRef) : Word := BitVec.ofNat 32 (l.queue % 64 * 2 ^ 24 + l.seq % 2 ^ 24)

/-- The parts of a fault record that its fault gives; `time` where it was detected before the record is made. -/
structure FaultRec where
  code : BitVec 8
  scope : Nat
  launch : Word := 0
  block : Nat := 0
  group : Nat := 0
  die : Nat := 0
  core : Nat := 0
  pc : Option Dword := none
  quads : QuadMask := 0
  beat : Nat := 0
  imprec : Bool := false
  detail : Nat := 0
  hi : Nat := 0
  addr : Option Dword := none
  phys : Bool := false
  info0 : Nat := 0
  info1 : Nat := 0
  time : Option Nat := none
  deriving DecidableEq, Repr

/-- The 64 bytes of a fault record (R382). -/
def FaultRec.bytes (r : FaultRec) (time : Nat) : List Byte :=
  let rflags := (if r.pc.isSome then 1 else 0) + (if r.addr.isSome then 2 else 0) + (if r.imprec then 4 else 0) +
    (if r.phys then 8 else 0)
  leBytes r.code.toNat 1 ++ leBytes r.scope 1 ++ leBytes rflags 2 ++ leBytes r.launch.toNat 4 ++
    leBytes r.block 4 ++ leBytes r.group 1 ++ leBytes r.die 1 ++ leBytes r.core 2 ++
    leBytes (r.pc.getD 0).toNat 8 ++ leBytes (r.quads.toNat + 2 ^ 24 * r.beat) 4 ++
    leBytes (r.detail % 2 ^ 16 + 2 ^ 16 * r.hi) 4 ++ leBytes (r.addr.getD 0).toNat 8 ++ leBytes time 8 ++
    leBytes r.info0 8 ++ leBytes r.info1 8

/-- A record was lost: the context's saturating count rises (R462). -/
def State.loseRecord (s : State) (ctx : Nat) : State :=
  let c := s.ctx ctx
  s.setCtx ctx { c with lost := min (c.lost + 1) (2 ^ 32 - 1) }

/-- Sends the vector of a fault queue header (R381). -/
def State.faultMsi (s : State) (msi : Nat) : State := if 2 ^ 15 ≤ msi then s.msi (msi % 2 ^ 11) else s

/-- Raises TAIL or DROPPED of a fault queue; a word that cannot be written keeps its value and the record
counts as lost (R462). -/
def State.raiseWord (s : State) (ctx : Nat) (va : Dword) (v : Nat) : State :=
  match s.ctxWrite ctx va (leBytes (v + 1) 8) with
  | .ok t => t
  | .error _ => s.loseRecord ctx

/-- Writes one fault record to a context's fault queue, whose header the device reads for it (R217, R381, R462). -/
def State.faultRecord (s : State) (ctx : Nat) (r : FaultRec) : State :=
  let q := s.faultQ ctx
  if q = 0 then s.loseRecord ctx
  else
    match s.ctxRead ctx q 0x28 with
    | .error _ => s.loseRecord ctx
    | .ok h =>
      let s := s.asksCtx ctx q 0x28
      let at_ (o n : Nat) : Nat := leNat ((h.drop o).take n)
      let size := 2 ^ at_ 8 1
      let tail := at_ 0x10 8
      let msi := at_ 0x0A 2
      if (tail + 2 ^ 64 - at_ 0x18 8) % 2 ^ 64 = size then
        (s.raiseWord ctx (q + 0x20) (at_ 0x20 8)).faultMsi msi
      else
        match s.ctxWrite ctx (BitVec.ofNat 64 (at_ 0 8 + 64 * (tail % size))) (r.bytes (r.time.getD s.time)) with
        | .error _ => ((s.raiseWord ctx (q + 0x20) (at_ 0x20 8)).loseRecord ctx).faultMsi msi
        | .ok t => (t.raiseWord ctx (q + 0x10) tail).faultMsi msi

/-! ### Launches named by faults (R384) -/

/-- Changes a launch. -/
def State.modLaunch (s : State) (l : LaunchRef) (f : Launch → Launch) : State :=
  { s with launches := s.launches.map (fun x => if x.ref = l then f x else x) }

def State.launch? (s : State) (l : LaunchRef) : Option Launch := s.launches.find? (fun x => x.ref == l)

/-- The completion status takes the code of the first fault that names the launch (R384). -/
def State.noteStatus (s : State) (l : LaunchRef) (code : Nat) : State :=
  s.modLaunch l (fun x => { x with status := x.status <|> some code })

/-! ### Halting a block (R380) -/

/-- Which of two reasons to halt stands: an end and a fault outrank a pre-emption (R380, R384). -/
def HaltWhy.rank : HaltWhy → Nat
  | .priority => 0
  | .context _ => 1
  | .fault => 2
  | .broken => 3
  | .ended => 4

/-- A halt is asked of a block, for the weightier of two reasons. -/
def State.askHalt (s : State) (why : HaltWhy) (b : Block) : Block :=
  match b.halting with
  | none => { b with halting := some why, haltSince := s.time, haltClock := s.clock, overdue := false }
  | some w => { b with halting := some (if w.rank < why.rank then why else w) }

/-- Requests a halt of the present block. -/
def State.requestHalt (s : State) (why : HaltWhy) : State := s.modBlk (s.askHalt why)

/-- A fault sends the present block to a block halt: its record is written, the launch's status noted, and
the block is held once saved (R380, R381). -/
def State.faultHalt (s : State) (r : FaultRec) : State :=
  let b := s.blk
  let t := s.faultRecord b.ctx
    { r with scope := 0, launch := launchId b.ref.launch, block := b.ref.block, group := s.grp.num,
             die := b.die, core := b.core }
  (((t.noteStatus b.ref.launch r.code.toNat).requestHalt .fault).modBlk (fun b => { b with held := true })).modGrp
    (fun g => { g with lastIssue := s.clock })

/-! ### Fetch (R232, R393 steps 1 and 2) -/

/-- A fetched slot: its word, the line word, and the fault of steps 1 and 2 when one fails. -/
structure Slot where
  word : BitVec 96
  line : Word
  fault : Option FaultInfo
  deriving DecidableEq, Repr

/-- VALID, TARGET, PAIR and PARITY of slot `j` (R232). -/
def lineValid (w : Word) (j : Nat) : Bool := w.getLsbD (14 + j)
def lineTarget (w : Word) (j : Nat) : Bool := w.getLsbD (9 + j)
def linePair (w : Word) (j : Nat) : Bool := decide (j < 4) && w.getLsbD (5 + j)
def lineParity (w : Word) (j : Nat) : Bool := w.getLsbD j

/-- The number of ones among the first `n` bits of a word. -/
def onesOf (w : BitVec 96) : Nat → Nat
  | 0 => 0
  | n + 1 => (if w.getLsbD n then 1 else 0) + onesOf w n

/-- Even parity of a slot with its PARITY bit (R233). -/
def parityOk (w : BitVec 96) (p : Bool) : Bool := (onesOf w 96 + (if p then 1 else 0)) % 2 == 0

/-- INFO0 and INFO1 of a slot and its line word (R394). -/
def slotInfo (f : FaultInfo) (w : BitVec 96) (line : Word) : FaultInfo :=
  { f with info0 := w.toNat % 2 ^ 64, info1 := w.toNat / 2 ^ 64 + 2 ^ 32 * line.toNat }

/-- The lowest reserved bit set in a line word (R232, R394). -/
def lineReserved (w : Word) : Option Nat := ((List.range 13).map (· + 19)).find? (fun i => w.getLsbD i)

/-- A PC that names no slot: PC[5:3] not zero or PC[2:0] above 4 (R235, R397). -/
def pcMalformed (pc : Dword) : Bool := pc.extractLsb' 3 3 != 0 || decide (4 < pcSlot pc)

/-- Step 2 of R393 on a slot: its parity, then the reserved bits of the line word (assumption 12). A slot whose VALID bit
is clear is checked too (R233). -/
def step2 (w : BitVec 96) (line : Word) (j : Nat) : Option FaultInfo :=
  if !parityOk w (lineParity line j) then some { code := 0x05, hi := j }
  else (lineReserved line).map (fun i => { code := 0x02, hi := 96 + i })

/-- Fetches the slot a PC names and makes the checks of steps 1 and 2 (R393). Code is read at its home. A
malformed PC, which only a rewritten trap record can bring, is no branch target (assumption 13). -/
def State.fetch (s : State) (core : CoreId) (ctx : Nat) (pc : Dword) : Slot :=
  if pcMalformed pc then ⟨0, 0, some { code := 0x04, hi := 7, addr := some pc }⟩
  else
    match s.transl core ctx .fetch 1 (pcLine pc) with
    | .error e => ⟨0, 0, some e⟩
    | .ok (pa, _) =>
      if s.badAt pa 64 then ⟨0, 0, some { code := 0x50, addr := some (BitVec.ofNat 64 pa), phys := true }⟩
      else
        let w : BitVec 96 := BitVec.ofNat 96 (s.phys (pa + 12 * pcSlot pc) 12)
        let line : Word := BitVec.ofNat 32 (s.phys (pa + 60) 4)
        ⟨w, line, step2 w line (pcSlot pc)⟩

/-- The check of a target PC (R397): none when a transfer may land there. `entry` is the check of a handler
entry (R459), whose INFO words always describe the entry slot; a branch without a TARGET bit reports its own slot
(R394). -/
def State.checkTarget (s : State) (entry : Bool) (pc : Dword) : Option FaultInfo :=
  if pcMalformed pc || !signOk pc then some { code := 0x04, hi := 7, addr := some pc }
  else
    let f := s.fetch s.core s.blk.ctx pc
    match f.fault with
    | some e =>
      if e.code = 0x05 ∨ e.code = 0x02 then
        some { slotInfo e f.word f.line with addr := some pc, target := true }
      else some { e with addr := some pc, phys := false, target := true }
    | none =>
      if lineTarget f.line (pcSlot pc) then none
      else if entry then
        some { slotInfo { code := 0x04, hi := pcSlot pc } f.word f.line with addr := some pc, target := true }
      else some { code := 0x04, hi := pcSlot pc, addr := some pc }

/-- For codes 0x01 to 0x05 INFO0 and INFO1 hold the issuing slot and its line word (R394). -/
def State.ownSlot (s : State) (e : FaultInfo) : FaultInfo :=
  if 1 ≤ e.code.toNat ∧ e.code.toNat ≤ 5 ∧ !e.target then
    let f := s.fetch s.core s.blk.ctx s.cur.pc
    slotInfo e f.word f.line
  else e

/-! ### Taking a fault -/

/-- TREC0 to TREC3 of a fault (R378). -/
def State.writeTrec (s : State) (code : BitVec 8) (detail : Nat) (imprec : Bool) (org : Origin) (beat : Nat) : State :=
  s.modGrp (fun g => { g with
    trec0 := BitVec.ofNat 16 detail ++ (0#6 ++ BitVec.ofBool imprec ++ 1#1) ++ code
    trec1 := 0#6 ++ BitVec.ofNat 2 beat ++ org.quads
    trec2 := org.pc.extractLsb' 0 32
    trec3 := org.pc.extractLsb' 32 32 })

/-- The handler entry PC: ENTRY + 64 × HVEC[31:6] at slot HVEC[2:0] (R102). -/
def State.handlerPc (s : State) : Dword :=
  s.blk.entry + ((s.grp.hvec.extractLsb' 6 26).setWidth 64) * 64 + (s.grp.hvec.extractLsb' 0 3).setWidth 64

/-- The frame that handler entry saves (R47, R108). -/
def Group.frameOf (g : Group) : Frame where
  pcs := g.quads.map (fun q => q.pc)
  stamps := g.quads.map (fun q => q.stamp)
  waits := g.quads.map (fun q => q.wait)
  exited := quadMask (fun i => (g.quads.getD i (Quad.start 0)).exited)
  mk0 := g.sreg 61
  mk1 := g.sreg 62
  mk2 := g.sreg 63
  helper := g.helper
  lt0 := g.lt0
  lt1 := g.lt1
  wait := g.wait

/-- The activity mask replaced whole: its words pass their check again (R387). -/
def Group.setMask (g : Group) (a b c : Word) : Group :=
  (((g.setS 61 a).setS 62 b).setS 63 c).renewed [189, 190, 191]

/-- The steps of handler entry (R47): the frame is saved, every lane is active, helper mode is off, all quads
stand at the entry, and INH is set. -/
def State.enterHandler (s : State) : State :=
  let pc := s.handlerPc
  s.modGrp (fun g =>
    ({ g with
        frame := some g.frameOf
        helper := false
        wait := .ready
        swapped := false
        hmaskr := g.hmaskr ||| 2
        quads := g.quads.map (fun q => { q with pc := pc, exited := false, wait := .run }) } : Group).setMask
      0xFFFFFFFF 0xFFFFFFFF 0xFFFFFFFF)

/-- The codes delivered to the user's handler (R372); a system call, in a privileged context (R379). -/
def userCode (code : BitVec 8) (priv : Bool) : Bool :=
  code == 0x06 || code == 0x20 || code == 0x21 || code == 0x40 || (code == 0x41 && priv)

/-- A handler entry whose check failed (R459): the group goes to a block halt with the check's code. -/
def State.entryFailed (s : State) (org : Origin) (e : FaultInfo) (trap : BitVec 8) : State :=
  let pc := s.handlerPc
  let d := 2 ^ 15 + trap.toNat
  (s.writeTrec e.code d false org 0).faultHalt
    { code := e.code, scope := 0, pc := some org.pc, quads := org.quads, detail := d, hi := e.hi,
      addr := some pc, info0 := e.info0, info1 := e.info1 }

/-- TAKING A FAULT: a precise fault of the present group's issue set. The instruction has no effect; the trap
record is written; a code of the user's goes to the handler when one is installed and INH is clear, and every
other fault to a block halt (R373, R377, R378, R380, R459). -/
def State.takeFault (s : State) (org : Origin) (imprec : Bool) (f : FaultInfo) : State :=
  let priv := s.ctxPriv s.blk.ctx
  let t := s.writeTrec f.code f.detail imprec org f.beat
  if userCode f.code priv && t.grp.hvec != 0 && !t.grp.hmaskr.getLsbD 1 then
    match t.checkTarget true t.handlerPc with
    | none => t.enterHandler
    | some e => t.entryFailed org e f.code
  else
    t.faultHalt { code := f.code, scope := 0, pc := some org.pc, quads := org.quads, beat := f.beat,
                  imprec := imprec, detail := f.detail, hi := f.hi, addr := f.addr, phys := f.phys,
                  info0 := f.info0, info1 := f.info1, time := f.time }

/-- A precise fault of the instruction that executes (R373). -/
def State.trap (s : State) (f : FaultInfo) : State := s.takeFault s.origin false (s.ownSlot f)

/-! ### Returning from the handler (R49, R379, R355) -/

/-- Restores a frame: PCs, stamps, waits and exited quads, mk0 to mk2, helper mode, latches and the wait; what it writes whole
passes its check again (R387). DESIGN CHOICE: the manual does not say what becomes of a quad that has executed `EXIT` in the
handler: the frame alone says which quads have exited, so that such a quad lives on (assumption 84). -/
def Group.restore (g : Group) (f : Frame) : Group :=
  ({ g with
      frame := none
      helper := f.helper
      wait := f.wait.again
      lt0 := f.lt0
      lt1 := f.lt1
      latchOnly := 0
      swapped := f.wait != .ready
      hmaskr := g.hmaskr &&& ~~~(2#32)
      trec0 := g.trec0 &&& ~~~(0x100#32)
      quads := g.quads.mapIdx (fun i q =>
        { q with pc := f.pcs.getD i 0, stamp := f.stamps.getD i 0, exited := f.exited.getLsbD i,
                 wait := f.waits.getD i .run }) } : Group).setMask f.mk0 f.mk1 f.mk2
    |>.renewed [200, 201]

/-- The quads of QMASK resume at `pc`, or at the slot after it when SKIP is set (R379). -/
def Group.resumeAt (g : Group) (mask : QuadMask) (skip : Bool) (pc : Option Dword) : Group :=
  { g with quads := g.quads.mapIdx (fun i q =>
      if mask.getLsbD i then
        let p := pc.getD q.pc
        { q with pc := if skip then pcNext p else p }
      else q) }

/-- The frame records a wait at a swap point (R47): at a wait instruction, or with every quad that has not exited
parked at a barrier or at `REGANG`. -/
def Frame.recordsWait (f : Frame) : Bool :=
  f.wait.interruptible ||
  (List.range 24).all (fun i => f.exited.getLsbD i || f.waits.getD i .run != .run)

/-- The return from a handler. After a trap the quads of QMASK resume at the faulting instruction, or past it
with SKIP; `eret` takes their PC from TREC2 and TREC3 (R355). A message handler's frame is restored as it
stands. The group issues once before it is interrupted again (R49); the wait that a frame records resumes and
counts as that issue, since the messages it waits for could not be handled otherwise (R371; assumption 29). -/
def State.returnFrom (s : State) (eret : Bool) : State :=
  match s.grp.frame with
  | none => s.modGrp (fun g => { g with hmaskr := g.hmaskr &&& ~~~(2#32) })
  | some f =>
    s.modGrp (fun g =>
      let r := g.restore f
      let r := if g.trec0.getLsbD 8 then
          r.resumeAt (g.trec1.extractLsb' 0 24) (g.trec0.getLsbD 10) (if eret then some (g.trec3 ++ g.trec2) else none)
        else r
      { r with resumed := !f.recordsWait })

/-! ### Counters (R154, R155) -/

/-- The in-flight counter of a path: the counted operations not yet retired. -/
def Group.counter (g : Group) : Path → Nat
  | .c => g.copies.length
  | .m => g.matIssues.length
  | .f => g.fabs.length
  | p => (g.memops.filter (fun o => o.counted && o.path == p)).length

/-- A remote tile copy of a collective: it counts on F, but is no issue of the group (R35, R154). -/
def FabOp.isTile (o : FabOp) : Bool :=
  match o.kind with
  | .tile _ => true
  | _ => false

/-- The operations of path F that have not retired: an instruction retires once every earlier one has, a tile copy by
itself. -/
def retireFabs : List FabOp → List FabOp
  | [] => []
  | o :: os =>
    if o.done then retireFabs os
    else if o.isTile then o :: retireFabs os
    else o :: os.filter (fun x => !(x.isTile && x.done))

/-- Retires the operations of paths C, M and F that have returned, each once every earlier one of its path
has (R155). -/
def Group.retireAll (g : Group) : Group :=
  { g with
    copies := g.copies.dropWhile (fun c => c.landed)
    matIssues := g.matIssues.dropWhile (fun m => m.done)
    fabs := retireFabs g.fabs }

/-! ### Scratchpad (R145 to R148) -/

/-- The first failing check of a scratchpad access: alignment, window, then pins for a write (R457 item 3). -/
def Block.spadCheck (b : Block) (pinned : Nat → Bool) (write : Bool) (al off n : Nat) : Option FaultInfo :=
  if off % al ≠ 0 then some { code := 0x12 }
  else if b.spad < off + n then some { code := 0x13 }
  else if write ∧ n ≠ 0 ∧ (List.range ((off + n - 1) / 128 - off / 128 + 1)).any (fun i => pinned (off / 128 + i)) then
    some (protFault none 7)
  else none

/-- Bytes that a record of a body and a cap takes (R122). -/
def recordSize (body : Body) (cap : BitVec 2) : Nat :=
  (match body with
   | .q3 => 96
   | .q4 => 128
   | .v2 => 64) + 16 + 4 * (match cap.toNat with
    | 0 => 0
    | 1 => 4
    | 2 => 8
    | _ => 16)

/-- Whether a line of the window is pinned by any group of the block (R146, R332). -/
def Block.linePinned (b : Block) (line : Nat) : Bool :=
  b.groups.any (fun g => !g.retired && g.pins.any (fun p =>
    decide (p.off / 128 ≤ line ∧ line ≤ (p.off + p.bytes - 1) / 128)))

/-- Pending count of a line (R147). -/
def Block.feCount (b : Block) (line : Nat) : Nat := Tbl.get 0 b.fe line

/-- Lines that `n` bytes at an offset touch. -/
def linesOf (off n : Nat) : List Nat :=
  if n = 0 then [] else (List.range ((off + n - 1) / 128 - off / 128 + 1)).map (· + off / 128)

/-- Empty lines among those named. -/
def Block.emptyLines (b : Block) (lines : List Nat) : List Nat := lines.filter (fun l => b.feCount l != 0)

/-- A word of the window that fails its check (R435). -/
def Block.spadBad (b : Block) (off n : Nat) : Bool :=
  b.badSpm.any (fun w => decide (off / 8 ≤ w ∧ w ≤ (off + n - 1) / 8))

/-- Failing words of the window that a write of `n` bytes replaces in part. -/
def Block.spadPart (b : Block) (off n : Nat) : List Nat :=
  if b.badSpm.isEmpty then [] else partWords b.badSpm ((List.range n).map (fun i => off + i))

/-- Writes bytes to the window. A failing word that they replace in part keeps its bits; one wholly written passes its
check again (R387). -/
def Block.spadWrite (b : Block) (off : Nat) (bytes : List Byte) : Block :=
  let kept := b.spadPart off bytes.length
  { b with spm := if kept.isEmpty then Memory.setBytes b.spm off bytes
                  else ((cellsFrom off bytes).filter (fun z => !kept.contains (z.1 / 8))).foldl
                    (fun m z => Memory.setByte m z.1 z.2) b.spm,
           badSpm := b.badSpm.filter (fun w => !decide (off ≤ 8 * w ∧ 8 * w + 8 ≤ off + bytes.length)) }

/-- Adds to the pending counts of lines, capped at 7. -/
def Block.feRaise (b : Block) (lines : List Nat) : Block :=
  { b with fe := lines.foldl (fun t l => Tbl.set 0 t l (min 7 (Tbl.get 0 t l + 1))) b.fe }

/-- Lowers the pending counts of lines, with no change at 0. -/
def Block.feLower (b : Block) (lines : List Nat) : Block :=
  { b with fe := lines.foldl (fun t l => Tbl.set 0 t l (Tbl.get 0 t l - 1)) b.fe }

/-! ### Barrier objects (R163 to R165) -/

/-- A word of a barrier object. -/
def Block.objWord (b : Block) (off : Nat) : Nat := Memory.read b.spm off 4

/-- An arrival of `n` with flags `f`, one indivisible step (R165). -/
def Block.arriveObj (b : Block) (off n : Nat) (f : BitVec 7) : Block :=
  let expect := b.objWord off % 2 ^ 24
  let count := (b.objWord (off + 4) + n) % 2 ^ 32
  let flags := BitVec.ofNat 32 (b.objWord (off + 12)) ||| f.setWidth 32
  if count = expect then
    b.spadWrite (off + 4) (leBytes 0 4 ++ leBytes (b.objWord (off + 8) + 1) 4 ++ leBytes 0 4 ++ leBytes flags.toNat 4)
  else b.spadWrite (off + 4) (leBytes count 4 ++ leBytes (b.objWord (off + 8)) 4 ++ leBytes flags.toNat 4)

/-! ### Faults of lanes (R373, R457) -/

/-- The fault of the lowest failing lane, its beat named. -/
def firstFault (f : Nat → Option FaultInfo) : List Nat → Option FaultInfo
  | [] => none
  | l :: ls =>
    match f l with
    | some e => some { e with beat := l / 32 }
    | none => firstFault f ls

/-- The first of two checks that fails. -/
def orElse (a : Option FaultInfo) (b : Unit → Option FaultInfo) : Option FaultInfo :=
  match a with
  | some e => some e
  | none => b ()

/-- An operand fault with its field or condition (R394). -/
def operandFault (n : Nat) : FaultInfo := { code := 0x03, hi := n }

/-! ### Asynchronous faults (R376) -/

/-- An asynchronous uncorrectable error detected now, at a physical address or an offset of the window (R382, R435). -/
def State.eccAsync (s : State) (org : Origin) (a : Nat) (phys : Bool) : AsyncFault :=
  ⟨0x50, 0, org, some (BitVec.ofNat 64 a), phys, 0, 0, s.time⟩

/-- Notes an asynchronous fault, to be delivered at the group's next boundary. -/
def Group.async (g : Group) (f : AsyncFault) : Group := { g with asyncs := g.asyncs ++ [f] }

/-- A write-back that an instruction of the present group makes: failing words at the homes that it replaces in part are
reported to the group; those of L1 are noted for their context (R435). -/
def State.writesBack (s : State) (org : Origin) (f : State → State) : State :=
  let t := f s
  let mine := t.eccFail.filter (fun a => !s.eccFail.contains a && s.badMem.contains (a / 8))
  mine.foldl (fun t a => t.modGrp (fun g => g.async (s.eccAsync org a true)))
    { t with eccFail := t.eccFail.filter (fun a => !mine.contains a) }

/-- A load of the present group that performs at the home, with the write-back of the core's copy that it makes (R172, R435). -/
def State.loadHome (s : State) (org : Origin) (pa n : Nat) : List Byte × State :=
  let t := s.writesBack org (fun s => (s.homeLoad s.core pa n).2)
  (t.homeRead pa n, t)

/-- The completion arrival of an engine, when an object is named (R162). One that meets an uncorrectable error is
reported to the issuing group with IMPREC and is not made (R435). -/
def State.engineArrive (s : State) (obj : Option Nat) (f : BitVec 7) (org : Origin) : State :=
  match obj with
  | none => s
  | some o =>
    if s.blk.spadBad o 64 then
      s.modGrp (fun g => g.async (s.eccAsync org o false))
    else s.modBlk (fun b => b.arriveObj o 1 f)

end Sys2Proof.Machine
end

