-- ==== Sys2Proof/Machine/Record.lean ====
section
/-! DEFINITION. Record and replay (spec 09 R230, R231; 19 R391, R392; 01 R19 note (d)): the log of a context's launches,
what a recorded launch adds to it, and what a replayed one takes from it. -/

namespace Sys2Proof.Machine

/-! ### Entries -/

/-- POINT of an issue of a group (R230). -/
def pointOf (block group issue : Nat) : Nat := block % 2 ^ 24 + 2 ^ 28 * (group % 16) + 2 ^ 32 * (issue % 2 ^ 32)

/-- The header of a log entry: TYPE, length and POINT. -/
def recHeader (ty len point : Nat) : List Byte := leBytes ty 2 ++ leBytes 0 2 ++ leBytes len 4 ++ leBytes point 8

/-- Bytes of an entry with a payload of `n` bytes: its header, and the payload padded to 16 bytes. -/
def entryLen (n : Nat) : Nat := 16 + (n + 15) / 16 * 16

/-! ### Recording -/

/-- Appends an entry to the log of a launch in record mode (R230); when it would pass RECSIZE a final entry of TYPE 0xFFFF
stands in its place, where 16 bytes are left for it, and nothing more is recorded (R392). -/
def State.logEntry (s : State) (l : LaunchRef) (ty point : Nat) (payload : List Byte) : State :=
  match s.launch? l with
  | none => s
  | some x =>
    if x.mode ≠ 1 ∨ x.recFull then s
    else
      let at_ := s.recBase x.ctx + BitVec.ofNat 64 x.recLog
      let n := entryLen payload.length
      if s.recSize x.ctx < x.recLog + n then
        (if s.recSize x.ctx < x.recLog + 16 then s else s.ctxStore x.ctx at_ (recHeader 0xFFFF 0 point)).modLaunch l
          (fun y => { y with recFull := true })
      else
        (s.ctxStore x.ctx at_ (recHeader ty payload.length point ++ payload ++ List.replicate (n - 16 - payload.length) 0)
          ).modLaunch l (fun y => { y with recLog := y.recLog + n })

/-- POINT of an issue of the present group. -/
def State.pointAt (s : State) (issue : Nat) : Nat := pointOf s.blk.ref.block s.grp.num issue

/-- POINT of the present group's next issue. -/
def State.point (s : State) : Nat := s.pointAt s.grp.issues

/-- Logs an input of the present group at its issue. -/
def State.logInput (s : State) (ty : Nat) (payload : List Byte) : State :=
  s.logEntry s.blk.ref.launch ty s.point payload

/-! ### Searching a replayed log

Each input is taken from the earliest entry not yet taken that its party could have left (assumption 61). -/

/-- The launch that a block belongs to, when it replays a log. -/
def State.replayOf (s : State) (b : Block) : Option Launch :=
  s.launches.find? (fun x => x.ref == b.ref.launch && x.mode == 2)

/-- The launch of the present block replays a log. -/
def State.replaying (s : State) : Bool := (s.replayOf s.blk).isSome

/-- The entry at an offset of a launch's log: TYPE, POINT and payload; none past RECSIZE or where it cannot be read. -/
def State.logAt (s : State) (x : Launch) (off : Nat) : Option (Nat × Nat × List Byte) :=
  if s.recSize x.ctx < off + 16 then none
  else
    match s.ctxRead x.ctx (s.recBase x.ctx + BitVec.ofNat 64 off) 16 with
    | .error _ => none
    | .ok h =>
      (s.ctxRead x.ctx (s.recBase x.ctx + BitVec.ofNat 64 (off + 16)) (leNat ((h.drop 4).take 4))).toOption.map
        (fun p => (leNat (h.take 2), leNat (h.drop 8), p))

/-- What a search of a log meets first: an entry it looks for, the final entry of a full log with its POINT (2^64, which no
POINT is, where RECSIZE leaves no room for one), or neither. -/
inductive Found where
  | entry (off ty point : Nat) (payload : List Byte)
  | full (point : Nat)
  | nothing
  deriving DecidableEq, Repr

/-- Searches a log from an offset on, over at most so many entries, for one that is not taken and that `f` accepts. -/
def State.scanLog (s : State) (x : Launch) (f : Nat → Nat → List Byte → Bool) : Nat → Nat → Found
  | 0, _ => .nothing
  | k + 1, off =>
    if s.recSize x.ctx < off + 16 then .full (2 ^ 64) else
    match s.logAt x off with
    | none => .nothing
    | some (t, p, payload) =>
      if t = 0xFFFF then .full p
      else if t = 0 then .nothing
      else if !x.taken.contains off && f t p payload then .entry off t p payload
      else s.scanLog x f k (off + entryLen payload.length)

/-- Searches the whole log of a launch. -/
def State.findLog (s : State) (x : Launch) (f : Nat → Nat → List Byte → Bool) : Found :=
  s.scanLog x f (s.recSize x.ctx / 16 + 1) x.recLog

/-- An entry is taken, and read where it lies in the host's memory (R217). -/
def State.takeLog (s : State) (x : Launch) (off : Nat) : State :=
  let n := (s.logAt x off).elim 0 (fun e => 16 + e.2.2.length)
  (s.asksCtx x.ctx (s.recBase x.ctx + BitVec.ofNat 64 off) n).modLaunch x.ref (fun y => { y with taken := off :: y.taken })

/-- A replay that has parted from its log, or has come to its end, halts the blocks of its launch with WATCHDOG, an
asynchronous fault, which the trap record of the group describes (R372, R378); the fault record names the block, the group
and the issue at which they parted, in INFO0 (R392; assumption 61). -/
def State.replayHalt (s : State) (org : Origin) (issue detail : Nat) : State :=
  let l := s.blk.ref.launch
  let t := (s.writeTrec 0x51 detail true org 0).faultHalt { code := 0x51, scope := 0, pc := some org.pc, quads := org.quads, imprec := true, detail := detail, info0 := issue }
  { t with
    blocks := t.blocks.map (fun b => if b.ref.launch = l then { t.askHalt .fault b with held := true } else b)
    saved := t.saved.map (fun x => if x.blk.ref.launch = l then { x with blk := { x.blk with held := true } } else x) }

/-! ### Inputs of an instruction (TYPE 2, 3 and 5) -/

/-- The outcome of asking a replayed log for an input. -/
inductive Replayed where
  | live
  | input (payload : List Byte) (s : State)
  | diverged (detail : Nat)
  deriving DecidableEq, Repr

/-- A read of an issue of a group of the present block may still ask for its bytes: the operation is in flight, or the issue
is the present one. -/
def Group.asksLater (g : Group) (issue : Nat) : Bool :=
  g.issues % 2 ^ 32 == issue || g.memops.any (fun o => o.seq % 2 ^ 32 == issue) ||
    g.copies.any (fun c => c.seq % 2 ^ 32 == issue) || g.fabs.any (fun o => o.seq % 2 ^ 32 == issue) ||
    g.mats.any (fun o => o.seq % 2 ^ 32 == issue)

/-- The group of a block that a POINT names. -/
def Block.asksLater (b : Block) (p : Nat) : Bool :=
  b.groups.any (fun g => g.num % 16 == p / 2 ^ 28 % 16 && g.asksLater (p / 2 ^ 32))

/-- The next entry of a log for a group of a block: any but a launch's start and a block's re-run, a discard of its own
block among them, and a load whose issue is not in flight; the bytes of one in flight are asked for by their own operation
(R392). -/
def State.nextAsk (s : State) (x : Launch) (b : Block) (point : Nat) : Found :=
  s.findLog x (fun t p payload =>
    match t with
    | 1 => false
    | 4 => p % 2 ^ 32 == point % 2 ^ 32 && !b.asksLater p
    | 6 => p % 2 ^ 24 == point % 2 ^ 24 && payload.length == 4
    | _ => p % 2 ^ 32 == point % 2 ^ 32)

/-- Asks for an input of TYPE `ty` at the present point: from the log in replay, else from its party (R231). A
log that is full or names another input halts the replay (R392). -/
def State.replay (s : State) (ty : Nat) : Replayed :=
  match s.replayOf s.blk with
  | none => .live
  | some x =>
    match s.nextAsk x s.blk s.point with
    | .entry off t p payload => if t = ty ∧ p = s.point then .input payload (s.takeLog x off) else .diverged 2
    | .full _ => .diverged 1
    | .nothing => .diverged 2

/-- The replay of the present instruction's launch ends at its point. -/
def State.replayEnds (s : State) (detail : Nat) : Host.Outcome State Fault Refusal :=
  .next (s.replayHalt s.origin s.grp.issues detail)

/-! ### Bytes from outside the launch (TYPE 4) -/

/-- Bytes of the mask field of a type 4 entry for `n` bytes. -/
def maskLen (n : Nat) : Nat := (n + 63) / 64 * 8

/-- The payload of a type 4 entry: address, byte mask, bytes (assumption 15). -/
def loadEntry (addr mask : Nat) (bytes : List Byte) : List Byte :=
  leBytes addr 8 ++ leBytes mask (maskLen bytes.length) ++ bytes

/-- The bytes of a type 4 entry stand over those read. -/
def overLog (payload bytes : List Byte) : List Byte :=
  let n := maskLen bytes.length
  let mask := leNat ((payload.drop 8).take n)
  bytes.mapIdx (fun i b => if mask.testBit i then payload.getD (8 + n + i) b else b)

/-- The type 4 entry at a POINT for an address. -/
def State.findLoad (s : State) (x : Launch) (point addr : Nat) : Found :=
  s.findLog x (fun t p payload => t == 4 && p == point && leNat (payload.take 8) == addr)

/-- In replay, the bytes of a read with the log's over them; the entry stays. -/
def State.peekInput (s : State) (issue addr : Nat) (bytes : List Byte) : List Byte :=
  match s.replayOf s.blk with
  | none => bytes
  | some x =>
    match s.findLoad x (s.pointAt issue) addr with
    | .entry _ _ _ payload => overLog payload bytes
    | _ => bytes

/-- Bytes that a read of issue `issue` returned, of which those of `mask` were written from outside the launch: record
logs them, replay takes them from the log (R230 type 4, R231). -/
def State.loadInput (s : State) (org : Origin) (issue addr mask : Nat) (bytes : List Byte) : List Byte × State :=
  match s.replayOf s.blk with
  | none => (bytes, if mask = 0 then s else s.logEntry s.blk.ref.launch 4 (s.pointAt issue) (loadEntry addr mask bytes))
  | some x =>
    match s.findLoad x (s.pointAt issue) addr with
    | .entry off _ _ payload => (overLog payload bytes, s.takeLog x off)
    | .full p => (bytes, if p = s.pointAt issue ∧ s.blk.halting.isNone then s.replayHalt org issue 1 else s)
    | .nothing => (bytes, s)

/-- A value of the pod that an instruction reads at its issue, under an address of its own (R391; assumption 61): record logs
it as an entry of TYPE 4, and replay takes it from there. -/
def State.podInput (s : State) (addr v : Nat) (k : Nat → State → Host.Outcome State Fault Refusal) :
    Host.Outcome State Fault Refusal :=
  match s.replayOf s.blk with
  | none => k v (s.logEntry s.blk.ref.launch 4 s.point (loadEntry addr 0xFF (leBytes v 8)))
  | some x =>
    match s.findLoad x s.point addr with
    | .entry off _ _ payload => k (leNat (overLog payload (List.replicate 8 0))) (s.takeLog x off)
    | .full _ => s.replayEnds 1
    | .nothing => s.replayEnds 2

/-- The log of the present group's launch ends at its next issue (R392). -/
def State.logEnds (s : State) : Bool :=
  match s.replayOf s.blk with
  | none => false
  | some x =>
    match s.findLog x (fun _ _ _ => false) with
    | .full p => p == s.point
    | _ => false

/-- An operation has returned: an entry of its POINT that it has not taken names bytes that it never read (R392). -/
def State.inputsTaken (s : State) (org : Origin) (issue : Nat) : State :=
  match s.replayOf s.blk with
  | none => s
  | some x =>
    match s.findLog x (fun t p _ => t == 4 && p == s.pointAt issue) with
    | .entry _ _ _ _ => s.replayHalt org issue 2
    | _ => s

end Sys2Proof.Machine
end

