-- ==== Sys2Proof/Machine/Order.lean ====
section
/-! DEFINITION. What orders the accesses of a group (spec 07 R174 to R187): the operations and requests before an issue,
the steps of a release, and what a pending fence holds back. -/

namespace Sys2Proof.Machine

/-! ### Kinds -/

/-- Scopes that perform at the home, with actions: DEV and POD. The others are plain accesses (R170). -/
def MemOp.acquires (o : MemOp) : Bool := o.ord.kind == .acq || o.ord.kind == .ar
def MemOp.releases (o : MemOp) : Bool := o.ord.kind == .rel || o.ord.kind == .ar

/-- A load or a returning atomic (R174): the operations of path G. -/
def MemOp.isLoad (o : MemOp) : Bool := o.path == .g

/-- A reduction or an atomic without a returned value. -/
def MemOp.isRed (o : MemOp) : Bool :=
  match o.kind with
  | .atom _ _ => o.path == .s
  | _ => false

/-- Whether an earlier operation that has not performed holds a later load of some lines back: a load, an acquire (R177), or
a cache control that invalidates one of the lines (R309). -/
def MemOp.holdsLines (p : MemOp) (lines : List Nat) : Bool :=
  p.isLoad || p.acquires ||
    match p.kind with
    | .cctl .invall => true
    | .cctl .inv => p.acc.any (fun a => lines.contains (a.pa / 128))
    | _ => false

/-- The same for a load in flight. -/
def MemOp.holdsLoad (p o : MemOp) : Bool := p.holdsLines (o.acc.map (fun a => a.pa / 128))

/-! ### Release and acquire conditions (R176, R179, R181) -/

/-- Earlier operations than issue `n`. -/
def Group.opsBefore (g : Group) (n : Nat) : List MemOp := g.memops.filter (fun o => decide (o.seq < n))

/-- Every earlier load and returning atomic has returned (R176 step 1). -/
def Group.loadsDone (g : Group) (n : Nat) : Bool := (g.opsBefore n).all (fun o => !o.isLoad)

/-- The store queue is drained of stores before issue `n` (R176 step 2). -/
def Group.storesDone (g : Group) (n : Nat) : Bool := (g.opsBefore n).all (fun o => o.isLoad || o.isRed)

/-- Every earlier reduction and non-returning atomic has performed (R176 step 4). -/
def Group.redsDone (g : Group) (n : Nat) : Bool := (g.opsBefore n).all (fun o => !o.isRed)

/-- The waits of a release before issue `n`: steps 1 and 2, and step 4 for DEV and POD scope. -/
def Group.relReady (g : Group) (dev : Bool) (n : Nat) : Bool :=
  g.loadsDone n && g.storesDone n && (!dev || g.redsDone n)

/-- The requests that `RFENCE` waits for (R187). -/
def FabOp.fenced (o : FabOp) : Bool :=
  match o.kind with
  | .rld _ | .rst | .ratom _ | .rcpy | .msend => true
  | _ => false

/-- Every fabric request issued before `n` is acknowledged (R176 step 5, R187). -/
def Group.acked (g : Group) (n : Nat) : Bool :=
  g.fabs.all (fun o => !(decide (o.seq < n) && o.fenced) || o.open_.isEmpty)

/-- The byte that the store queue holds for an address: of the latest access of an earlier store still in it. -/
def Group.queued (g : Group) (n pa : Nat) : Option Byte :=
  (g.opsBefore n).foldl (fun r o =>
    match o.kind with
    | .store => o.acc.foldl (fun r a =>
        if a.pa ≤ pa ∧ pa < a.pa + a.len then some (BitVec.ofNat 8 (a.data / 2 ^ (8 * (pa - a.pa)))) else r) r
    | _ => r) none

/-! ### Fences -/

/-- The issue that a fence stands at: its own, or for the acquire part of a barrier (R185) the group's next one when the barrier
completed. Earlier accesses are those of lower issues, later ones those from it on. -/
def Fence.seqNo : Fence → Nat
  | .fence _ _ n _ _ => n
  | .fencex _ _ n _ _ => n

/-- The scopes whose actions reach the homes. -/
def scopeDev (sc : Scope) : Bool := sc == .dev || sc == .pod

/-- Whether a pending fence holds back later stores (R179): a release of any scope, an acquire of DEV or POD scope. -/
def Fence.holdsStore : Fence → Bool
  | .fence .acq sc _ _ _ => scopeDev sc
  | .fence _ _ _ _ _ => true
  | .fencex _ _ _ _ _ => false

/-- Whether a pending fence holds back later loads (R179). -/
def Fence.holdsLoad : Fence → Bool
  | .fence .rel _ _ _ _ => false
  | .fence _ _ _ _ _ => true
  | .fencex _ _ _ _ _ => false

/-- A pending fence before an operation of issue `n` holds a load or a store back. -/
def Group.fenced (g : Group) (n : Nat) (isLoad : Bool) : Bool :=
  g.fences.any (fun f => decide (f.seqNo ≤ n) && (if isLoad then f.holdsLoad else f.holdsStore))

/-- A pending `FENCEX` holds the later instructions of its B path (R181). -/
def Group.pathHeld (g : Group) (p : Path) : Bool :=
  g.fences.any (fun f => match f with
    | .fencex _ b _ _ _ => b == p
    | _ => false)

/-- Whether a pending fence holds back a later scratchpad load, or a scratchpad store or barrier arrival
(R179). -/
def Group.spadHeld (g : Group) (store : Bool) : Bool :=
  g.fences.any (fun f => match f with
    | .fence .rel _ _ _ _ => store
    | .fence .acq sc _ _ _ => scopeDev sc
    | .fence .ar sc _ _ _ => store || scopeDev sc
    | .fencex _ _ _ _ _ => false)

/-- Whether an acquire that has not performed, or a fence with an acquire part of POD scope, holds back later
fabric requests (R177, R179). -/
def Group.fabHeld (g : Group) : Bool :=
  g.fences.any (fun f => match f with
    | .fence .acq .pod _ _ _ | .fence .ar .pod _ _ _ => true
    | _ => false) ||
  g.memops.any (fun o => o.acquires && !o.acc.isEmpty)

/-- The fence writes L1 back in the course of its actions, before what its other waits end on (R176 step 3, R181). -/
def Fence.writes : Fence → Bool
  | .fence .acq _ _ _ _ => false
  | .fence _ sc _ _ _ => scopeDev sc
  | .fencex a _ _ _ _ => a == .s

def Fence.wrote : Fence → Bool
  | .fence _ _ _ w _ => w
  | .fencex _ _ _ w _ => w

/-- The instruction that issued a fence. -/
def Fence.org : Fence → Origin
  | .fence _ _ _ _ o => o
  | .fencex _ _ _ _ o => o

def Fence.withdraw : Fence → Fence
  | .fence k sc n _ o => .fence k sc n false o
  | .fencex a b n _ o => .fencex a b n false o

def Fence.setWrote : Fence → Fence
  | .fence k sc n _ o => .fence k sc n true o
  | .fencex a b n _ o => .fencex a b n true o

/-- A fence may take its write-back: steps 1 and 2 of R176, or the drain of side S, are over. -/
def Group.fenceWrites (g : Group) (f : Fence) : Bool :=
  f.writes && !f.wrote &&
    match f with
    | .fence _ _ n _ _ => g.loadsDone n && g.storesDone n
    | .fencex _ _ n _ _ => g.storesDone n

/-- A fence's waits are over. -/
def Group.fenceReady (g : Group) : Fence → Bool
  | .fence .acq _ n _ _ => g.loadsDone n
  | .fence _ sc n w _ => g.relReady (scopeDev sc) n && (sc != .pod || g.acked n) && (!scopeDev sc || w)
  | .fencex a _ n w _ =>
    match a with
    | .g => g.loadsDone n
    | .s => g.storesDone n && g.redsDone n && w
    | .c => g.copies.all (fun o => !decide (o.seq < n) || o.landed)
    | .m => g.matIssues.all (fun o => !decide (o.seq < n) || o.done)
    | .f => g.acked n

/-- A fence holds back an access that stands in the group's operations. -/
def Group.fenceHolds (g : Group) (f : Fence) : Bool :=
  g.memops.any (fun o => decide (f.seqNo ≤ o.seq) && (if o.kind = .load then f.holdsLoad else f.holdsStore))

/-- A pending fence that can do something now. In a halted block only a fence goes on that holds back an access which the
save waits for (R70, R105; assumption 43). -/
def Group.fenceMoves (g : Group) (halted : Bool) (f : Fence) : Bool :=
  (!halted || g.fenceHolds f) && (g.fenceWrites f || g.fenceReady f)

/-! ### A release that an instruction makes before it executes (R57, R185) -/

/-- A pending release fence holds the arrival back (R179). -/
def Group.arrivalHeld (g : Group) : Bool :=
  g.fences.any (fun f => match f with
    | .fence .acq _ _ _ _ | .fencex _ _ _ _ _ => false
    | .fence _ _ _ _ _ => true)

/-- The wait of a release is over, or its next step can be taken. -/
def Group.releaseMoves (g : Group) (wrote : Bool) : Bool :=
  !g.arrivalHeld && g.loadsDone g.issues && g.storesDone g.issues && (!wrote || g.redsDone g.issues)

end Sys2Proof.Machine
end

