-- ==== Sys2Proof/Machine/Sched.lean ====
section
/-! DEFINITION. The group scheduler of a core: what a waiting group waits for, which pending group is ready,
swaps and the filling of free active slots (spec 03 R75 to R77, R84; 02 R26, R47, R48). -/

namespace Sys2Proof.Machine

/-! ### Pending results (R76) -/

/-- Register code numbers of a destination: `v n` is n, `s n` is 128 + n. -/
def Dest.regs (d : Dest) : List Nat := (List.range d.n).map (fun i => d.base + i + if d.scalar then 128 else 0)

/-- The registers with a pending long-latency write: results of classes 0x8, 0x9, 0xA and 0xC that have not
arrived. Predicates are numbered from 256. -/
def Group.pendingRegs (g : Group) : List Nat :=
  g.memops.flatMap (fun o => o.dst.elim [] Dest.regs) ++
  g.landings.flatMap (fun l => l.dst.elim [] Dest.regs ++ l.sdst.elim [] (fun p => [128 + p.1]) ++
    l.pdst.elim [] (fun p => [256 + p.1])) ++
  (g.fabs.filter (fun o => !o.done)).flatMap (fun o => o.dst.elim [] Dest.regs ++
    o.ps.elim [] (fun p => [256 + p.num.toNat]))

/-! ### Conditions -/

/-- A quad that may issue: live and not waiting at a `REGANG` or a barrier (R26). -/
def Quad.candidate (q : Quad) : Bool := !q.exited && q.wait == .run

def Group.hasCandidate (g : Group) : Bool := g.quads.any Quad.candidate

/-- The group has executed its last `EXIT` (R28). -/
def Group.exited (g : Group) : Bool := g.quads.all (fun q => q.exited)

/-- A quad that waits at a barrier. -/
def Quad.atBarrier (q : Quad) : Bool :=
  match q.exited, q.wait with
  | false, .barrier _ _ _ => true
  | _, _ => false

/-- Whether a group has arrived at barrier `k` in generation `gen`. -/
def Group.arrived (g : Group) (k gen : Nat) : Bool := Tbl.get 0 g.arrivals k == gen + 1

/-- The generation of the bench barrier, 8, or of the launch barrier, 9, that a block sees (R281). -/
def State.wideGen (s : State) (b : Block) (k : Nat) : Nat :=
  match s.launch? b.ref.launch with
  | none => 0
  | some x => if k = 8 then Tbl.get 0 x.benchBars b.die else x.launchBar

/-- The condition of `WAITM` (R318), unsigned. -/
def waitHolds (c : WCond) (x b : Nat) : Bool :=
  match c with
  | .eq => x == b
  | .ne => x != b
  | .ge => decide (b ≤ x)
  | .lt => decide (x < b)

/-- A phase `t` of an object has completed (R166). -/
def Block.phaseDone (b : Block) (off : Nat) (t : Word) : Bool :=
  let d := (BitVec.ofNat 32 (b.objWord (off + 8)) - t).toNat
  decide (1 ≤ d ∧ d < 2 ^ 31)

/-- Every `QUIET` of the group has been settled (R209). -/
def Group.quietDone (g : Group) : Bool :=
  g.fabs.all (fun o => match o.kind with
    | .quiet _ settled => settled
    | _ => true)

/-- Whether the group's wait at its next instruction is over, or can be tried again. -/
def Group.waitOver (g : Group) (b : Block) : Bool :=
  match g.wait with
  | .pendingReg rs => rs.all (fun r => !(g.pendingRegs.contains r))
  | .path p t => decide (g.counter p ≤ t)
  | .memWord .. => false
  | .phase off t => b.phaseDone off t
  | .quiet => g.quietDone
  | .release wrote _ => g.releaseMoves wrote
  | _ => true

/-- The group stands at a swap point whose condition does not hold (R76). DESIGN CHOICE: the manual does not say whether a handler
group that a message makes ready there keeps its slot: it gives it to another ready group as any other does, and enters its
handler when it comes in again (R48, R77; assumption 85). -/
def Group.atSwap (g : Group) (b : Block) : Bool :=
  if !g.asyncs.isEmpty then false
  else if g.hasCandidate then
    match g.wait with
    | .pendingReg _ | .path _ _ | .memWord .. | .phase _ _ | .quiet | .release _ true => !g.waitOver b
    | _ => false
  else g.quads.any Quad.atBarrier

/-- A message waits in the block's inbox: TAIL differs from HEAD (R202). -/
def State.messageWaits (s : State) (b : Block) : Bool :=
  match b.inbox with
  | none => false
  | some x =>
    match s.ctxNat b.ctx (x.desc + 0x10) 8, s.ctxNat b.ctx (x.desc + 0x18) 8 with
    | .ok t, .ok h => t != h
    | _, _ => false

/-- A message is due at the group's next boundary: it waits in the inbox, or in replay the log's next entry is a
message at this point (R47, R231). -/
def State.messageDue (s : State) (b : Block) (g : Group) : Bool :=
  match s.replayOf b with
  | none => s.messageWaits b
  | some x =>
    let point := pointOf b.ref.block g.num g.issues
    match s.nextAsk x b point with
    | .entry _ t p _ => b.inbox.isSome && t == 3 && p == point
    | _ => false

/-- A message interrupts the group at its next boundary (R47, R49, R102). -/
def State.handlerDue (s : State) (b : Block) (g : Group) : Bool :=
  b.handg == some g.num && g.hvec != 0 && g.hmaskr.extractLsb' 0 2 == 0 && g.frame.isNone && !g.resumed &&
    g.latchOnly == 0 && !g.exited && !g.retired && s.messageDue b g

/-- The block's groups may be scheduled. -/
def Block.runs (b : Block) : Bool := b.halting.isNone && !b.halted

/-- A pending group is ready (R77). -/
def State.groupReady (s : State) (b : Block) (g : Group) : Bool :=
  b.runs && !g.retired && (!g.asyncs.isEmpty || (!g.exited && (s.handlerDue b g || (g.hasCandidate && g.waitOver b))))

/-! ### The issue set (R22, R26) -/

/-- A candidate PC with the oldest stamp of its quads. -/
def Group.oldest (g : Group) (pc : Dword) : Nat :=
  (g.quads.filter (fun q => q.candidate && q.pc == pc)).foldl (fun m q => min m q.stamp) g.issues

/-- The better of two candidate PCs: the smaller oldest stamp, then the lower PC. -/
def Group.better (g : Group) (p q : Dword) : Dword :=
  let a := g.oldest p
  let b := g.oldest q
  if b < a ∨ (a = b ∧ q.toNat < p.toNat) then q else p

/-- The PC whose issue set the group chooses. -/
def Group.choosePc (g : Group) : Option Dword :=
  match (g.quads.filter Quad.candidate).map (fun q => q.pc) with
  | [] => none
  | p :: ps => some (ps.foldl g.better p)

/-- The quads that hold a PC and may issue. -/
def Group.setAt (g : Group) (pc : Dword) : QuadMask :=
  quadMask (fun i =>
    let q := g.quads.getD i { Quad.start 0 with exited := true }
    q.candidate && q.pc == pc)

/-- Whether an issue set is chosen, and seats it. -/
def State.seatSet (s : State) : Option State :=
  (s.grp.choosePc).map (fun pc => { s with cur := { s.cur with quads := s.grp.setAt pc, pc := pc } })

/-- The instruction at whose boundary the group stands: that of its next issue set, or of its first live quad. -/
def State.boundary (s : State) : Origin :=
  match s.seatSet with
  | some t => t.origin
  | none =>
    match s.grp.quads.find? (fun q => !q.exited) with
    | none => ⟨0, 0⟩
    | some q => ⟨q.pc, quadMask (fun i =>
        let x := s.grp.quads.getD i { Quad.start 0 with exited := true }
        !x.exited && x.pc == q.pc)⟩

/-! ### Polling `WAITM` (R318) -/

/-- The bytes of a read that were written from outside the present launch: what its line of L1, or its home, holds of
them, less those of the block's write buffer and the group's store queue (R230 type 4). -/
def State.readExts (s : State) (home : Bool) (seq pa n : Nat) : Nat :=
  match s.launch? s.blk.ref.launch with
  | none => 0
  | some x =>
    let m :=
      match if home then none else s.l1Find s.core (pa / 128) with
      | none => x.extMask pa n
      | some y => (extOf y.exts x.ref).toNat / 2 ^ (pa % 128) % 2 ^ n
    if m = 0 then 0
    else (List.range n).foldl (fun m i =>
      if m.testBit i && ((s.blk.bufByte (pa + i)).isSome || (s.grp.queued seq (pa + i)).isSome) then m - 2 ^ i else m) m

/-- The group's earlier operations and fences let a `WAITM` read at `pa`, as they let a load (R174, R177, R179, R309). -/
def Group.mayReread (g : Group) (pa : Nat) : Bool :=
  g.memops.all (fun o => o.acc.isEmpty || !o.holdsLines [pa / 128]) && !g.fences.any Fence.holdsLoad

/-- One read of a `WAITM`: a load at the home, with the block's buffered bytes and the group's store queue over it (R172,
R40), or in replay the log's bytes (R231). The word, the mask of its bytes from outside, and the state. -/
def State.rereads (s : State) (org : Origin) (pa n : Nat) : Nat × Nat × State :=
  let (raw, t) := s.loadHome org pa n
  let i := t.grp.issues
  let bytes := (t.overBuf pa raw).mapIdx (fun k y => (t.grp.queued i (pa + k)).getD y)
  (leNat (t.peekInput i pa bytes), t.readExts true i pa n, t)

/-- The seated group, waiting in `WAITM`, reads again if a write has performed at the home of its line since it last read,
and takes a value that satisfies it. A failing word is reported with IMPREC (R435; assumption 58). -/
def State.pollGroup (s : State) : State :=
  match s.grp.wait with
  | .memWord pa n c v seen =>
    let line := s.homeRead (pa / 128 * 128) 128
    if seen = some line || !s.grp.mayReread pa then s
    else
      let s := if s.badAt pa n then
          s.modGrp (fun g => g.async (s.eccAsync s.boundary pa true))
        else s
      let (x, mask, t) := s.rereads s.boundary pa n
      t.modGrp (fun g => { g with
        wait := if waitHolds c x v then .memHit pa n x mask
                else .memWord pa n c v (some (t.homeRead (pa / 128 * 128) 128)) })
  | _ => s

/-- A group that waits in `WAITM`. -/
def Group.polls (g : Group) : Bool :=
  match g.wait with
  | .memWord .. => true
  | _ => false

/-- Every write that performed at a home is seen by the `WAITM`s on its line. -/
def State.poll (s : State) : State :=
  (((s.blocks.mapIdx (fun i b => (i, b))).filter (fun x => !x.2.halted)).flatMap (fun x =>
    ((x.2.groups.mapIdx (fun j g => (j, g))).filter (fun y => y.2.polls)).map (fun y => (x.1, y.1)))).foldl
    (fun t x => t.within x.1 x.2 State.pollGroup) s

/-! ### Choosing a pending group (R77, R84) -/

/-- Indexes of the pending groups of a core, with block and group. -/
def State.pendingOf (s : State) (c : CoreId) : List (Nat × Nat × Block × Group) :=
  (s.blocks.mapIdx (fun i b => (i, b))).flatMap (fun (i, b) =>
    if b.die = c.die ∧ b.core = c.core then
      (b.groups.mapIdx (fun j g => (i, j, b, g))).filter (fun x => x.2.2.2.active.isNone && !x.2.2.2.retired)
    else [])

/-- A pending group of a steady block may enter the active set in its turn, ready or not (R84). -/
def Block.turnsTo (b : Block) (g : Group) : Bool := b.steady && b.runs && !g.retired && (!g.exited || !g.asyncs.isEmpty)

/-- The rank of a pending group: a handler group that a message made ready first, then the earliest ready, then the lower
resident slot (R77). A group of a steady block has no preference as a handler group, and where it is not ready it gives way
to those of other blocks that are (R84). -/
def State.readyKey (s : State) (b : Block) (g : Group) : Nat × Nat × Nat :=
  (if b.steady then (if s.groupReady b g then 2 else 3) else if s.handlerDue b g then 1 else 2, g.readyAt.getD s.clock, g.slot)

def keyLt (x y : Nat × Nat × Nat) : Bool :=
  decide (x.1 < y.1) || (x.1 == y.1 && (decide (x.2.1 < y.2.1) || (x.2.1 == y.2.1 && decide (x.2.2 < y.2.2))))

/-- The best of a list by key. -/
def bestBy {α : Type} (key : α → Nat × Nat × Nat) : List α → Option α
  | [] => none
  | a :: as =>
    match bestBy key as with
    | none => some a
    | some b => some (if keyLt (key b) (key a) then b else a)

/-- The pending groups of a core that may enter the active set: those that are ready, and of the steady blocks the first by
launch and slot, whatever the time, unless only ready ones are asked for (R76, R77, R84, note (c) of R19). -/
def State.mayEnter (s : State) (c : CoreId) (onlyReady : Bool) : List (Nat × Nat × Block × Group) :=
  let ps := s.pendingOf c
  let first := bestBy (fun x => (x.2.2.1.ref.launch.seq, x.2.2.1.ref.launch.queue, x.2.2.2.slot))
    (ps.filter (fun x => x.2.2.1.turnsTo x.2.2.2))
  ps.filter (fun x => !x.2.2.1.steady && s.groupReady x.2.2.1 x.2.2.2) ++
    first.toList.filter (fun x => !onlyReady || s.groupReady x.2.2.1 x.2.2.2)

/-- The pending group that enters next. -/
def State.nextReady (s : State) (c : CoreId) (onlyReady : Bool) : Option (Nat × Nat) :=
  (bestBy (fun x => s.readyKey x.2.2.1 x.2.2.2) (s.mayEnter c onlyReady)).map (fun x => (x.1, x.2.1))

/-- In steady mode the next pending group of the block in ascending slot order after slot `k`, ready or not. -/
def State.nextSteady (s : State) (i k : Nat) : Option (Nat × Nat) :=
  let gs := ((s.blocks.getD i Block.nil).groups.mapIdx (fun j g => (j, g))).filter (fun x =>
    x.2.active.isNone && !x.2.retired && !x.2.exited)
  (bestBy (fun x => (if k < x.2.slot then 0 else 1, x.2.slot, 0)) gs).map (fun x => (i, x.1))

/-- Changes group `j` of block `i`. -/
def State.modAt (s : State) (i j : Nat) (f : Group → Group) : State :=
  { s with blocks := s.blocks.modify i (fun b => { b with groups := b.groups.modify j f }) }

/-- A group enters an active slot. -/
def State.activate (s : State) (i j k : Nat) : State :=
  s.modAt i j (fun g => { g with active := some k, readyAt := none })

/-- The swap of R76: group `j` of block `i`, active at an unmet swap point, is exchanged with the pending group
that R77, or R84 in steady mode, names; when there is none it stays. -/
def State.swapOut (s : State) (i j : Nat) : State :=
  let b := s.blocks.getD i Block.nil
  let g := b.groups.getD j Group.nil
  match g.active with
  | none => s
  | some k =>
    match if b.steady then s.nextSteady i g.slot else s.nextReady ⟨b.die, b.core⟩ true with
    | none => s
    | some (i', j') =>
      (s.modAt i j (fun g => ({ g with active := none, readyAt := none } : Group).bump 6 1)).activate i' j' k

/-- The present group waits at a swap point: the operand file and the latches die, and it is swapped out when a
pending group is ready (R76, R88, R91); in steady mode it gave its slot up when it came to the swap point (R84). -/
def State.waitSwap (s : State) (w : GWait) : State :=
  let t := s.swapPoint.waitFor w
  if s.blk.steady then t else t.swapOut s.cur.blk s.cur.grp

/-! ### Rounds of steady mode (R84) -/

/-- The place of the matrix engine in the rounds: behind every group's (R84; assumption 64). -/
def enginePlace : Nat := 2 ^ 60

/-- Every group of a launch on the core of a block has arrived at barrier `k` in generation `gen`: whether it completes is
for other cores to decide. -/
def State.coreArrived (s : State) (b : Block) (k gen : Nat) : Bool :=
  (s.blocks.filter (fun x => x.ref.launch == b.ref.launch && x.die == b.die && x.core == b.core)).all (fun x =>
    x.groups.all (fun g => g.exited || g.retired || g.arrived k gen))

/-- A group of a steady block for which its core waits, rather than passing over it: quads of it wait at a bench or launch
barrier that other cores alone have still to complete (R84; assumption 20). -/
def State.awaitsOthers (s : State) (b : Block) (g : Group) : Bool :=
  b.steady && g.frame.isNone && !s.handlerDue b g && g.quads.any (fun q =>
    match q.exited, q.wait with
    | false, .barrier k gen _ => decide (8 ≤ k) && s.wideGen b k == gen && s.coreArrived b k gen
    | _, _ => false)

/-- The places in the round of a core's active groups of steady blocks that ask for an issue or are waited for, and the
engine's when it has work of such a block. A group whose quads all wait at a `REGANG`, at a barrier of its block, or at one
that groups of its own core have still to reach, asks for none: its wait ends with an issue of the rounds (assumption 20). -/
def State.steadyKeys (s : State) (c : CoreId) : List Nat :=
  s.blocks.flatMap (fun b =>
    if b.steady ∧ b.die = c.die ∧ b.core = c.core ∧ !b.halted then
      (b.groups.filter (fun g => !g.retired && !g.exited &&
        (g.hasCandidate || !g.asyncs.isEmpty || s.handlerDue b g || s.awaitsOthers b g))).filterMap (fun g => g.active.map b.roundKey) ++
      (if b.groups.any (fun g => !g.mats.isEmpty) then [enginePlace] else [])
    else [])

/-- Places still to come in the present round. -/
def State.roundLeft (s : State) (c : CoreId) : List Nat :=
  (s.steadyKeys c).filter (fun k => decide (Tbl.get 0 s.rounds (coreKey c) ≤ k))

/-- The place that the round offers next. -/
def State.roundNext (s : State) (c : CoreId) : Nat :=
  match (s.roundLeft c).min? with
  | some k => k
  | none => ((s.steadyKeys c).min?).getD 0

/-- Whether the round has ended: the next place is the first again. -/
def State.roundOver (s : State) (c : CoreId) : Bool :=
  (s.roundLeft c).isEmpty || Tbl.get 0 s.rounds (coreKey c) == 0

/-- The group whose place the round offers next stands still until another party acts. -/
def State.roundStands (s : State) (c : CoreId) : Bool :=
  s.blocks.any (fun b => b.steady && b.die == c.die && b.core == c.core && !b.halted &&
    b.groups.any (fun g => g.active.map b.roundKey == some (s.roundNext c) && !g.retired &&
      (s.awaitsOthers b g || g.atSwap b)))

/-- The clock in which a fault halted the block is not over for a group that has not issued in it: several groups of one
block may fault in one clock (R380). -/
def State.sameClock (s : State) : Bool :=
  let b := s.blk
  b.halting == some .fault && b.haltSince == s.time && decide (s.grp.lastIssue < b.haltClock)

/-- Whether the group's block lets it issue: it is not halting, or a latch-only value exists, or a steady round is
not over (R71, R84). While a latch-only value exists a group whose instruction faults precisely issues it again (R91;
assumption 69). -/
def State.mayIssue (s : State) : Bool :=
  let b := s.blk
  !b.halted && (b.halting.isNone || s.grp.latchOnly != 0 || (b.steady && !s.roundOver s.core) || s.sameClock) &&
    (!b.steady || (s.grp.active.map b.roundKey == some (s.roundNext s.core) && !s.awaitsOthers b s.grp))

/-! ### Settling the scheduler before a step -/

/-- Notes when each pending group became ready (R77). -/
def State.markReady (s : State) : State :=
  { s with blocks := s.blocks.map (fun b => { b with groups := b.groups.map (fun g =>
      if g.active.isNone && g.readyAt.isNone && s.groupReady b g then { g with readyAt := some s.clock } else g) }) }

/-- Active slots of a core that a group occupies. -/
def State.slotsUsed (s : State) (c : CoreId) : List Nat :=
  s.blocks.flatMap (fun b =>
    if b.die = c.die ∧ b.core = c.core then
      (b.groups.filter (fun g => !g.retired)).filterMap (fun g => g.active)
    else [])

/-- Fills the free active slots of a core with pending groups (R75, R76, R84). -/
def State.fillFrom (s : State) (c : CoreId) : List Nat → State
  | [] => s
  | k :: ks =>
    if (s.slotsUsed c).contains k then s.fillFrom c ks
    else
      match s.nextReady c false with
      | none => s
      | some (i, j) => (s.activate i j k).fillFrom c ks

/-- The lowest free active slot is filled first (R75; assumption 68). -/
def State.fillSlots (s : State) (c : CoreId) : State := s.fillFrom c (List.range 8)

/-- Cores that hold a block, each once. -/
def State.coresInUse (s : State) : List CoreId := (s.blocks.map (fun b => (⟨b.die, b.core⟩ : CoreId))).eraseDups

/-- Active groups of non-steady blocks at unmet swap points, by index. -/
def State.swapList (s : State) : List (Nat × Nat) :=
  (s.blocks.mapIdx (fun i b => (i, b))).flatMap (fun (i, b) =>
    if b.runs && !b.steady then
      ((b.groups.mapIdx (fun j g => (j, g))).filter (fun x => x.2.active.isSome && x.2.atSwap b)).map (fun x => (i, x.1))
    else [])

/-- Before each step the cores' schedulers stand as their rules put them: every satisfied `WAITM` has its value, free active
slots are filled, and a group that stayed at its swap point is
exchanged once a pending group is ready (R51, R76; assumption 14). -/
def State.settle (s : State) : State :=
  let t := s.poll.markReady
  let t := t.coresInUse.foldl (fun t c => t.fillSlots c) t
  t.swapList.foldl (fun t x => t.swapOut x.1 x.2) t

end Sys2Proof.Machine
end

