-- ==== Sys2Proof/Machine/Blocks.lean ====
section
/-! DEFINITION. Committing a block's write buffer, discarding a block and halting a context (spec 02 R42 to R44; 19 R383;
20 R411; 22 R435). -/

namespace Sys2Proof.Machine

/-! ### Committing a write buffer (R42, R43) -/

/-- A line of the present block's buffer reaches its home. The core's own copy of it is written back and dropped first, so that
later loads of the core fill what was committed (assumption 57). A failing word at the home that it replaces in part is reported
to the group that stored into the line, and where that has retired, to nobody but the context (R435, R387). -/
def State.commitLine (s : State) (w : WLine) : State :=
  let go (u : State) : State :=
    let t := (u.flushLine u.core w.line).poll
    (t.storeCells w.cells).noteEcc (t.partBad (w.cells.map (fun c => c.1)))
  match s.blk.groups.findIdx? (fun g => g.num == w.src && !g.retired) with
  | some j => s.within s.cur.blk j (fun u => u.writesBack w.org go)
  | none => go s

/-- Commits the present block's buffer to the homes (R42, R43). DESIGN CHOICE: a plain load of another group during the commit may
see some committed lines and not others: here the commit is one step, so that none does (assumption 57). -/
def State.commitBuf (s : State) : State :=
  (s.blk.wbuf.foldl State.commitLine s).modBlk (fun b => { b with wbuf := [] })

/-- Pins a restartable block: its buffer is committed first (R42). -/
def State.pin (s : State) : State :=
  if s.blk.buffers then s.commitBuf.modBlk (fun b => { b with pinned := true }) else s

/-! ### Discards (R44) -/

/-- Requests of a block that is discarded or dropped: what has not left goes, and what has left is of no group. -/
def State.orphan (s : State) (b : BlockRef) : State :=
  { s with reqs := (s.reqs.filter (fun r => r.left || r.owner.block != b)).map (fun r =>
      if r.owner.block = b then { r with owner := ⟨⟨⟨65, 0⟩, 0⟩, 0⟩ } else r) }

/-- The group of a block that issued last: its number and its issues so far name the point of a discard (note (d) of
R19; assumption 59). -/
def Block.lastIssuer (b : Block) : Nat × Nat :=
  (b.groups.foldl (fun (r : Nat × Nat × Nat) g =>
    if g.issues ≠ 0 ∧ r.1 ≤ g.lastIssue then (g.lastIssue, g.num, g.issues) else r) (0, 0, 0)).2

/-- POINT of a discard of a block now. -/
def Block.discardPoint (b : Block) : Nat := pointOf b.ref.block b.lastIssuer.1 b.lastIssuer.2

/-- The next discard of a block that a replayed log holds: its place and POINT (R231). -/
def State.nextDiscard (s : State) (b : Block) : Option (Launch × Nat × Nat) :=
  match s.replayOf b with
  | none => none
  | some x =>
    match s.findLog x (fun t p payload => t == 6 && payload.length == 4 && p % 2 ^ 24 == b.ref.block % 2 ^ 24) with
    | .entry off _ p _ => some (x, off, p)
    | _ => none

/-- Record logs a discard with its point; replay takes the entry that names it (R230 type 6, R231). -/
def State.discardInput (s : State) : State :=
  let b := s.blk
  match s.nextDiscard b with
  | some (x, off, p) => if p = b.discardPoint then s.takeLog x off else s
  | none => s.logEntry b.ref.launch 6 b.discardPoint (leBytes b.ref.block 4)

/-- Drops the present block and queues it to run again from its start; what it waits for then is the core that its map names
(R44, R69). -/
def State.discardBlk (s : State) : State :=
  let b := s.blk
  let t := s.discardInput.orphan b.ref
  let t := { t with blocks := t.blocks.eraseIdx s.cur.blk }
  t.modLaunch b.ref.launch (fun x => { x with again := x.again ++ [⟨b.ref.block, b.die, b.named, s.time⟩] })

/-- A block of a replayed launch that stands where its log names a discard (note (d) of R19). A pinned block is discarded never
(R42). -/
def State.dueDiscard (s : State) : Option BlockRef :=
  (s.blocks.find? (fun b => b.buffers && (s.nextDiscard b).any (fun x => x.2.2 == b.discardPoint))).map (fun b => b.ref)

/-- Discards a block, whichever is seated. -/
def State.discardAt (s : State) (b : BlockRef) : State :=
  match s.seatBlk b with
  | none => s
  | some u => { u.discardBlk with cur := s.cur }

/-- Halts a context (R383): no block of it is dispatched, every resident block is asked to halt and is held, every
saved one is held, and one record with SCOPE 1 is written. -/
def State.contextHalt (s : State) (ctx : Nat) (r : FaultRec) : State :=
  let c := s.ctx ctx
  let t := s.setCtx ctx { c with halted := true }
  let t := { t with
    blocks := t.blocks.map (fun (b : Block) =>
      if b.ctx = ctx then { s.askHalt (.context true) b with held := true } else b)
    saved := t.saved.map (fun (x : Saved) => if x.blk.ctx = ctx then { x with blk := { x.blk with held := true } } else x) }
  t.faultRecord ctx { r with scope := 1 }

/-- An uncorrectable error in a buffer line found at a commit (R411): no byte is committed, the block is discarded
and runs again, and a record with SCOPE 3 is written; a second one in the same block halts the context. -/
def State.bufferEcc (s : State) (w : WLine) : State :=
  let b := s.blk
  let again := ((s.launch? b.ref.launch).elim [] (fun x => x.eccDone)).contains b.ref.block
  let r : FaultRec := { code := 0x50, scope := 3, launch := launchId b.ref.launch, block := b.ref.block,
                        die := b.die, core := b.core, addr := some (BitVec.ofNat 64 (128 * w.line)), phys := true }
  let t := ((s.faultRecord b.ctx r).noteStatus b.ref.launch 0x50).discardBlk.modLaunch b.ref.launch (fun x =>
    { x with eccDone := x.eccDone ++ [b.ref.block] })
  if again then t.contextHalt b.ctx { r with scope := 1 } else t

end Sys2Proof.Machine
end

