-- ==== Sys2Proof/Machine/Integer.lean ====
section
/-! DEFINITION. Integer arithmetic, class 0x0 (spec 12 R269 to R271, tags by 04 R93 and R94). -/

namespace Sys2Proof.Machine

/-- The end of an issue as an outcome. -/
def State.done (s : State) (h : Hdr) : Host.Outcome State Fault Refusal := .next (s.fin h)

/-- A lane-wise 32-bit result in the lanes of active(g) (R270). -/
def State.laneWise (s : State) (h : Hdr) (d : Opnd) (val : Nat → Word) (full : Option VReg) :
    Host.Outcome State Fault Refusal :=
  (s.write (s.lane h) d val full).done h

/-- A lane-wise 64-bit result in the lanes of active(g). -/
def State.laneWise64 (s : State) (h : Hdr) (d : Opnd) (val : Nat → Dword) (uniform : Bool) :
    Host.Outcome State Fault Refusal :=
  (s.write64 (s.lane h) d val uniform).done h

/-- A result of an integer type: wrapped, or clamped for `.sat` (R271). -/
def intOut (t : ITy) (sat : Bool) (x : Int) : Word := if sat then ITy.putSat t x else ITy.put t x

/-- The conditions R94 sets on type, `.sat` and modifiers. -/
def affineType (m : Mods) (t : ITy) (sat : Bool) : Bool := t.is32 && !sat && m == Mods.none

/-- The tag of a full result with the affine rule `f` of R94, or U by R93. -/
def Group.tag2 (g : Group) (ok : Bool) (a b : Opnd) (val : Nat → Word)
    (f : Word × Word → Word × Word → Option VReg) : Option VReg :=
  match tagU (g.isU a && g.isU b) val with
  | some r => some r
  | none =>
    match ok, g.affine a, g.affine b with
    | true, some x, some y => f x y
    | _, _, _ => none

def execIadd (h : Hdr) (m : Mods) (t : ITy) (sat : Bool) (d a b : Opnd) (s : State) :
    Host.Outcome State Fault Refusal :=
  let g := s.grp
  let val (l : Nat) : Word := intOut t sat (g.int t (m.a a) l + g.int t (m.b b) l)
  s.laneWise h d val (g.tag2 (affineType m t sat) a b val
    (fun x y => some (affineReg (x.1 + y.1) (x.2 + y.2))))

def execIsub (h : Hdr) (m : Mods) (t : ITy) (sat : Bool) (d a b : Opnd) (s : State) :
    Host.Outcome State Fault Refusal :=
  let g := s.grp
  let val (l : Nat) : Word := intOut t sat (g.int t (m.a a) l - g.int t (m.b b) l)
  s.laneWise h d val (g.tag2 (affineType m t sat) a b val
    (fun x y => some (affineReg (x.1 - y.1) (x.2 - y.2))))

def execIadd3 (h : Hdr) (m : Mods) (t : ITy) (sat : Bool) (d a b c : Opnd) (s : State) :
    Host.Outcome State Fault Refusal :=
  let g := s.grp
  let val (l : Nat) : Word := intOut t sat (g.int t (m.a a) l + g.int t (m.b b) l + g.int t (m.c c) l)
  s.laneWise h d val (tagU (g.isU a && g.isU b && g.isU c) val)

/-- `IADDC` and `ISUBB`: the exact value in each lane to D, and the carry or borrow to the predicate. -/
def State.carryOp (s : State) (h : Hdr) (d : Opnd) (pe : PField) (x : Nat → Int) (c : Nat → Bool) :
    Host.Outcome State Fault Refusal :=
  ((s.write (s.lane h) d (fun l => BitVec.ofInt 32 (x l)) none).writeP (s.lane h) pe c).done h

def execIaddc (h : Hdr) (m : Mods) (d a b : Opnd) (pc pe : PField) (s : State) :
    Host.Outcome State Fault Refusal :=
  let g := s.grp
  let x (l : Nat) : Int := (g.word (m.a a) l).toNat + (g.word (m.b b) l).toNat + (if g.pfield pc l then 1 else 0)
  s.carryOp h d pe x (fun l => decide (2 ^ 32 ≤ x l))

def execIsubb (h : Hdr) (m : Mods) (d a b : Opnd) (pc pe : PField) (s : State) :
    Host.Outcome State Fault Refusal :=
  let g := s.grp
  let x (l : Nat) : Int := ((g.word (m.a a) l).toNat : Int) - (g.word (m.b b) l).toNat - (if g.pfield pc l then 1 else 0)
  s.carryOp h d pe x (fun l => decide (x l < 0))

def execImul (h : Hdr) (m : Mods) (t : ITy) (sat : Bool) (d a b : Opnd) (s : State) :
    Host.Outcome State Fault Refusal :=
  let g := s.grp
  let val (l : Nat) : Word := intOut t sat (g.int t (m.a a) l * g.int t (m.b b) l)
  s.laneWise h d val (g.tag2 (affineType m t sat) a b val (fun x y =>
    if y.2 = 0 then some (affineReg (x.1 * y.1) (x.2 * y.1))
    else if x.2 = 0 then some (affineReg (y.1 * x.1) (y.2 * x.1))
    else none))

def execImulh (h : Hdr) (m : Mods) (t : ITy) (d a b : Opnd) (s : State) : Host.Outcome State Fault Refusal :=
  let g := s.grp
  let val (l : Nat) : Word := (BitVec.ofInt 64 (g.int t (m.a a) l * g.int t (m.b b) l)).extractLsb' 32 32
  s.laneWise h d val (tagU (g.isU a && g.isU b) val)

def execImad (h : Hdr) (m : Mods) (t : ITy) (sat : Bool) (d a b c : Opnd) (s : State) :
    Host.Outcome State Fault Refusal :=
  let g := s.grp
  let val (l : Nat) : Word := intOut t sat (g.int t (m.a a) l * g.int t (m.b b) l + g.int t (m.c c) l)
  s.laneWise h d val (tagU (g.isU a && g.isU b && g.isU c) val)

def execImadw (h : Hdr) (m : Mods) (t : ITy) (d a b c : Opnd) (s : State) : Host.Outcome State Fault Refusal :=
  let g := s.grp
  let val (l : Nat) : Dword := BitVec.ofInt 64 (g.int t (m.a a) l * g.int t (m.b b) l) + g.dword (m.c c) l
  s.laneWise64 h d val (g.isU a && g.isU b && g.isU64 c)

def execImin (h : Hdr) (m : Mods) (t : ITy) (d a b : Opnd) (s : State) : Host.Outcome State Fault Refusal :=
  let g := s.grp
  let val (l : Nat) : Word := ITy.put t (min (g.int t (m.a a) l) (g.int t (m.b b) l))
  s.laneWise h d val (tagU (g.isU a && g.isU b) val)

def execImax (h : Hdr) (m : Mods) (t : ITy) (d a b : Opnd) (s : State) : Host.Outcome State Fault Refusal :=
  let g := s.grp
  let val (l : Nat) : Word := ITy.put t (max (g.int t (m.a a) l) (g.int t (m.b b) l))
  s.laneWise h d val (tagU (g.isU a && g.isU b) val)

def execIabs (h : Hdr) (m : Mods) (t : ITy) (sat : Bool) (d a : Opnd) (s : State) :
    Host.Outcome State Fault Refusal :=
  let g := s.grp
  let val (l : Nat) : Word := intOut t sat (g.int t (m.a a) l).natAbs
  s.laneWise h d val (tagU (g.isU a) val)

def execIsad (h : Hdr) (m : Mods) (t : ITy) (d a b c : Opnd) (s : State) : Host.Outcome State Fault Refusal :=
  let g := s.grp
  let val (l : Nat) : Word :=
    BitVec.ofNat 32 (g.int t (m.a a) l - g.int t (m.b b) l).natAbs + g.word (m.c c) l
  s.laneWise h d val (tagU (g.isU a && g.isU b && g.isU c) val)

/-- Byte `i` of a source of `IDOT4` after its modifiers, at 8 bits. -/
def Group.dotByte (g : Group) (t : ITy) (x : Src) (i l : Nat) : Int :=
  ITy.rd t (intModT t x.neg x.abs (g.read x.o l >>> (8 * i)))

/-- The type `IDOT4` saturates and reads its addend in: I32 for `.i8`, N32 for `.n8`. -/
def dotType (t : ITy) : ITy := if ITy.signed t then .i32 else .n32

def execIdot4 (h : Hdr) (m : Mods) (t : ITy) (sat : Bool) (d a b c : Opnd) (s : State) :
    Host.Outcome State Fault Refusal :=
  let g := s.grp
  let p (i l : Nat) : Int := g.dotByte t (m.a a) i l * g.dotByte t (m.b b) i l
  let val (l : Nat) : Word :=
    intOut (dotType t) sat (p 0 l + p 1 l + p 2 l + p 3 l + ITy.rd (dotType t) (g.word (m.c c) l))
  s.laneWise h d val (tagU (g.isU a && g.isU b && g.isU c) val)

def execLea (h : Hdr) (m : Mods) (t : ITy) (k : BitVec 3) (d a b : Opnd) (s : State) :
    Host.Outcome State Fault Refusal :=
  let g := s.grp
  let val (l : Nat) : Dword := g.dword (m.a a) l + BitVec.ofInt 64 (g.int t (m.b b) l * 2 ^ k.toNat)
  s.laneWise64 h d val (g.isU64 a && g.isU b)

def execIadd64 (h : Hdr) (m : Mods) (d a b : Opnd) (s : State) : Host.Outcome State Fault Refusal :=
  let g := s.grp
  s.laneWise64 h d (fun l => g.dword (m.a a) l + g.dword (m.b b) l) (g.isU64 a && g.isU64 b)

def execIsub64 (h : Hdr) (m : Mods) (d a b : Opnd) (s : State) : Host.Outcome State Fault Refusal :=
  let g := s.grp
  s.laneWise64 h d (fun l => g.dword (m.a a) l - g.dword (m.b b) l) (g.isU64 a && g.isU64 b)

/-- Tags of a full `MOV.64` between vector pairs: the rule of `MOV` for both registers when both have a base
and a stride (R271; assumption 10). -/
def Group.movTags (g : Group) (m : Mods) (a : Opnd) : Option (VReg × VReg) :=
  match a with
  | .v n =>
    match g.affine (.v n), g.affine (.v (n + 1)) with
    | some x, some y => if m == Mods.none then some (affineReg x.1 x.2, affineReg y.1 y.2) else none
    | _, _ => none
  | _ => none

def execMov (h : Hdr) (m : Mods) (w64 : Bool) (d a : Opnd) (s : State) : Host.Outcome State Fault Refusal :=
  let g := s.grp
  if w64 then
    let t := s.write64 (s.lane h) d (fun l => g.dword (m.a a) l) (g.isU64 a)
    match d, isFull (s.lane h), g.movTags m a with
    | .v n, true, some (lo, hi) => (t.modGrp (fun g => (g.setV n.toNat lo).setV (n.toNat + 1) hi)).done h
    | _, _, _ => t.done h
  else
    let val (l : Nat) : Word := g.word (m.a a) l
    s.laneWise h d val (g.tag2 (m == Mods.none) a .zero val (fun x _ => some (affineReg x.1 x.2)))

def execMovi (h : Hdr) (w64 : Bool) (d : Opnd) (imm : Word) (s : State) : Host.Outcome State Fault Refusal :=
  if w64 then s.laneWise64 h d (fun _ => imm.signExtend 64) true
  else s.laneWise h d (fun _ => imm) (some (.u imm))

end Sys2Proof.Machine
end

