-- ==== Sys2Proof/Machine/MemPipe.lean ====
section
/-! DEFINITION. The memory pipe of a group: what holds an access back, how one access performs, how loads return
and how fences end (spec 06 R153 to R155; 07 R170 to R181; 22 R435). Operations of paths G and S stand in
`Group.memops` in program order until they return. -/

namespace Sys2Proof.Machine

/-- The last action of a fence on the core's L1 (R177, R435): the write-back and invalidation of an acquire or of side G. -/
def State.fenceAct (s : State) : Fence → State
  | .fence .rel _ _ _ _ => s
  | .fence _ sc _ _ o => if scopeDev sc then s.writesBack o (fun s => s.flushAll s.core) else s
  | .fencex _ b _ _ o => if b = .g then s.writesBack o (fun s => s.flushAll s.core) else s

/-- The next action of a pending fence of the present group: its write-back, or its end. Fences end each by itself, a
later one too while an earlier one waits (R181). -/
def State.endFence (s : State) : State :=
  match s.grp.fences.find? (s.grp.fenceMoves s.blk.halted) with
  | none => s
  | some f =>
    if s.grp.fenceWrites f then
      (s.writesBack f.org (fun s => s.writeBackAll s.core)).modGrp (fun g =>
        { g with fences := g.fences.map (fun x => if x = f then x.setWrote else x) })
    else (s.fenceAct f).modGrp (fun g => { g with fences := g.fences.erase f })

/-! ### When an access may perform (R174 to R176, R179) -/

/-- An operation that has still to perform: a load or a returning atomic with an access left, and one of path S while it
stands in the list, a `STM` that writes no byte among them (R307). -/
def MemOp.pending (o : MemOp) : Bool := !o.acc.isEmpty || o.path == .s

/-- A release may take its write-back of L1: steps 1 and 2 of R176 are over. -/
def Group.releaseWrites (g : Group) (o : MemOp) : Bool :=
  o.releases && !o.wrote && !o.acc.isEmpty && g.loadsDone o.seq && g.storesDone o.seq && !g.fenced o.seq false

/-- Whether the next access of an operation may perform. -/
def Group.mayPerform (g : Group) (o : MemOp) : Bool :=
  let before := g.opsBefore o.seq
  let rel := !o.releases || (g.relReady true o.seq && (!o.ord.pod || g.acked o.seq) && o.wrote)
  match o.kind with
  | .load => before.all (fun p => p.acc.isEmpty || !p.holdsLoad o) && !g.fenced o.seq true
  | _ => before.all (fun p => !p.pending) && !g.fenced o.seq false && rel

/-- Whether an operation can do something now. -/
def Group.moves (g : Group) (o : MemOp) : Bool := o.pending && (g.releaseWrites o || g.mayPerform o)

/-! ### Atomics (R308) -/

/-- The integer type of an atomic. -/
def ATy.bits : ATy → Nat
  | .n64 | .i64 => 64
  | _ => 32

def ATy.sgn : ATy → Bool
  | .i32 | .i64 => true
  | _ => false

/-- The data of an atomic in a lane, in its type (R244, R308). -/
def Group.atomData (g : Group) (t : ATy) (o : Opnd) (l : Nat) : Nat :=
  if t = .f32 then g.fbits0 .f32 o 0 l else g.data o (ATy.bytes t / 4) l

/-- A word of an atomic as an integer. -/
def ATy.val (t : ATy) (x : Nat) : Int :=
  let n := x % 2 ^ ATy.bits t
  if ATy.sgn t && decide (2 ^ (ATy.bits t - 1) ≤ n) then (n : Int) - (2 ^ ATy.bits t : Nat) else n

/-- An FP32 operation of an atomic: RNE, canonical NaN, no flag. -/
def atomF (y : Exact) : Nat := (rne .f32 y.1).bits

/-- new(old, b) of R308. -/
def atomNew (op : AOp) (t : ATy) (old b : Nat) : Nat :=
  let w := 2 ^ ATy.bits t
  match t, op with
  | .f32, .min => atomF (fMinMax false (unpack .f32 old) (unpack .f32 b))
  | .f32, .max => atomF (fMinMax true (unpack .f32 old) (unpack .f32 b))
  | .f32, _ => atomF (fAdd .rne (unpack .f32 old) (unpack .f32 b))
  | _, .add => (old + b) % w
  | _, .min => if ATy.val t b < ATy.val t old then b % w else old
  | _, .max => if ATy.val t old < ATy.val t b then b % w else old
  | _, .and => old &&& b % w
  | _, .or => old ||| b % w
  | _, .xor => old ^^^ b % w
  | _, .exch | _, .cas => b % w

/-- An atomic writes its word: a failed compare makes no write (R308). -/
def atomWrites (op : AOp) (t : ATy) (old c : Nat) : Bool := !(op == .cas && old != c % 2 ^ ATy.bits t)

/-- The word after an atomic: unchanged for a failed compare. -/
def atomResult (op : AOp) (t : ATy) (old b c : Nat) : Nat :=
  if atomWrites op t old c then atomNew op t old b else old

/-! ### Performing one access -/

/-- An uncorrectable error with its physical address (R435). -/
def eccFault (pa : Nat) : FaultInfo := { code := 0x50, addr := some (BitVec.ofNat 64 pa), phys := true }

/-- A word of `n` bytes at `pa` among those named. -/
def touches (ws : List Nat) (pa n : Nat) : Bool := ws.any (fun w => decide (pa / 8 ≤ w ∧ w ≤ (pa + n - 1) / 8))

/-- Whether a load of `n` bytes meets an uncorrectable error: in a dirty line of L1, or at the home when it reads
there or when the failing copy is clean and is filled again (R435). -/
def State.loadBad (s : State) (home : Bool) (pa n : Nat) : Bool :=
  match s.l1Find s.core (pa / 128) with
  | none => s.badAt pa n
  | some x =>
    if touches x.bad pa n then x.dirty != 0 || s.badAt pa n
    else home && s.badAt pa n

/-- An uncorrectable word met by an operation after its issue is reported to the issuing group with IMPREC
(R387, R435). -/
def State.accessEcc (s : State) (o : MemOp) (pa : Nat) : State :=
  s.modGrp (fun g => g.async (s.eccAsync o.org pa true))

/-- Reads bytes where a load performs (R172, R173), over the block's write buffer and the group's store queue. An error
that has come up since the issue is reported with IMPREC, and the stored bits are returned (assumption 58). -/
def State.loadBytes (s : State) (o : MemOp) (a : Access) : List Byte × State :=
  let s := s.l1Clean s.core (a.pa / 128)
  let s := if s.loadBad a.home a.pa a.len then s.accessEcc o a.pa else s
  let hit := (s.l1Find s.core (a.pa / 128)).isSome
  let (raw, t) := if a.home then s.loadHome o.org a.pa a.len else s.l1Load s.core s.blk.ctx a.pa a.len
  let t := if a.home || a.helper then t else t.count (if hit then 8 else 9) 1
  let g := t.grp
  let bytes := (t.overBuf a.pa raw).mapIdx (fun i b => (g.queued o.seq (a.pa + i)).getD b)
  t.loadInput o.org o.seq a.pa (t.readExts a.home o.seq a.pa a.len) bytes

/-- A store of a block that buffers none, where it performs (R172). A failing word that it does not replace
whole keeps its bits (R387). -/
def State.storeOut (s : State) (o : MemOp) (a : Access) : State :=
  let bytes := leBytes a.data a.len
  let s := s.l1Clean s.core (a.pa / 128)
  if a.home then
    let t := s.writesBack o.org (fun s => s.homeStore s.core a.pa bytes)
    -- a word that the copy's bytes replace in part has been reported already
    let told := (t.grp.asyncs.drop s.grp.asyncs.length).map (fun f => f.addr)
    if (s.homePart s.core a.pa a.len).all (fun w => told.contains (some (BitVec.ofNat 64 (8 * w)))) then t else t.accessEcc o a.pa
  else
    let t := s.l1Store s.core s.blk.ctx a.pa bytes
    if (t.l1Part t.core a.pa a.len).isEmpty then t else t.accessEcc o a.pa

/-- A store performs: into the write buffer of an unpinned restartable block, which is pinned first when no line
is free (R40, R42), else where `storeOut` says. -/
def State.storeAccess (s : State) (o : MemOp) (a : Access) : State :=
  if s.blk.buffers then
    if s.bufFull a.pa then
      match s.badBuf with
      | some w => s.bufferEcc w
      | none => s.pin.storeOut o a
    else (s.bufRoom a.pa).modBlk (fun b => b.bufStore a.pa (leBytes a.data a.len) s.grp.num o.org)
  else s.storeOut o a

/-- An atomic or a reduction performs at the home (R153, R175, R176), and ignores a hint (R305). The value read, and the
state. DESIGN CHOICE: the core's copy of the line, which R153 flushes when the atomic issues, is written back and dropped once
more when a lane performs (assumption 72). Each of the two writes at the home is one that a `WAITM` sees (R318). -/
def State.atomAccess (s : State) (o : MemOp) (op : AOp) (ty : ATy) (a : Access) (last : Bool) : Nat × State :=
  let t := (s.writesBack o.org (fun s => s.flushLine s.core (a.pa / 128))).poll
  if t.badAt a.pa a.len then (leNat (t.homeRead a.pa a.len), t.accessEcc o a.pa)
  else
    let (bytes, t) :=
      if o.isLoad then t.loadInput o.org o.seq a.pa (t.readExts true o.seq a.pa a.len) (t.homeRead a.pa a.len)
      else (t.homeRead a.pa a.len, t)
    let old := leNat bytes
    let u :=
      if atomWrites op ty old a.cmp then t.homeWrite a.pa (leBytes (atomNew op ty old a.data) a.len) else t
    (old, if o.acquires && last then u.writesBack o.org (fun u => u.flushAll u.core) else u)

/-- A cache control performs (R309). -/
def State.cctlAccess (s : State) (o : MemOp) (op : CctlOp) (a : Access) : State :=
  s.writesBack o.org fun s => match op with
  | .wb => s.writeBack s.core (a.pa / 128)
  | .inv => s.flushLine s.core (a.pa / 128)
  | .wball => s.writeBackAll s.core
  | .invall => s.flushAll s.core

/-- Replaces an operation of the present group. -/
def Group.putOp (g : Group) (o : MemOp) : Group :=
  { g with memops := g.memops.map (fun p => if p.seq = o.seq then o else p) }

/-- Removes an operation: it has returned (R155). -/
def Group.dropOp (g : Group) (n : Nat) : Group :=
  { g with memops := g.memops.filter (fun p => p.seq != n) }

/-- What a part of a loaded value adds to the value of its lane. -/
def gather (got : Tbl Nat) (a : Access) (v : Nat) : Tbl Nat :=
  Tbl.insert got a.lane (Tbl.get 0 got a.lane + v * 2 ^ a.sh)

/-- The next action of operation `o` of the present group, if it has one: the write-back of a release, or the next
access. A store or a reduction returns with its last access (R155); a store without any returns in its turn (R307). -/
def State.performNext (s : State) (o : MemOp) : State :=
  if s.grp.releaseWrites o then
    (s.writesBack o.org (fun s => s.writeBackAll s.core)).modGrp (fun g => g.putOp { o with wrote := true })
  else if !s.grp.mayPerform o then s
  else
    match o.acc with
    | [] => if o.path == .s then s.modGrp (fun g => g.dropOp o.seq) else s
    | a :: as =>
      let o' := { o with acc := as }
      match o.kind with
      | .load =>
        let (bytes, t) := s.loadBytes o a
        let t := t.noteHint t.core a.pa o.hint
        let t := if o.acquires && as.isEmpty then t.writesBack o.org (fun t => t.flushAll t.core) else t
        t.modGrp (fun g => g.putOp { o' with got := gather o.got a (leNat bytes) })
      | .store =>
        let n := s.blocks.length
        let t := s.storeAccess o a
        if t.blocks.length < n then t
        else (t.noteHint t.core a.pa o.hint).modGrp (fun g => if as.isEmpty then g.dropOp o.seq else g.putOp o')
      | .atom op ty =>
        let (old, t) := s.atomAccess o op ty a as.isEmpty
        t.modGrp (fun g =>
          if as.isEmpty && o.path == .s then g.dropOp o.seq
          else g.putOp { o' with got := gather o.got a old })
      | .cctl op =>
        (s.cctlAccess o op a).modGrp (fun g => if as.isEmpty then g.dropOp o.seq else g.putOp o')

/-- The next action of the operation with number `n`. -/
def State.performOp (s : State) (n : Nat) : State :=
  match s.grp.memops.find? (fun o => o.seq == n) with
  | none => s
  | some o => s.performNext o

/-! ### Returns -/

/-- Word `i` of a loaded value, extended (R304). -/
def loadWord (sz : Size) (v i : Nat) : Word :=
  match sz with
  | .s8 => (BitVec.ofNat 8 v).signExtend 32
  | .s16 => (BitVec.ofNat 16 v).signExtend 32
  | _ => BitVec.ofNat 32 (v / 2 ^ (32 * i))

/-- Writes returned values: vector registers in the lanes that received one, tagged G, or scalars (R302). -/
def Group.deliver (g : Group) (d : Dest) (got : Tbl Nat) : Group :=
  (List.range d.n).foldl (fun g i =>
    if d.scalar then
      match got with
      | [] => g
      | (_, v) :: _ => g.setS (d.base + i) (loadWord d.size v i)
    else
      g.setV (d.base + i) ((g.vreg (d.base + i)).write (fun l => got.any (fun e => e.1 == l))
        (fun l => loadWord d.size (Tbl.get 0 got l) i) none)) g

/-- The registers that values for some lanes replace whole: a scalar, or a vector register in all its lanes (R387). -/
def Dest.renews (d : Dest) (lanes : List Nat) : List Nat :=
  if if d.scalar then !lanes.isEmpty else (List.range numLanes).all lanes.contains then d.regs else []

/-- A load or a returning atomic returns: once every access has performed and no earlier one of path G is out. -/
def State.returnLoad (s : State) (n : Nat) : State :=
  match s.grp.memops.find? (fun o => o.isLoad) with
  | none => s
  | some o =>
    if o.seq = n ∧ o.acc.isEmpty then
      (s.modGrp (fun g => (match o.dst with
        | none => g
        | some d => (g.deliver d o.got).renewed (d.renews (o.got.map (fun (x : Nat × Nat) => x.1)))).dropOp n)).inputsTaken o.org n
    else s

/-! ### Issue -/

/-- The issue waits in its active slot for room in its path's counter; this is no swap point (R155). -/
def State.roomFor (s : State) (p : Path) (k : State → Host.Outcome State Fault Refusal) :
    Host.Outcome State Fault Refusal :=
  if 63 ≤ s.grp.counter p then .next (s.waitFor (.counterFull p)) else k s

/-- A later instruction of the B path of a pending `FENCEX` waits (R181). -/
def State.unheld (s : State) (p : Path) (k : State → Host.Outcome State Fault Refusal) :
    Host.Outcome State Fault Refusal :=
  if s.grp.pathHeld p then .next (s.waitFor .fence) else k s

/-- Issues an operation: it joins the group's operations in program order. -/
def State.issueOp (s : State) (h : Hdr) (o : MemOp) : Host.Outcome State Fault Refusal :=
  (s.modGrp (fun g => { g with memops := g.memops ++ [o] })).done h

/-- A precise fault as an outcome. -/
def State.fail (s : State) (e : FaultInfo) : Host.Outcome State Fault Refusal := .next (s.trap e)

/-- The lowest beat that holds a quad of the issue set: the beat of a fault of steps 1 to 6, found before the lanes are
looked at (R373, R393). -/
def State.setBeat (s : State) : Nat := s.beats.headD 0

/-- A fault of steps 1 to 6. -/
def State.failStep (s : State) (e : FaultInfo) : Host.Outcome State Fault Refusal := s.fail { e with beat := s.setBeat }

/-- The beat of a form that acts once: that of its lowest executing lane, a helper lane where none else executes. -/
def State.onceBeat (s : State) (h : Hdr) : Nat :=
  match s.xs h, s.lanes h with
  | l :: _, _ => l / 32
  | [], l :: _ => l / 32
  | [], [] => s.setBeat

/-- A fault of a form that acts once. -/
def State.failOnce (s : State) (h : Hdr) (e : FaultInfo) : Host.Outcome State Fault Refusal :=
  s.fail { e with beat := s.onceBeat h }

/-- The first failing lane of a list of lane checks, or every lane's value: the lowest failing lane of the lowest
beat (R373). -/
def checkLanes {α : Type} (f : Nat → Except FaultInfo α) : List Nat → Except FaultInfo (List α)
  | [] => .ok []
  | l :: ls =>
    match f l with
    | .error e => .error { e with beat := l / 32 }
    | .ok a =>
      match checkLanes f ls with
      | .error e => .error e
      | .ok as => .ok (a :: as)

end Sys2Proof.Machine
end

