-- ==== Sys2Proof/Machine/Global.lean ====
section
/-! DEFINITION. Global memory instructions, class 0x8 (spec 14 R302 to R310; 02 R40, R41; 22 R432, R435, R449). -/

namespace Sys2Proof.Machine

/-! ### Addresses and their checks -/

/-- ea(l) of R240. -/
def Group.ea (g : Group) (a b : Opnd) (off : BitVec 18) (l : Nat) : Dword :=
  g.read64 a l + (g.read b l).signExtend 64 + off.signExtend 64

/-- A lane's global access: its physical address and whether it performs at the home. -/
def State.globalAt (s : State) (u : Use) (al : Nat) (atHome : Bool) (va : Dword) : Except FaultInfo (Nat × Bool) :=
  match s.transl s.core s.blk.ctx u al va with
  | .error e => .error e
  | .ok (pa, ct) => .ok (pa, atHome || ct == 1)

/-- A lane's load: as `globalAt`, and no uncorrectable error in what it reads. -/
def State.loadAt (s : State) (n : Nat) (atHome : Bool) (va : Dword) : Except FaultInfo (Nat × Bool) :=
  match s.globalAt .read n atHome va with
  | .error e => .error e
  | .ok (pa, home) => if s.loadBad home pa n then .error (eccFault pa) else .ok (pa, home)

/-- The register number of a destination operand. -/
def regNum : Opnd → Nat
  | .v n => n.toNat
  | .s n => n.toNat
  | .o n => n.toNat
  | _ => 0

/-- The destination group of a load. -/
def destOf (scalar : Bool) (d : Opnd) (sz : Size) : Dest := ⟨scalar, regNum d, sz.regs, sz⟩

/-- Scopes DEV and POD, the only ones a word holds beside plain, perform at the home (R172, R261); so does a load
with the bypass hint (R152). -/
def MOrd.home (o : MOrd) : Bool := o.kind != .plain

/-- The parts of a lane's access of `n` bytes: one, or two halves for 16 bytes (R171). DESIGN CHOICE: of two halves the lower
performs first (assumption 72). -/
def laneParts (lane pa n : Nat) (home : Bool) (data : Nat) (helper : Bool) : List Access :=
  if n = 16 then [⟨lane, pa, 8, home, data % 2 ^ 64, 0, 0, helper⟩, ⟨lane, pa + 8, 8, home, data / 2 ^ 64, 0, 64, helper⟩]
  else [⟨lane, pa, n, home, data, 0, 0, helper⟩]

/-- A restartable block may not issue a relaxed-strong store or a release of DEV or POD scope (R410), checked at
step 6 of R393. -/
def State.barsStrong (s : State) (o : MOrd) : Bool := s.blk.restartable && (o.kind == .rlx || o.kind == .rel || o.kind == .ar)

/-! ### Loads and stores (R306, R307) -/

/-- A load in the lanes named. -/
def State.loads (s : State) (h : Hdr) (lanes : List Nat) (ea : Nat → Dword) (hint : BitVec 3) (o : MOrd)
    (sz : Size) (dst : Dest) : Host.Outcome State Fault Refusal :=
  if lanes.isEmpty then s.done h
  else s.unheld .g fun s =>
    match checkLanes (fun l => s.loadAt sz.bytes (MOrd.home o || hint == 3) (ea l)) lanes with
    | .error e => s.fail e
    | .ok pas =>
      let counted := !(s.xs h).isEmpty
      let issue (s : State) : Host.Outcome State Fault Refusal :=
        s.issueOp h
          { seq := s.grp.issues, path := .g, kind := .load, ord := o,
            acc := (lanes.zip pas).flatMap (fun x =>
              laneParts x.1 x.2.1 sz.bytes x.2.2 0 (!dst.scalar && !s.xlane h x.1)),
            got := [], dst := some dst, counted := counted, wrote := false, hint := hint, org := s.origin }
      if counted then s.roomFor .g issue else issue s

def execLd (h : Hdr) (hint : BitVec 3) (ord : MOrd) (sz : Size) (d a b : Opnd) (off : BitVec 18) (s : State) :
    Host.Outcome State Fault Refusal :=
  s.loads h (s.lanes h) (s.grp.ea a b off) hint ord sz (destOf false d sz)

def execSld (h : Hdr) (hint : BitVec 3) (ord : MOrd) (sz : Size) (d a b : Opnd) (off : BitVec 18) (s : State) :
    Host.Outcome State Fault Refusal :=
  s.loads h ((s.xs h).take 1) (s.grp.ea a b off) hint ord sz (destOf true d sz)

/-- A store of `n` bytes in the lanes named. -/
def State.stores (s : State) (h : Hdr) (lanes : List Nat) (ea : Nat → Dword) (hint : BitVec 3) (o : MOrd) (n : Nat)
    (data : Nat → Nat) : Host.Outcome State Fault Refusal :=
  if s.barsStrong o then s.failStep (protFault none 1)
  else if lanes.isEmpty then s.done h
  else s.unheld .s fun s =>
    match checkLanes (fun l => s.globalAt .write n (MOrd.home o) (ea l)) lanes with
    | .error e => s.fail e
    | .ok pas => s.roomFor .s fun s =>
      s.issueOp h
        { seq := s.grp.issues, path := .s, kind := .store, ord := o,
          acc := (lanes.zip pas).flatMap (fun x => laneParts x.1 x.2.1 n x.2.2 (data x.1 % 2 ^ (8 * n)) false),
          got := [], dst := none, counted := true, wrote := false, hint := hint, org := s.origin }

def execSt (h : Hdr) (hint : BitVec 3) (ord : MOrd) (sz : Size) (d a b : Opnd) (off : BitVec 18) (s : State) :
    Host.Outcome State Fault Refusal :=
  s.stores h (s.xs h) (s.grp.ea a b off) hint ord sz.bytes (s.grp.data d sz.regs)

def execSst (h : Hdr) (hint : BitVec 3) (ord : MOrd) (sz : Size) (d a b : Opnd) (off : BitVec 18) (s : State) :
    Host.Outcome State Fault Refusal :=
  s.stores h ((s.xs h).take 1) (s.grp.ea a b off) hint ord sz.bytes (s.grp.data d sz.regs)

/-- The bytes that a lane of `STM` writes: the places of its mask. -/
def stmBytes (mask : Word) : List Nat := (List.range 8).filter (fun i => mask.getLsbD i)

/-- The accesses of a lane of `STM`: one for each selected byte (R171, R307). -/
def State.stmLane (s : State) (l : Nat) (e : Dword) (v : Dword) : List Nat → Except FaultInfo (List Access)
  | [] => .ok []
  | i :: is =>
    match s.globalAt .write 1 false (e + BitVec.ofNat 64 i) with
    | .error f => .error f
    | .ok (pa, home) =>
      match s.stmLane l e v is with
      | .error f => .error f
      | .ok as => .ok (⟨l, pa, 1, home, v.toNat / 2 ^ (8 * i) % 256, 0, 0, false⟩ :: as)

def execStm (h : Hdr) (hint : BitVec 3) (d a b : Opnd) (off : BitVec 18) (s : State) :
    Host.Outcome State Fault Refusal :=
  let g := s.grp
  let lanes := s.xs h
  if lanes.isEmpty then s.done h
  else s.unheld .s fun s =>
    match checkLanes (fun l => s.stmLane l (g.ea a .zero off l) (g.read64 d l) (stmBytes (g.read b l))) lanes with
    | .error e => s.fail e
    | .ok accs => s.roomFor .s fun s =>
      -- an issue that writes no byte counts all the same, and returns in order (R307)
      s.issueOp h
        { seq := s.grp.issues, path := .s, kind := .store, ord := ⟨.plain, false⟩, acc := accs.flatten,
          got := [], dst := none, counted := true, wrote := false, hint := hint, org := s.origin }

/-! ### Atomics and reductions (R308, R153, R175) -/

/-- Pins a restartable block before an instruction of R41; an error in its buffer discards it instead (R411). -/
def State.pinFirst (s : State) (k : State → Host.Outcome State Fault Refusal) : Host.Outcome State Fault Refusal :=
  if s.blk.buffers then
    match s.badBuf with
    | some w => .next (s.bufferEcc w)
    | none => k s.pin
  else k s

/-- A lane's atomic; one that returns its value reports an uncorrectable word at issue (R435). -/
def State.atomAt (s : State) (returns : Bool) (n : Nat) (va : Dword) : Except FaultInfo Nat :=
  match s.globalAt .atomic n true va with
  | .error e => .error e
  | .ok (pa, _) => if returns && s.loadBad true pa n then .error (eccFault pa) else .ok pa

/-- `ATOM` and `RED`: each lane's access performs at the home in ascending lane order. -/
def State.atoms (s : State) (h : Hdr) (hint : BitVec 3) (o : MOrd) (op : AOp) (a b c e : Opnd) (dst : Option Opnd) :
    Host.Outcome State Fault Refusal :=
  let g := s.grp
  let ty := (ATy.ofOpnd e).getD .n32
  let n := ty.bytes
  let path : Path := if dst.isSome then .g else .s
  let lanes := s.xs h
  if s.blk.restartable && (o.kind == .rel || o.kind == .ar) then s.failStep (protFault none 1)
  else if lanes.isEmpty then s.done h
  else s.unheld path fun s =>
    match checkLanes (fun l => s.atomAt dst.isSome n (g.read64 a l)) lanes with
    | .error f => s.fail f
    | .ok pas => s.roomFor path fun s => s.pinFirst fun s =>
      let t := pas.foldl (fun t pa => t.writesBack t.origin (fun t => t.flushLine t.core (pa / 128))) s
      let acc (x : Nat × Nat) : Access :=
        ⟨x.1, x.2, n, true, g.atomData ty b x.1, if op = .cas then g.atomData ty c x.1 else 0, 0, false⟩
      (t.count 0x0A 1).issueOp h
        { seq := s.grp.issues, path := path, kind := .atom op ty, ord := o, acc := (lanes.zip pas).map acc,
          got := [], dst := dst.map (fun d => ⟨false, regNum d, n / 4, if n = 8 then .b64 else .b32⟩),
          counted := true, wrote := false, hint := hint, org := s.origin }

def execAtom (h : Hdr) (hint : BitVec 3) (ord : MOrd) (op_ : AOp) (d a b c e : Opnd) (s : State) :
    Host.Outcome State Fault Refusal :=
  s.atoms h hint ord op_ a b c e (if d = .zero then none else some d)

def execRed (h : Hdr) (hint : BitVec 3) (ord : MOrd) (op_ : AOp) (a b e : Opnd) (s : State) :
    Host.Outcome State Fault Refusal :=
  s.atoms h hint ord op_ a b .zero e none

/-! ### Prefetch and cache control (R309, R432) -/

/-- One lane of `PREF`: a fill, or nothing and one drop counted. Helper lanes count nothing (R31). -/
def State.prefLane (s : State) (h : Hdr) (hint : BitVec 3) (l2 : Bool) (ea : Nat → Dword) (l : Nat) : State :=
  match s.globalAt .read 1 false (ea l) with
  | .error _ => if s.xlane h l then s.count 0x12 1 else s
  | .ok (pa, home) =>
    if inHost pa then (if s.xlane h l then s.count 0x12 1 else s)
    else
      (if l2 || home || (s.l1Find s.core (pa / 128)).isSome then s.fillL2 pa
       else s.l1Fill s.core s.blk.ctx (pa / 128)).noteHint s.core pa hint

def execPref (h : Hdr) (hint : BitVec 3) (l2 : Bool) (a b : Opnd) (off : BitVec 18) (s : State) :
    Host.Outcome State Fault Refusal :=
  let ea := s.grp.ea a b off
  ((s.lanes h).foldl (fun t l => t.prefLane h hint l2 ea l) s).done h

/-- The lines that a form of `CCTL` addresses: one of each executing lane, or the whole L1, as one access. -/
def State.cctlAcc (s : State) (op : CctlOp) (ea : Nat → Dword) (lanes : List Nat) : Except FaultInfo (List Access) :=
  match op with
  | .wb | .inv =>
    checkLanes (fun l => (s.globalAt .read 1 true (ea l)).map (fun p => ⟨l, p.1, 1, true, 0, 0, 0, false⟩)) lanes
  | .wball | .invall => .ok ((lanes.take 1).map (fun l => ⟨l, 0, 0, true, 0, 0, 0, false⟩))

def execCctl (h : Hdr) (_hint : BitVec 3) (op_ : CctlOp) (a b : Opnd) (off : BitVec 18) (s : State) :
    Host.Outcome State Fault Refusal :=
  let g := s.grp
  let lanes := s.xs h
  if lanes.isEmpty then s.done h
  else s.unheld .s fun s =>
    match s.cctlAcc op_ (g.ea a b off) lanes with
    | .error e => s.fail e
    | .ok acc => s.roomFor .s fun s =>
      s.issueOp h
        { seq := s.grp.issues, path := .s, kind := .cctl op_, ord := ⟨.plain, false⟩, acc := acc,
          got := [], dst := none, counted := true, wrote := false, hint := 0, org := s.origin }

/-! ### Fences (R179, R181, R310) -/

/-- A fence joins the pending fences of the group, whose actions follow in turns of their own (`State.endFence`). -/
def State.addFence (s : State) (h : Hdr) (f : Fence) : Host.Outcome State Fault Refusal :=
  (s.modGrp (fun g => { g with fences := g.fences ++ [f] })).done h

/-- A fence of GRP scope orders nothing (R179). A restartable block issues no release of DEV or POD scope (R410). -/
def execFence (h : Hdr) (_hint : BitVec 3) (kind : FKind) (sc : Scope) (s : State) :
    Host.Outcome State Fault Refusal :=
  if s.blk.restartable && kind != .acq && (sc == .dev || sc == .pod) then s.failStep (protFault none 1)
  else if (s.xs h).isEmpty || sc == .grp then s.done h
  else s.addFence h (.fence kind sc s.grp.issues false s.origin)

def execFencex (h : Hdr) (_hint : BitVec 3) (pa pb : Path) (s : State) : Host.Outcome State Fault Refusal :=
  if (s.xs h).isEmpty then s.done h else s.addFence h (.fencex pa pb s.grp.issues false s.origin)

end Sys2Proof.Machine
end

