-- ==== Sys2Proof/Machine/Spad.lean ====
section
/-! DEFINITION. Scratchpad instructions, class 0x9 (spec 14 R311 to R313; 06 R145 to R148, R167, R168; 07 R184; 22
R433 to R436, R450). Accesses take their place in the scratchpad order at issue; register results land later. -/

namespace Sys2Proof.Machine

/-- A scratchpad offset of format M (R240). -/
def Group.spadEa (g : Group) (a b : Opnd) (off : BitVec 18) (l : Nat) : Nat :=
  (g.read a l + g.read b l + off.signExtend 32).toNat

/-- A lane's scratchpad access, checked under item 3 of R457: its offset. -/
def State.spadAt (s : State) (write : Bool) (n off : Nat) : Except FaultInfo Nat :=
  match s.blk.spadCheck s.blk.linePinned write n off n with
  | some e => .error e
  | none => .ok off

/-- An uncorrectable error of the scratchpad; ADDR holds the offset in the window (assumption 17). -/
def spadEcc (off : Nat) : FaultInfo := { code := 0x50, addr := some (BitVec.ofNat 64 off) }

/-- An uncorrectable error of a register; ADDR holds the register's number (assumption 17). -/
def regEcc (r : Nat) : FaultInfo := { code := 0x50, addr := some (BitVec.ofNat 64 r) }

/-- A lane's scratchpad read: its address, and then the failing words of a line that is full (R457 items 3 and 4). -/
def State.soundAt (s : State) (write : Bool) (n off : Nat) : Except FaultInfo Nat :=
  match s.spadAt write n off with
  | .error e => .error e
  | .ok o => if s.blk.feCount (o / 128) == 0 && s.blk.spadBad o n then .error (spadEcc o) else .ok o

/-- The offsets that the lanes of a reading instruction name, or the fault of its lowest failing lane. While an address fails
no lane waits; an error in what a lane reads outranks the address of a higher lane (R373, R457). -/
def State.spadOffs (s : State) (write : Bool) (n : Nat) (lanes : List Nat) (off : Nat → Nat) : Except FaultInfo (List Nat) :=
  match checkLanes (fun l => s.spadAt write n (off l)) lanes with
  | .ok offs => .ok offs
  | .error _ => checkLanes (fun l => s.soundAt write n (off l)) lanes

/-- Waits in the active slot until every line named is full (R148). -/
def State.whenFull (s : State) (lines : List Nat) (k : State → Host.Outcome State Fault Refusal) :
    Host.Outcome State Fault Refusal :=
  let e := s.blk.emptyLines lines
  if e.isEmpty then k s else .next (s.waitFor (.lineEmpty e))

/-- What the instruction in progress has read so far, by lane or by line. -/
def State.partGot (s : State) : List (Nat × Option Nat) :=
  match s.grp.part with
  | none => []
  | some p => if p.org = s.origin then p.got else []

/-- Reads of `n` bytes that take their places one after another, up to the first in an empty line (R148, R311): what each
gave, by its number, none where the bytes hold an error, and the line that the next one waits for. -/
def Block.readEach (b : Block) (n : Nat) : List (Nat × Nat) → List (Nat × Option Nat) → List (Nat × Option Nat) × Option Nat
  | [], got => (got, none)
  | (l, off) :: xs, got =>
    if got.any (fun x => x.1 == l) then b.readEach n xs got
    else if b.feCount (off / 128) ≠ 0 then (got, some (off / 128))
    else b.readEach n xs (got ++ [(l, if b.spadBad off n then none else some (Memory.read b.spm off n))])

/-- Waits in the active slot for one line, what has been read so far being kept. -/
def State.waitPart (s : State) (got : List (Nat × Option Nat)) (line : Nat) : Host.Outcome State Fault Refusal :=
  .next ((s.modGrp (fun g => { g with part := some ⟨s.origin, got, []⟩ })).waitFor (.lineEmpty [line]))

/-- Waits in the active slot while a pending fence holds a scratchpad load, or a store, back (R179). -/
def State.spadFree (s : State) (store : Bool) (k : State → Host.Outcome State Fault Refusal) :
    Host.Outcome State Fault Refusal :=
  if s.grp.spadHeld store then .next (s.waitFor .fence) else k s

/-- The values that some reads gave, or the fault of the first that met an uncorrectable error (R435). -/
def State.whenSound (s : State) (xs : List (Nat × Nat)) (got : List (Nat × Option Nat))
    (k : List (Nat × Nat) → Host.Outcome State Fault Refusal) : Host.Outcome State Fault Refusal :=
  match got.find? (fun x => x.2.isNone) with
  | some x => s.fail { spadEcc ((xs.lookup x.1).getD 0) with beat := x.1 / 32 }
  | none => k (got.map (fun x => (x.1, x.2.getD 0)))

/-- A register result that lands later (R148). -/
def State.landLater (s : State) (h : Hdr) (x : Landing) : Host.Outcome State Fault Refusal :=
  (s.modGrp (fun g => { g with landings := g.landings ++ [x] })).done h

/-! ### Loads, stores and atomics (R311) -/

/-- Each lane reads in its own place of the scratchpad order, and waits there for its line (R148, R311; assumption 42). -/
def execLds (h : Hdr) (_hint : BitVec 3) (sz : Size) (d a b : Opnd) (off : BitVec 18) (s : State) :
    Host.Outcome State Fault Refusal :=
  let lanes := s.lanes h
  let n := sz.bytes
  if lanes.isEmpty then s.done h
  else s.spadFree false fun s =>
    match s.spadOffs false n lanes (s.grp.spadEa a b off) with
    | .error e => s.fail e
    | .ok offs =>
      let (got, wait) := s.blk.readEach n (lanes.zip offs) s.partGot
      s.whenSound (lanes.zip offs) got fun vals =>
        match wait with
        | some line => s.waitPart got line
        | none => s.landLater h ⟨s.grp.issues, some (destOf false d sz), vals, none, none⟩

/-- Stores of one size in ascending lane order. -/
def Block.spadStores (b : Block) (n : Nat) : List (Nat × Nat) → Block
  | [] => b
  | (off, v) :: xs => (b.spadWrite off (leBytes v n)).spadStores n xs

def execSts (h : Hdr) (_hint : BitVec 3) (sz : Size) (d a b : Opnd) (off : BitVec 18) (s : State) :
    Host.Outcome State Fault Refusal :=
  let lanes := s.xs h
  let n := sz.bytes
  if lanes.isEmpty then s.done h
  else s.spadFree true fun s =>
    match checkLanes (fun l => s.spadAt true n (s.grp.spadEa a b off l)) lanes with
    | .error e => s.fail e
    | .ok offs =>
      let g := s.grp
      (s.modBlk (fun b => b.spadStores n ((lanes.zip offs).map (fun x => (x.2, g.data d sz.regs x.1))))).done h

/-- The atomics of the lanes in ascending order: the old values and the window after them. -/
def Block.spadAtoms (b : Block) (op : AOp) (ty : ATy) : List (Nat × Nat × Nat × Nat) → List (Nat × Nat) × Block
  | [] => ([], b)
  | (l, off, x, c) :: xs =>
    let old := Memory.read b.spm off ty.bytes
    let (r, b') := (if atomWrites op ty old c then b.spadWrite off (leBytes (atomNew op ty old x) ty.bytes) else b).spadAtoms op ty xs
    ((l, old) :: r, b')

/-- One indivisible step: it waits until the lines of all its lanes are full (R148, R311, R433). -/
def execAtoms (h : Hdr) (_hint : BitVec 3) (op_ : AOp) (d a b c e : Opnd) (s : State) :
    Host.Outcome State Fault Refusal :=
  let g := s.grp
  let ty := (ATy.ofOpnd e).getD .n32
  let n := ty.bytes
  let lanes := s.xs h
  if lanes.isEmpty then s.done h
  else s.spadFree true fun s =>
    match s.spadOffs true n lanes (fun l => (g.read a l).toNat) with
    | .error f => s.fail f
    | .ok offs => s.whenSound (lanes.zip offs) (s.blk.readEach n (lanes.zip offs) []).1 fun _ =>
      s.whenFull (offs.map (· / 128)) fun s =>
      let (olds, b') := s.blk.spadAtoms op_ ty ((lanes.zip offs).map (fun x =>
        (x.1, x.2, g.atomData ty b x.1, if op_ = .cas then g.atomData ty c x.1 else 0)))
      let t := (s.setBlk b').count 0x0A 1
      if d = .zero then t.done h
      else t.landLater h ⟨g.issues, some ⟨false, regNum d, n / 4, if n = 8 then .b64 else .b32⟩, olds, none, none⟩

/-! ### Pending counts (R312) -/

/-- The distinct lines that the executing lanes name. -/
def linesNamed (offs : List Nat) : List Nat := (offs.map (· / 128)).eraseDups

/-- A lane of `SETE`: its line may not stand at 7 (R433). -/
def State.seteAt (s : State) (off : Nat) : Except FaultInfo Nat :=
  match s.spadAt false 1 off with
  | .error e => .error e
  | .ok o =>
    if 7 ≤ s.blk.feCount (o / 128) then .error { code := 0x14, hi := 2, info0 := o / 128 * 128 } else .ok o

def execSete (h : Hdr) (_hint : BitVec 3) (a b : Opnd) (off : BitVec 18) (s : State) :
    Host.Outcome State Fault Refusal :=
  let lanes := s.xs h
  if lanes.isEmpty then s.done h
  else s.spadFree true fun s =>
    match checkLanes (fun l => s.seteAt (s.grp.spadEa a b off l)) lanes with
    | .error e => s.fail e
    | .ok offs => (s.modBlk (fun b => b.feRaise (linesNamed offs))).done h

def execSetf (h : Hdr) (_hint : BitVec 3) (a b : Opnd) (off : BitVec 18) (s : State) :
    Host.Outcome State Fault Refusal :=
  let lanes := s.xs h
  if lanes.isEmpty then s.done h
  else s.spadFree true fun s =>
    match checkLanes (fun l => s.spadAt false 1 (s.grp.spadEa a b off l)) lanes with
    | .error e => s.fail e
    | .ok offs => (s.modBlk (fun b => b.feLower (linesNamed offs))).done h

def execTstf (h : Hdr) (_hint : BitVec 3) (d a b : Opnd) (off : BitVec 18) (s : State) :
    Host.Outcome State Fault Refusal :=
  let lanes := s.lanes h
  if lanes.isEmpty then s.done h
  else s.spadFree false fun s =>
    match checkLanes (fun l => s.spadAt false 1 (s.grp.spadEa a b off l)) lanes with
    | .error e => s.fail e
    | .ok offs =>
      s.landLater h ⟨s.grp.issues, some (destOf false d .b32),
        (lanes.zip offs).map (fun x => (x.1, s.blk.feCount (x.2 / 128))), none, none⟩

/-! ### DEC (R313, R167, R168, R436) -/

/-- A stream byte that is a decode error: beyond the window's end, or in a line that held an uncorrectable error when it was
read. -/
def Block.streamBad (b : Block) (got : List (Nat × Option Nat)) (at_ : Nat) : Bool :=
  decide (b.spad ≤ at_) ||
    match got.lookup (at_ / 128) with
    | some v => v.isNone
    | none => b.spadBad (at_ / 128 * 128) 128

/-- A stream byte as it was read with its line. -/
def Block.streamByte (b : Block) (got : List (Nat × Option Nat)) (at_ : Nat) : Byte :=
  match got.lookup (at_ / 128) with
  | some (some v) => BitVec.ofNat 8 (v / 2 ^ (8 * (at_ % 128)))
  | _ => Memory.byte b.spm at_

/-- The produced count: the first of `n` fields of `w` bits that has a bit in a bad byte, else `n`. -/
def Block.produced (b : Block) (got : List (Nat × Option Nat)) (a w n : Nat) : Nat :=
  if w = 0 then n
  else ((List.range n).find? (fun j =>
    (List.range ((j * w + w - 1) / 8 - j * w / 8 + 1)).any (fun i => b.streamBad got (a + j * w / 8 + i)))).getD n

/-- Field `j` of a stream held in `v` (R167). -/
def streamField (v w j : Nat) : Nat := v / 2 ^ (j * w) % 2 ^ w

/-- The first `f` elements (R168). -/
def decElems (delta : Bool) (base v w f : Nat) : List Nat :=
  let fields := (List.range f).map (streamField v w)
  if delta then (fields.foldl (fun (r : List Nat × Nat) x =>
    let y := (r.2 + x) % 2 ^ 32
    (r.1 ++ [y], y)) ([], base)).1
  else fields

/-- The check of the control pair (R450): n, w and the destination offset. -/
def State.decCheck (s : State) (toSpad : Bool) (ctl dst : Word) (xs : Nat) : Option FaultInfo :=
  let n := ctl.toNat % 128
  let w := ctl.toNat / 256 % 64
  if ctl &&& ~~~(0x3F7F#32) != 0 || decide (96 < n) || decide (xs < n) || decide (32 < w) then some (operandFault 3)
  else if toSpad then
    if dst.toNat % 4 ≠ 0 then some { code := 0x12 }
    else if n = 0 then none
    else s.blk.spadCheck s.blk.linePinned true 1 dst.toNat (4 * n)
  else none

/-- The stream is read line after line, each in its own place of the scratchpad order (R148, R313; assumption 42). -/
def execDec (h : Hdr) (_hint : BitVec 3) (delta : Bool) (d a b c : Opnd) (ps : PField) (s : State) :
    Host.Outcome State Fault Refusal :=
  let g := s.grp
  let xs := s.xs h
  let lanes := s.lanes h
  let toSpad := d == .zero
  let ctl := g.readN c 0 0
  let dst := g.readN c 1 0
  let n := ctl.toNat % 128
  let w := ctl.toNat / 256 % 64
  let at_ := (g.once a).toNat
  if lanes.isEmpty then s.done h
  else s.spadFree toSpad fun s =>
    match s.decCheck toSpad ctl dst xs.length with
    | some e => s.failOnce h e
    | none =>
      let bytes := (n * w + 7) / 8
      let lines := linesOf at_ (min bytes (s.blk.spad - at_))
      let (got, wait) := s.blk.readEach 128 (lines.map (fun k => (k, 128 * k))) s.partGot
      match wait with
      | some line => s.waitPart got line
      | none =>
        let f := s.blk.produced got at_ w n
        let stream := leNat ((List.range bytes).map (fun i => s.blk.streamByte got (at_ + i)))
        let elems := decElems delta (if delta then (g.once b).toNat else 0) stream w f
        let t := if toSpad then
            s.modBlk (fun b => b.spadStores 4 (elems.mapIdx (fun k e => (dst.toNat + 4 * k, e))))
          else s
        let val (l : Nat) : Nat := if xs.contains l then elems.getD (xs.filter (· < l)).length 0 else 0
        t.landLater h
          ⟨g.issues, if toSpad then none else some (destOf false d .b32), lanes.map (fun l => (l, val l)),
           some (regNum c, BitVec.ofNat 32 f),
           some (ps.num.toNat, maskOf (s.lane h), if f = n then maskOf (s.lane h) else 0)⟩

end Sys2Proof.Machine
end

