-- ==== Sys2Proof/Machine/Copy.lean ====
section
/-! DEFINITION. The copy engine and class 0xA (spec 14 R314 to R319; 06 R147, R154 to R166; 05 R137 to R139; 22 R433,
R435, R451). -/

namespace Sys2Proof.Machine

/-! ### Places and runs of bytes -/

/-- The place `i` bytes on. -/
def Loc.add : Loc → Nat → Loc
  | .glob pa, i => .glob (pa + i)
  | .spad off, i => .spad (off + i)

/-- `n` places from one on. -/
def Loc.range (l : Loc) (n : Nat) : List Loc := (List.range n).map l.add

/-- The lines of the window among places. -/
def spadLines (ls : List Loc) : List Nat :=
  (ls.filterMap (fun l => match l with
    | .spad off => some (off / 128)
    | .glob _ => none)).eraseDups

/-- Places as runs that lie together. -/
def runsOf : List Loc → List (Loc × Nat)
  | [] => []
  | l :: ls =>
    match runsOf ls with
    | [] => [(l, 1)]
    | (m, n) :: rs => if l.add 1 = m then (l, n + 1) :: rs else (l, 1) :: (m, n) :: rs

/-- Reads a run for an operation of issue `seq`: the scratchpad, or the home (R159), by the log in replay. -/
def State.readRun (s : State) (org : Origin) (seq : Nat) : Loc × Nat → List Byte × State
  | (.spad off, n) => (Memory.bytes s.blk.spm off n, s)
  | (.glob pa, n) =>
    (s.asksHost pa n).loadInput org seq pa ((s.launch? s.blk.ref.launch).elim 0 (fun x => x.extMask pa n)) (s.homeRead pa n)

/-- Reads the runs in order. -/
def State.readRuns (s : State) (org : Origin) (seq : Nat) : List (Loc × Nat) → List Byte × State
  | [] => ([], s)
  | r :: rs =>
    let (x, t) := s.readRun org seq r
    let (y, u) := t.readRuns org seq rs
    (x ++ y, u)

/-- Writes bytes to runs in order (R159). -/
def State.writeRuns (s : State) : List (Loc × Nat) → List Byte → State
  | [], _ => s
  | (.spad off, n) :: rs, bs => (s.modBlk (fun b => b.spadWrite off (bs.take n))).writeRuns rs (bs.drop n)
  | (.glob pa, n) :: rs, bs => (s.storeCells (cellsFrom pa (bs.take n))).writeRuns rs (bs.drop n)

/-- The first failing word at a home that writing runs replaces in part (R387, R435). -/
def State.runsPart (s : State) (rs : List (Loc × Nat)) : Option Nat :=
  rs.findSome? (fun r => match r with
    | (.glob pa, n) => (s.partBad ((List.range n).map (fun i => pa + i))).head?
    | (.spad _, _) => none)

/-- The first run that holds an uncorrectable error, as an asynchronous fault's address and whether it is
physical (R435). -/
def State.runBad (s : State) (r : Loc × Nat) : Option (Dword × Bool) :=
  match r with
  | (.spad off, n) => if s.blk.spadBad off n then some (BitVec.ofNat 64 off, false) else none
  | (.glob pa, n) => if s.badAt pa n then some (BitVec.ofNat 64 pa, true) else none

/-! ### Reading a source (R148, R182, R314) -/

/-- The source of an operation that has read nothing. -/
def Source.of (locs : List Loc) : Source := ⟨locs, [], none⟩

/-- The bytes not yet read, with their indexes. -/
def Source.unread (x : Source) : List (Nat × Loc) :=
  (x.locs.mapIdx (fun i l => (i, l))).filter (fun p => !x.read.any (fun e => e.1 == p.1))

/-- The line of the window in which a byte stands. -/
def Loc.line? : Loc → Option Nat
  | .spad off => some (off / 128)
  | .glob _ => none

/-- A line is full for an engine operation that has itself raised the counts of the lines `own`: its own landing does not
hold its reading back (R314). -/
def Block.fullFor (b : Block) (own : List Nat) (line : Nat) : Bool :=
  decide (b.feCount line ≤ if own.contains line then 1 else 0)

/-- A byte can be read now. -/
def Block.readable (b : Block) (own : List Nat) (l : Loc) : Bool := l.line?.all (b.fullFor own)

/-- The engine's wait: on the line of the first byte not yet read, from when it came to it. -/
def Source.waitOn (x : Source) (now : Nat) : Source :=
  { x with wait := (x.unread.head?.bind (fun p => p.2.line?)).map (fun l =>
      match x.wait with
      | some (m, t) => if m = l then (l, t) else (l, now)
      | none => (l, now)) }

/-- The engine reads bytes of a source: byte `k` when one is given, else in order as far as the lines are full (R148).
An uncorrectable error stops it (R435). -/
def State.readSource (s : State) (own : List Nat) (org : Origin) (seq : Nat) (x : Source) (k : Option Nat) :
    Except AsyncFault (Source × State) :=
  let open_ (p : Nat × Loc) : Bool := s.blk.readable own p.2
  let now : List (Nat × Loc) :=
    match k with
    | some i => x.unread.filter (fun p => p.1 == i && p.2.line?.isSome && open_ p)
    | none => x.unread.takeWhile open_
  let runs := runsOf (now.map (fun p => p.2))
  match runs.findSome? s.runBad with
  | some (a, phys) => .error (s.eccAsync org a.toNat phys)
  | none =>
    let (bytes, t) := s.readRuns org seq runs
    let y := { x with read := (now.zip bytes).foldl (fun r (e : (Nat × Loc) × Byte) => Tbl.insert r e.1.1 e.2) x.read }
    .ok (y.waitOn s.time, if y.unread.isEmpty then t.inputsTaken org seq else t)

/-! ### What a copy does to its bytes -/

/-- Splits bytes into elements of `w` bytes. -/
def elemsOf (w : Nat) : Nat → List Byte → List Nat
  | 0, _ => []
  | k + 1, bs => leNat (bs.take w) :: elemsOf w k (bs.drop w)

def CvKind.src : CvKind → FFmt
  | .f2b | .f2h => .f32
  | .b2f => .bf16
  | .h2f => .f16

def CvKind.dst : CvKind → FFmt
  | .f2b => .bf16
  | .f2h => .f16
  | .b2f | .h2f => .f32

/-- Bytes of a format's value. -/
def FFmt.bytes (f : FFmt) : Nat := (1 + f.eb + f.fb) / 8

/-- The entry of the E4M3 table at a context's creation (R138). -/
def e4m3 (c : Nat) : BitVec 16 :=
  let ex := c / 8 % 16
  let fr := c % 8
  let v : FVal :=
    if ex = 15 ∧ fr = 7 then .nan false
    else if ex = 0 then .fin (128 ≤ c) fr (-9)
    else .fin (128 ≤ c) (8 + fr) (ex - 10)
  BitVec.ofNat 16 (rne .bf16 v).bits

/-- A context's code table. -/
def Context.table (c : Context) : List (BitVec 16) := c.codeTable.getD ((List.range 256).map e4m3)

/-- The destination bytes of a copy, and its flags (R158, R160, R161, R139). -/
def CopyKind.apply : CopyKind → List Byte → List Byte × BitVec 7
  | .plain, bs | .loadTable, bs => (bs, 0)
  | .conv cv ovt, bs =>
    let w := cv.src.bytes
    let r := (elemsOf w (bs.length / w) bs).map (fun x => rndOvt ovt cv.dst (unpack cv.src x))
    (r.flatMap (fun y => leBytes y.1 cv.dst.bytes), r.foldl (fun f y => f ||| y.2) 0)
  | .code table, bs => (bs.flatMap (fun c => leBytes (table.getD c.toNat 0).toNat 2), 0)
  | .nibbles, bs =>
    ((elemsOf 2 (bs.length / 2) bs).flatMap (fun x =>
      let (a, b) := (x % 256, x / 256)
      leBytes (a % 16 + 16 * (b % 16)) 1 ++ leBytes (a / 16 + 16 * (b / 16)) 1), 0)

/-! ### The engine (R314) -/

/-- Replaces a copy of the present group. -/
def Group.putCopy (g : Group) (c : CopyOp) : Group :=
  { g with copies := g.copies.map (fun x => if x.seq = c.seq then c else x) }

/-- A copy that stops: the counts it raised fall, C falls in order, no arrival is made, and its group takes an
asynchronous fault (R433; for an uncorrectable source, assumption 18). -/
def State.stopCopy (s : State) (c : CopyOp) (f : AsyncFault) : State :=
  (s.modBlk (fun b => b.feLower c.lines)).modGrp (fun g =>
    ((g.putCopy { c with landed := true }).async f).retireAll)

/-- Physical addresses among places. -/
def globPas (ls : List Loc) : List Nat :=
  ls.filterMap (fun l => match l with
    | .glob pa => some pa
    | .spad _ => none)

/-- The copy engine reads source bytes of a copy; it has what it writes when all are read (R314), and the lines read take its
hint (R305). -/
def State.readCopy (s : State) (c : CopyOp) (k : Option Nat) : State :=
  if c.landed || c.buf.isSome then s
  else
    match s.readSource c.lines c.org c.seq c.src k with
    | .error f => s.stopCopy c f
    | .ok (x, t) =>
      if !x.unread.isEmpty then t.modGrp (fun g => g.putCopy { c with src := x })
      else
        let t := t.noteHints t.core (globPas c.src.locs) c.hint
        let (out, flags) := c.kind.apply (x.read.map (fun e => e.2))
        t.modGrp (fun g => g.putCopy { c with src := x, buf := some out, flags := flags })

/-- An earlier copy of the group whose destination bytes overlap has not landed (R159). -/
def Group.copyBehind (g : Group) (c : CopyOp) : Bool :=
  g.copies.any (fun p => decide (p.seq < c.seq) && !p.landed && p.dst.any (fun l => c.dst.contains l))

/-- A copy lands (R314, R162, R316): every destination byte, the counts, C in order, and the arrival; a loaded
table replaces the context's. DESIGN CHOICE: its lines, which R147 and R433 name one by one, land together in one step
(assumption 72). -/
def State.landCopy (s : State) (c : CopyOp) : State :=
  match c.buf with
  | none => s
  | some bytes =>
    if c.landed || s.grp.copyBehind c then s
    else
      let t :=
        if c.kind = .loadTable then
          s.setCtx s.blk.ctx { s.ctx s.blk.ctx with
            codeTable := some ((elemsOf 2 256 bytes).map (BitVec.ofNat 16)) }
        else (s.writeRuns (runsOf c.dst) bytes).count 0x0B (c.dst.map (fun l => match l with
          | .glob pa => (false, pa / 128)
          | .spad off => (true, off / 128))).eraseDups.length
      let t := t.noteHints t.core (globPas c.dst) c.hint
      let t := match s.runsPart (runsOf c.dst) with
        | none => t
        | some w => t.modGrp (fun g => g.async (s.eccAsync c.org (8 * w) true))
      let t := (t.modBlk (fun b => b.feLower c.lines)).modGrp (fun g =>
        (g.putCopy { c with landed := true }).retireAll)
      t.engineArrive c.obj c.flags c.org

/-! ### Issue -/

/-- An address operand in a lane: a scratchpad offset, or a global address. -/
def Group.addr (g : Group) (spad : Bool) (o : Opnd) (l : Nat) : Dword :=
  if spad then (g.read o l).setWidth 64 else g.read64 o l

/-- One side of a copy in a lane, checked under items 2 and 3 of R457 for `n` bytes aligned to `al`. -/
def State.sideAt (s : State) (spad write : Bool) (al n : Nat) (va : Dword) : Except FaultInfo Loc :=
  if spad then
    match s.blk.spadCheck s.blk.linePinned write al va.toNat n with
    | some e => .error e
    | none => .ok (.spad va.toNat)
  else
    match s.transl s.core s.blk.ctx (if write then .write else .read) al va with
    | .error e => .error e
    | .ok (pa, _) => .ok (.glob pa)

/-- The barrier object an engine instruction names, or none (R320, R451). -/
def State.objAt (s : State) (e : Opnd) : Except FaultInfo (Option Nat) :=
  if e = .zero then .ok none
  else
    let off := (s.grp.once e).toNat
    match s.blk.spadCheck s.blk.linePinned true 64 off 64 with
    | some f => .error f
    | none => .ok (some off)

/-- Issues a copy (R314, R147, R155): it raises C and the count of each destination line. A copy to global memory
pins a restartable block first (R41). -/
def State.issueCopy (s : State) (h : Hdr) (hint : BitVec 3) (kind : CopyKind) (src dst : List Loc) (obj : Option Nat) :
    Host.Outcome State Fault Refusal :=
  let lines := spadLines dst
  let full := lines.filter (fun l => decide (7 ≤ s.blk.feCount l))
  if !full.isEmpty then .next (s.waitFor (.lineFull full))
  else s.roomFor .c fun s =>
    let issue (s : State) : Host.Outcome State Fault Refusal :=
      ((s.modBlk (fun b => b.feRaise lines)).modGrp (fun g => { g with copies := g.copies ++
        [⟨s.grp.issues, kind, streamHint hint, .of src, dst, none, 0, obj, lines, false, s.origin⟩] })).done h
    if dst.any (fun l => match l with
      | .glob _ => true
      | .spad _ => false) then s.pinFirst issue
    else issue s

/-- A lane's transfer: source, then destination, then the object (R457). -/
def State.transferAt (s : State) (ss ds : Bool) (n m : Nat) (d a e : Opnd) (l : Nat) :
    Except FaultInfo (Loc × Loc) :=
  match s.sideAt ss false n n (s.grp.addr ss a l) with
  | .error f => .error f
  | .ok x =>
    match s.sideAt ds true m m (s.grp.addr ds d l) with
    | .error f => .error f
    | .ok y => (s.objAt e).map (fun _ => (x, y))

/-- `CPY` and `CPYC`: one transfer of `n` source and `m` destination bytes for each executing lane. -/
def State.copyLanes (s : State) (h : Hdr) (hint : BitVec 3) (kind : CopyKind) (ss ds : Bool) (n m : Nat) (d a e : Opnd) :
    Host.Outcome State Fault Refusal :=
  let lanes := s.xs h
  if lanes.isEmpty then s.done h
  else s.unheld .c fun s =>
    match checkLanes (s.transferAt ss ds n m d a e) lanes with
    | .error f => s.fail f
    | .ok ps => s.issueCopy h hint kind (ps.flatMap (fun p => p.1.range n)) (ps.flatMap (fun p => p.2.range m))
        ((s.objAt e).toOption.getD none)

/-- The kind of `CPY` and its destination bytes for `n` source bytes, by cv (R314). -/
def State.cpyKind (s : State) (n : Nat) (c : Opnd) : CopyKind × Nat :=
  let ovt := (s.ctx s.blk.ctx).ovt
  match cvOf c with
  | some 1 => (.conv .f2b ovt, n / 2)
  | some 2 => (.conv .f2h ovt, n / 2)
  | some 3 => (.conv .b2f ovt, 2 * n)
  | some 4 => (.conv .h2f ovt, 2 * n)
  | _ => (.plain, n)

def execCpy (h : Hdr) (hint : BitVec 3) (sz : XSize) (ss ds : Bool) (d a c e : Opnd) (s : State) :
    Host.Outcome State Fault Refusal :=
  let k := s.cpyKind sz.bytes c
  s.copyLanes h hint k.1 ss ds sz.bytes k.2 d a e

def execCpyc (h : Hdr) (hint : BitVec 3) (sz : XSize) (ss ds : Bool) (d a _c e : Opnd) (s : State) :
    Host.Outcome State Fault Refusal :=
  s.copyLanes h hint (.code (s.ctx s.blk.ctx).table) ss ds sz.bytes (2 * sz.bytes) d a e

/-- The bytes of a row, each where its page lies (R160): `n` bytes from an address aligned to `al`. -/
def State.rowAt (s : State) (spad write : Bool) (al : Nat) (va : Dword) : Nat → Except FaultInfo (List Loc)
  | 0 => .ok []
  | n + 1 =>
    match s.sideAt spad write al 1 va with
    | .error f => .error f
    | .ok x =>
      match s.rowAt spad write 1 (va + 1) n with
      | .error f => .error f
      | .ok xs => .ok (x :: xs)

/-- Rows at a stride. -/
def State.rowsAt (s : State) (spad write : Bool) (al n stride : Nat) (va : Dword) :
    Nat → Except FaultInfo (List (List Loc))
  | 0 => .ok []
  | k + 1 =>
    match s.rowAt spad write al va n with
    | .error f => .error f
    | .ok r =>
      match s.rowsAt spad write al n stride (va + BitVec.ofNat 64 stride) k with
      | .error f => .error f
      | .ok rs => .ok (r :: rs)

/-- Places of one block of a tile's transposition in the order of R315: element (i, j) of `u` bytes, or for 4-bit
elements the bytes of rows `i`, `i + 1` that hold columns `j`, `j + 1`. -/
def tilePlaces (rows : List (List Loc)) (i j u : Nat) : List Loc := ((rows.getD i []).drop (u * j)).take u

/-- Source and destination places of a transposing copy, block after block. -/
def tileOrder (nib : Bool) (rw cl u : Nat) (src dst : List (List Loc)) : List Loc × List Loc :=
  let is := (List.range (if nib then rw / 2 else rw))
  let js := (List.range (if nib then cl / 2 else cl))
  let ps := is.flatMap (fun i => js.map (fun j =>
    if nib then
      (tilePlaces src (2 * i) j 1 ++ tilePlaces src (2 * i + 1) j 1,
       tilePlaces dst (2 * j) i 1 ++ tilePlaces dst (2 * j + 1) i 1)
    else (tilePlaces src i j u, tilePlaces dst j i u)))
  (ps.flatMap (fun p => p.1), ps.flatMap (fun p => p.2))

/-- `CPYT` (R160, R315, R451): the limits, the source rows, the destination rows, their overlap (assumption 19), and
the object. -/
def execCpyt (h : Hdr) (hint : BitVec 3) (w : BitVec 2) (ss ds : Bool) (d a b c e : Opnd) (s : State) :
    Host.Outcome State Fault Refusal :=
  let g := s.grp
  if (s.xs h).isEmpty then s.done h
  else s.unheld .c fun s =>
    let bits := 4 * 2 ^ w.toNat
    let nib := w == 0
    let al := if nib then 1 else bits / 8
    let lim := g.once c
    let empty := lim.toNat % 2 ^ 16 == 0 || lim.toNat / 2 ^ 16 == 0
    let rw := if empty then 0 else lim.toNat % 2 ^ 16
    let cl := if empty then 0 else lim.toNat / 2 ^ 16
    let fail (f : FaultInfo) := s.failOnce h f
    if 32768 < rw * cl * bits ∨ (nib ∧ (lim.toNat % 2 = 1 ∨ lim.toNat / 2 ^ 16 % 2 = 1)) then fail (operandFault 3)
    else
      match s.rowsAt ss false al (cl * bits / 8) (g.readN b 0 0).toNat (g.addr ss a 0) rw with
      | .error f => fail f
      | .ok src =>
        match s.rowsAt ds true al (rw * bits / 8) (g.readN b 1 0).toNat (g.addr ds d 0) cl with
        | .error f => fail f
        | .ok dst =>
          if dst.flatten.any (fun l => src.flatten.contains l) then fail (operandFault 3)
          else
            match s.objAt e with
            | .error f => fail f
            | .ok obj =>
              let p := tileOrder nib rw cl (bits / 8) src dst
              s.issueCopy h hint (if nib then .nibbles else .plain) p.1 p.2 obj

def execLdct (h : Hdr) (hint : BitVec 3) (sp : Bool) (a e : Opnd) (s : State) :
    Host.Outcome State Fault Refusal :=
  if (s.xs h).isEmpty then s.done h
  else s.unheld .c fun s =>
    let fail (f : FaultInfo) := s.failOnce h f
    let va := s.grp.addr sp a 0
    -- the table's 512 bytes lie in four lines, each in one page
    match s.rowsAt sp false 128 128 128 va 4 with
    | .error f => fail f
    | .ok src =>
      match s.objAt e with
      | .error f => fail f
      | .ok obj => s.issueCopy h hint .loadTable src.flatten [] obj

/-! ### Counters and memory waits (R317, R318) -/

/-- `WAITC` waits for a counter at a swap point; an issue that no lane executes is none (R76, R303; assumption 69). -/
def execWaitc (h : Hdr) (_hint : BitVec 3) (path : Path) (a : Opnd) (s : State) : Host.Outcome State Fault Refusal :=
  let t := (s.grp.once a).toNat
  if (s.xs h).isEmpty then s.done h
  else if 63 < t then s.failOnce h (operandFault 1)
  else if s.grp.counter path ≤ t then
    let s := if t = 0 then s.modGrp (fun g => { g with owed := g.owed.filter (fun x => x.2 != path) }) else s
    s.swapPoint.done h
  else .next (s.waitSwap (.path path t))

def execRdc (h : Hdr) (_hint : BitVec 3) (path : Path) (d : Opnd) (s : State) : Host.Outcome State Fault Refusal :=
  if (s.xs h).isEmpty then s.done h else (s.writeS d (BitVec.ofNat 32 (s.grp.counter path))).done h

/-- The end of a `WAITM`: the value to D, the hint of its line (R305), and the acquire of R177. -/
def State.waitmEnd (s : State) (h : Hdr) (hint : BitVec 3) (w64 : Bool) (d : Opnd) (pa x mask : Nat) : Host.Outcome State Fault Refusal :=
  let (bytes, t) := s.loadInput s.origin s.grp.issues pa mask (leBytes x (if w64 then 8 else 4))
  let v := leNat bytes
  let t := t.swapPoint
  let t := if w64 then t.writeS64 d (BitVec.ofNat 64 v) else t.writeS d (BitVec.ofNat 32 v)
  ((t.writesBack s.origin (fun t => t.flushAll t.core)).noteHint t.core pa (streamHint hint)).done h

/-- `WAITM` reads its word as a load at the home as soon as the group's earlier loads and fences let it, and again after
each write that performs at the home of its line (R318, R172, R174), in a handler as outside one (R50; assumption 69).
DESIGN CHOICE: the manual does not say whether a group whose first read an earlier load or fence holds back keeps its slot until
that read: it stands at a swap point whose condition does not hold, and is swapped out before it (assumption 69). -/
def execWaitm (h : Hdr) (hint : BitVec 3) (cond : WCond) (w64 : Bool) (d a b : Opnd) (s : State) :
    Host.Outcome State Fault Refusal :=
  let g := s.grp
  let n := if w64 then 8 else 4
  if (s.xs h).isEmpty then s.done h
  else
    match s.transl s.core s.blk.ctx .waitm n (g.once64 a) with
    | .error f => s.failOnce h f
    | .ok (pa, _) =>
      let v := if w64 then (g.once64 b).toNat else (g.once b).toNat
      let wait (s : State) (seen : Option (List Byte)) := Host.Outcome.next (s.waitSwap (.memWord pa n cond v seen))
      match g.wait with
      | .memHit pa' n' x mask =>
        if pa' = pa ∧ n' = n ∧ waitHolds cond x v then s.waitmEnd h hint w64 d pa x mask else wait s none
      | .memWord pa' n' cond' v' seen =>
        wait s (if pa' = pa ∧ n' = n ∧ cond' = cond ∧ v' = v then seen else none)
      | _ =>
        if s.loadBad true pa n then s.failOnce h (eccFault pa)
        else if !g.mayReread pa then wait s none
        else
          let (x, mask, t) := s.rereads s.origin pa n
          if waitHolds cond x v then t.waitmEnd h hint w64 d pa x mask else wait t (some (t.homeRead (pa / 128 * 128) 128))

/-! ### Barrier objects (R319) -/

/-- An instruction on a barrier object: its offset checked, and, when it reads the object, no uncorrectable error. -/
def State.onObj (s : State) (h : Hdr) (a : Opnd) (write reads : Bool)
    (k : Nat → State → (FaultInfo → Host.Outcome State Fault Refusal) → Host.Outcome State Fault Refusal) :
    Host.Outcome State Fault Refusal :=
  let fail (f : FaultInfo) := s.failOnce h f
  if (s.xs h).isEmpty then s.done h
  else
    let off := (s.grp.once a).toNat
    match s.blk.spadCheck s.blk.linePinned write 64 off 64 with
    | some f => fail f
    | none => if reads && s.blk.spadBad off 64 then fail (spadEcc off) else k off s fail

def execAbinit (h : Hdr) (_hint : BitVec 3) (a b : Opnd) (s : State) : Host.Outcome State Fault Refusal :=
  s.onObj h a true false fun off s fail =>
    let v := (s.grp.once b).toNat
    if v = 0 ∨ 16777215 < v then fail (operandFault 2)
    else s.spadFree true fun s =>
      (s.modBlk (fun x => x.spadWrite off (leBytes v 4 ++ List.replicate 60 0))).done h

def execAbarr (h : Hdr) (_hint : BitVec 3) (a b c : Opnd) (s : State) : Host.Outcome State Fault Refusal :=
  s.onObj h a true false fun off s fail =>
    let n := (s.grp.once b).toNat
    let f := s.grp.once c
    if n = 0 ∨ s.blk.objWord off % 2 ^ 24 < s.blk.objWord (off + 4) + n then fail (operandFault 2)
    else if f.toNat ≥ 128 then fail (operandFault 3)
    else if s.blk.spadBad off 64 then fail (spadEcc off)
    else s.spadFree true fun s =>
      if s.grp.relReady false s.grp.issues then (s.modBlk (fun x => x.arriveObj off n (f.setWidth 7))).done h
      else .next (s.waitFor .fence)

/-- `ABWAIT` waits for a phase of a barrier object at a swap point (R319), in a handler as outside one (R50;
assumption 69). -/
def execAbwait (h : Hdr) (_hint : BitVec 3) (a b : Opnd) (s : State) : Host.Outcome State Fault Refusal :=
  s.onObj h a false true fun off s _ =>
    let t := s.grp.once b
    s.spadFree false fun s =>
      if s.blk.phaseDone off t then s.swapPoint.done h else .next (s.waitSwap (.phase off t))

def execAbflg (h : Hdr) (_hint : BitVec 3) (d a : Opnd) (s : State) : Host.Outcome State Fault Refusal :=
  s.onObj h a false true fun off s _ =>
    s.spadFree false fun s => (s.writeS d (BitVec.ofNat 32 (s.blk.objWord (off + 16)))).done h

end Sys2Proof.Machine
end

