-- ==== Sys2Proof/Machine/Split.lean ====
section
/-! DEFINITION. Split tile records, their encoding rule, and the accumulation order of the matrix path (spec 05 R117 to
R131; 21 R417 to R419). -/

namespace Sys2Proof.Machine

/-! ### Scales (R117) -/

/-- A UE5M3 scale as m × 2^e: the mantissa, and the exponent plus 17. -/
def scaleParts (c : Nat) : Nat × Nat := if c / 8 = 0 then (c % 8, 0) else (8 + c % 8, c / 8 - 1)

/-- The value of a scale code other than 0xFF. -/
def scaleVal (c : Nat) : FVal :=
  let p := scaleParts c
  .fin false p.1 ((p.2 : Int) - 17)

/-- Whether m × 2^e ≤ k × the value of scale `c`. -/
def scaleCovers (m : Nat) (e : Int) (k c : Nat) : Bool :=
  let p := scaleParts c
  let x : Int := (p.2 : Int) - 17
  decide (m * 2 ^ (e - min e x).toNat ≤ k * p.1 * 2 ^ (x - min e x).toNat)

/-- The smallest code whose value covers m × 2^e divided by `k`; none above 114,688. -/
def scaleCeil (m : Nat) (e : Int) (k : Nat) : Option Nat :=
  (List.range 255).find? (fun c => decide (c ≠ 0) && scaleCovers m e k c)

/-! ### Records (R121 to R123) -/

/-- Bytes of a body (R121). -/
def bodyBytes : Body → Nat
  | .q3 => 96
  | .q4 => 128
  | .v2 => 64

/-- Slots of a cap code (R121). -/
def capSlots (cap : BitVec 2) : Nat :=
  match cap.toNat with
  | 0 => 0
  | 1 => 4
  | 2 => 8
  | _ => 16

/-- Greatest code an encoder writes (R118). -/
def maxCode : Body → Nat
  | .q3 => 3
  | _ => 7

/-- A little-endian field of a record. -/
def recField (r : List Byte) (at_ n : Nat) : Nat := leNat ((r.drop at_).take n)

/-- Outlier slot `j` (R121). -/
def slotWord (r : List Byte) (body : Body) (j : Nat) : Nat := recField r (bodyBytes body + 16 + 4 * j) 4

/-- The slots of a record in order. -/
def slotWords (r : List Byte) (body : Body) (cap : BitVec 2) : List Nat :=
  (List.range (capSlots cap)).map (slotWord r body)

/-- The first slot that breaks R124: its reason and index (R418); `seen` holds the places of live slots. -/
def badSlot : List Nat → Nat → List Nat → Option (Nat × Nat)
  | [], _, _ => none
  | w :: ws, j, seen =>
    if 2 ≤ w % 256 then some (1, j)
    else if w % 256 = 1 then
      if seen.contains (w / 256 % 256) then some (2, j) else badSlot ws (j + 1) (w / 256 % 256 :: seen)
    else badSlot ws (j + 1) seen

/-- The live slot of element (k, n). -/
def liveSlot (ws : List Nat) (k n : Nat) : Option Nat :=
  ws.find? (fun w => w % 256 == 1 && w / 2 ^ 12 % 16 == k && w / 256 % 16 == n)

/-- The code of element (k, n) of a Q3 or Q4 body: one bit of each plane (R118, R121). -/
def qCode (r : List Byte) (planes k n : Nat) : Int :=
  let pos := 16 * n + k
  let c := (List.range planes).foldl (fun a p => a + 2 ^ p * (recField r (32 * p + pos / 8) 1 / 2 ^ (pos % 8) % 2)) 0
  if 2 ^ (planes - 1) ≤ c then (c : Int) - 2 ^ planes else c

/-- Twice the value of element (k, n) of a V2 body (R119, R121). -/
def v2Code (r : List Byte) (book : List Word) (k n : Nat) : Int :=
  let idx := recField r (2 * (2 * n + k / 8)) 2
  let i := k % 8
  let q := (book.getD (idx / 2 ^ 7 % 256) 0).toNat / 2 ^ (4 * i) % 16
  let neg (i : Nat) : Bool := idx / 2 ^ (6 - i) % 2 == 1
  let odd := ((List.range 7).filter neg).length % 2 == 1
  let v : Int := (q : Int) - (idx / 2 ^ 15)
  if (if i < 7 then neg i else odd) then -v else v

/-- An integer × 2^e × a scale; a decoded zero is +0. -/
def timesScale (v : Int) (e : Int) (c : Nat) : FVal :=
  if v = 0 then FVal.zero
  else
    let p := scaleParts c
    .fin (decide (v < 0)) (v.natAbs * p.1) (e + p.2 - 17)

/-- Element (k, n) of a record (R123). -/
def recElem (r : List Byte) (body : Body) (cap : BitVec 2) (book : List Word) (k n : Nat) : FVal :=
  match liveSlot (slotWords r body cap) k n with
  | some w => unpack .bf16 (w / 2 ^ 16)
  | none =>
    let sc := recField r (bodyBytes body + n) 1
    if sc = 0 then FVal.zero
    else if sc = 255 then .nan false
    else
      match body with
      | .q3 => timesScale (qCode r 3 k n) 0 sc
      | .q4 => timesScale (qCode r 4 k n) 0 sc
      | .v2 => timesScale (v2Code r book k n) (-1) sc

/-- The codebook table at a context's creation (R120). -/
def codebookReset : List Word :=
  (List.range 256).map (fun j =>
    BitVec.ofNat 32 ((List.range 8).foldl (fun a i => a + 16 ^ i * (1 + 2 * (j / 2 ^ i % 2))) 0))

/-! ### The encoding rule (R126 to R128) -/

/-- The magnitude bits of an element of a format. -/
def magBits (f : FFmt) (x : Nat) : Nat := x % 2 ^ (f.eb + f.fb)

/-- A candidate: NaN, an infinity, or a magnitude above τ on exact values (R126). -/
def isCand (f : FFmt) (tau x : Nat) : Bool :=
  let m := magBits f x
  if f.infBits ≤ m then true
  else
    let tm := tau % 2 ^ 15
    if 0x7F80 < tm then false
    else if 2 ^ 15 ≤ tau % 2 ^ 16 ∧ tm ≠ 0 then true
    else decide (tm * 2 ^ (f.fb - 7) < m)

/-- The sorting key of a candidate: every NaN alike and first, then the magnitude. -/
def candKey (f : FFmt) (x : Nat) : Nat := let m := magBits f x; if f.infBits < m then 2 ^ 40 else m

/-- A tile to encode: element `i` of unit `u` at place 16u + i. A unit shares one scale. -/
abbrev Tile := Nat → Nat → Nat

/-- Places of the candidates in sorted order (R126). -/
def candidates (f : FFmt) (e : Tile) (tau : Nat) : List Nat :=
  sortBy (fun p q =>
      let a := candKey f (e (p / 16) (p % 16))
      let b := candKey f (e (q / 16) (q % 16))
      decide (b < a) || (a == b && decide (p < q)))
    ((List.range 256).filter (fun p => isCand f tau (e (p / 16) (p % 16))))

/-- Whether a tile breaks R127 (R419). -/
def splitFails (f : FFmt) (e : Tile) (cands : List Nat) (cap spill : Nat) : Bool :=
  decide (cap + spill < cands.length) ||
    (cands.drop cap).any (fun p => decide (f.infBits ≤ magBits f (e (p / 16) (p % 16))))

/-- The scale of a unit, and whether it saturates. -/
def unitScale (f : FFmt) (e : Tile) (cands : List Nat) (maxcode u : Nat) : Nat × Bool :=
  let m := ((List.range 16).filter (fun i => !cands.contains (16 * u + i))).foldl
    (fun m i => max m (magBits f (e u i))) 0
  match unpack f m with
  | .fin _ k x => if k = 0 then (0, false) else (match scaleCeil k x maxcode with
    | some c => (c, false)
    | none => (0xFE, true))
  | _ => (0, false)

/-- The body code of a non-candidate: rounded and clamped, and whether that changes it. -/
def bodyCode (f : FFmt) (x maxcode sc : Nat) : Int × Bool :=
  if sc = 0 then (0, false)
  else
    match unpack f x with
    | .fin neg m ex =>
      let p := scaleParts sc
      let d := ex - ((p.2 : Int) - 17)
      let num := m * 2 ^ d.toNat
      let den := p.1 * 2 ^ (-d).toNat
      let q := num / den
      let r := num % den
      let q' := if den < 2 * r ∨ (2 * r = den ∧ q % 2 = 1) then q + 1 else q
      let k := min q' maxcode
      (if neg then -(k : Int) else k, r != 0 || decide (maxcode < q'))
    | _ => (0, false)

/-- The code of a spilled candidate: sign(x) × maxcode, and whether it changes the value. DESIGN CHOICE: the manual does not
define the sign of a zero, which a negative τ makes a candidate: its code is 0, which changes nothing (R126; assumption 86). -/
def spillCode (f : FFmt) (x maxcode sc : Nat) : Int × Bool :=
  match unpack f x with
  | .fin neg m ex =>
    if m = 0 then (0, false)
    else
      let p := scaleParts sc
      let d := ex - ((p.2 : Int) - 17)
      (if neg then -(maxcode : Int) else maxcode,
       sc == 0 || m * 2 ^ d.toNat != maxcode * p.1 * 2 ^ (-d).toNat)
  | _ => (0, false)

/-- A split tile: the code of each place, the scale of each unit, the outliers' places, and the flags spill, saturate
and inexact. -/
structure SplitTile where
  codes : List Int
  scales : List Nat
  outliers : List Nat
  flags : BitVec 7
  deriving DecidableEq, Repr

/-- The listing of R126 without the rounding of its outliers. -/
def splitTile (f : FFmt) (e : Tile) (maxcode cap tau : Nat) : SplitTile :=
  let cands := candidates f e tau
  let us := (List.range 16).map (unitScale f e cands maxcode)
  let spilled := cands.drop cap
  let codes := (List.range 256).map (fun p =>
    let sc := (us.getD (p / 16) (0, false)).1
    let x := e (p / 16) (p % 16)
    if spilled.contains p then spillCode f x maxcode sc
    else if cands.contains p then (0, false)
    else bodyCode f x maxcode sc)
  { codes := codes.map (fun c => c.1)
    scales := us.map (fun c => c.1)
    outliers := cands.take cap
    flags := (if spilled.isEmpty then 0 else 0x10) ||| (if us.any (fun c => c.2) then 0x20 else 0) |||
      (if codes.any (fun c => c.2) then 0x08 else 0) }

/-- Byte `b` of plane `p` of a body. -/
def planeByte (codes : List Int) (p b : Nat) : Byte :=
  BitVec.ofNat 8 ((List.range 8).foldl (fun a i =>
    a + 2 ^ i * ((BitVec.ofInt 4 (codes.getD (8 * b + i) 0)).toNat / 2 ^ p % 2)) 0)

/-- The bytes of the record that `TENC` writes (R121, R126), and its flags. Units are columns, places are rows. -/
def encodeRecord (body : Body) (cap : BitVec 2) (tau : Nat) (ovt : Word) (e : Tile) : List Byte × BitVec 7 :=
  let t := splitTile .f32 e (maxCode body) (capSlots cap) tau
  let planes := if body = .q3 then 3 else 4
  let vals := t.outliers.map (fun p => (p, rndOvt ovt .bf16 (unpack .f32 (e (p / 16) (p % 16)))))
  let slots := vals.map (fun v => 2 ^ 16 * v.2.1 + 2 ^ 12 * (v.1 % 16) + 256 * (v.1 / 16) + 1)
  ((List.range planes).flatMap (fun p => (List.range 32).map (planeByte t.codes p)) ++
    t.scales.map (BitVec.ofNat 8) ++
    (List.range (capSlots cap)).flatMap (fun j => leBytes (slots.getD j 0) 4),
   vals.foldl (fun f v => f ||| v.2.2) t.flags)

/-- The values of a sub-tile of A after its split (R128): place 16m + k. -/
def splitVals (t : SplitTile) (e : Tile) : List FVal :=
  (List.range 256).map (fun p =>
    if t.outliers.contains p then unpack .bf16 (e (p / 16) (p % 16))
    else
      let sc := t.scales.getD (p / 16) 0
      if sc = 0 then FVal.zero else timesScale (t.codes.getD p 0) 0 sc)

/-! ### Accumulation (R129, R130) -/

/-- p cut toward zero to a multiple of 2^q, as that multiple; and whether it changed. -/
def cutAt (q : Int) (v : FVal) : Int × Bool :=
  match v with
  | .fin neg m e =>
    let r := if q ≤ e then m * 2 ^ (e - q).toNat else m / 2 ^ (q - e).toNat
    let x := decide (e < q) && m % 2 ^ (q - e).toNat != 0
    (if neg then -(r : Int) else r, x)
  | _ => (0, false)

/-- The exponent of a non-zero finite value. -/
def expOf : FVal → Option Int
  | .fin _ m e => if m = 0 then none else some (e + Nat.log2 m)
  | _ => none

/-- The sum t of one k-group before its rounding, and the flags of the cut (R129). -/
def groupSum (ps : List FVal) : Exact :=
  if ps.any FVal.isNan then (.nan false, {})
  else
    let pos := ps.any (fun p => p.isInf && !p.neg)
    let neg := ps.any (fun p => p.isInf && p.neg)
    if pos && neg then invalidOp
    else if pos then (.inf false, {})
    else if neg then (.inf true, {})
    else
      match (ps.filterMap expOf).max? with
      | none => (.fin (ps.all FVal.neg) 0 0, {})
      | some top =>
        let q := top - 38
        let cs := ps.map (cutAt q)
        let s : Int := cs.foldl (fun (a : Int) c => a + c.1) 0
        (if s = 0 then .fin (ps.all (fun p => p.isZero && p.neg)) 0 0 else .fin (decide (s < 0)) s.natAbs q,
         { ix := cs.any (fun c => c.2) })

/-- One k-group's step of an accumulator. -/
def accStep (acc : Nat) (ps : List Exact) : Nat × Flags :=
  let (t, f) := groupSum (ps.map (fun p => p.1))
  let r := rne .f32 t
  let (s, g) := fAdd .rne (unpack .f32 acc) (unpack .f32 r.bits)
  let a := rne .f32 s
  (a.bits, (ps.foldl (fun x p => x.or p.2) f).or (r.flags.or (g.or a.flags)))

/-- An element of C after `MMQ` or `MMF` (R129): `a k` and `b k` for k = 0 to 31. -/
def mmElem (acc : Nat) (a b : Nat → FVal) : Nat × Flags :=
  (List.range 2).foldl (fun (r : Nat × Flags) g =>
    let y := accStep r.1 ((List.range 16).map (fun i => fMul (a (16 * g + i)) (b (16 * g + i))))
    (y.1, r.2.or y.2)) (acc, {})

/-- An element of C after `MMD` (R130). -/
def mmdElem (acc : Nat) (a b : Nat → Nat) : Nat × Flags :=
  (List.range 8).foldl (fun (r : Nat × Flags) k =>
    let (v, f) := fFma .rne (unpack .f64 (a k)) (unpack .f64 (b k)) (unpack .f64 r.1)
    let y := rne .f64 v
    (y.bits, r.2.or (f.or y.flags))) (acc, {})

end Sys2Proof.Machine
end

