-- ==== Sys2Proof/Machine/Matrix.lean ====
section
/-! DEFINITION. The matrix engine and class 0xB (spec 15 R320 to R338; 03 R81 to R83; 19 R375; 20 R398, R399; 21
R418 to R423, R427). -/

namespace Sys2Proof.Machine

/-! ### Fragments (R324) -/

/-- Word of register `j` of a fragment in lane L of beat `b`. -/
def Group.fragWord (g : Group) (reg b L j : Nat) : Word := (g.vreg (reg + j)).read (32 * b + L)

/-- BF16 element (m, k) of the A fragment of `MMQ` and `MMF`. -/
def Group.fragA (g : Group) (reg b m k : Nat) : Nat :=
  (g.fragWord reg b (2 * m + k / 16) (k % 16 / 2)).toNat / 2 ^ (16 * (k % 2)) % 2 ^ 16

/-- FP64 element (m, k) of the A fragment of `MMD`. -/
def Group.fragD (g : Group) (reg b m k : Nat) : Nat :=
  (g.fragWord reg b (2 * m + k / 4) (2 * (k % 4))).toNat +
    2 ^ 32 * (g.fragWord reg b (2 * m + k / 4) (2 * (k % 4) + 1)).toNat

/-- FP32 element (k, n) of the tile of `TENC`, as a `Tile`: units are columns. -/
def Group.fragT (g : Group) (reg b : Nat) : Tile := fun n k => (g.fragWord reg b (2 * k + n / 8) (n % 8)).toNat

/-- Sub-tile `st` of an A fragment as a `Tile`: units are rows (R128). -/
def Group.subA (g : Group) (reg b st : Nat) : Tile := fun m k => g.fragA reg b m (16 * st + k)

/-! ### The split of A (R101, R128) -/

def mxaBody (mxa : Word) : Nat := if mxa.toNat % 4 = 1 then 7 else 3
def mxaCap (mxa : Word) : Nat := capSlots (mxa.extractLsb' 4 2)
def mxaSpill (mxa : Word) : Nat := (mxa.extractLsb' 8 2).toNat
def mxaTau (mxa : Word) : Nat := mxa.toNat / 2 ^ 16

/-- The split of a sub-tile under a snapshot of MXA. -/
def splitA (mxa : Word) (e : Tile) : SplitTile := splitTile .bf16 e (mxaBody mxa) (mxaCap mxa) (mxaTau mxa)

/-- The candidate count of a sub-tile that breaks R127 (R419). -/
def splitBadA (mxa : Word) (e : Tile) : Option Nat :=
  let c := candidates .bf16 e (mxaTau mxa)
  if splitFails .bf16 e c (mxaCap mxa) (mxaSpill mxa) then some c.length else none

/-! ### Operations and what their steps read -/

/-- Bytes of an element of C. -/
def MatKind.es : MatKind → Nat
  | .mmd | .tzero true => 8
  | _ => 4

/-- Tile steps of an operation (R81): one for 16 columns, or one. -/
def MatOp.steps (o : MatOp) : Nat :=
  match o.kind with
  | .mmq .. | .mmf _ | .mmd | .tzero _ | .tcvt .. => o.ncol / 16
  | _ => 1

/-- Offset of element (m, 16s) of a tile of row stride N. -/
def tileAt (off es ncol s m : Nat) : Nat := off + es * (m * ncol + 16 * s)

/-- The places of the 16 columns of step `s` in `rows` rows. -/
def tileRanges (off es ncol s rows : Nat) : List (Nat × Nat) :=
  (List.range rows).map (fun m => (tileAt off es ncol s m, 16 * es))

/-- Offset of record (kb, nb) of a B operand (R324). -/
def recAt (off size ncol kb nb : Nat) : Nat := off + size * (kb * (ncol / 16) + nb)

/-- Offsets and lengths that the next tile step reads (R325). -/
def MatOp.reads (o : MatOp) : List (Nat × Nat) :=
  match o.kind with
  | .mmq body cap _ =>
    let n := recordSize body cap
    [(recAt o.boff n o.ncol 0 o.tile, n), (recAt o.boff n o.ncol 1 o.tile, n)] ++
      tileRanges o.coff 4 o.ncol o.tile 16
  | .mmf _ => tileRanges o.boff 2 o.ncol o.tile 32 ++ tileRanges o.coff 4 o.ncol o.tile 16
  | .mmd => tileRanges o.boff 8 o.ncol o.tile 8 ++ tileRanges o.coff 8 o.ncol o.tile 16
  | .tdec body cap => [(o.boff, recordSize body cap)]
  | .tcvt _ _ => tileRanges o.aoff 4 o.ncol o.tile 16
  | _ => []

/-- The lines of ranges. -/
def rangeLines (rs : List (Nat × Nat)) : List Nat := (rs.flatMap (fun r => linesOf r.1 r.2)).eraseDups

/-- A range that holds an uncorrectable error. -/
def Block.badRange (b : Block) (rs : List (Nat × Nat)) : Option Nat :=
  (rs.find? (fun r => b.spadBad r.1 r.2)).map (fun r => r.1)

/-- The block with lines of its window as a fetch has read them. -/
def Block.withLines (b : Block) : List LineRead → Block
  | [] => b
  | x :: xs =>
    let b := b.withLines xs
    { b with spm := Memory.setBytes b.spm (128 * x.line) (leBytes x.val 128),
             badSpm := b.badSpm.filter (fun w => decide (w / 16 ≠ x.line)) ++ x.bad }

/-- The empty lines of ranges that a fetch has still to read. -/
def Block.unreadLines (b : Block) (rs : List (Nat × Nat)) (got : List LineRead) : List Nat :=
  b.emptyLines ((rangeLines rs).filter (fun k => got.all (fun x => x.line != k)))

/-- A matrix operand fetch reads each line of ranges that is full and that it has not read (R148). -/
def Block.fetchLines (b : Block) (rs : List (Nat × Nat)) (got : List LineRead) : List LineRead :=
  got ++ ((rangeLines rs).filter (fun k => got.all (fun x => x.line != k) && b.feCount k == 0)).map (fun k =>
    ⟨k, Memory.read b.spm (128 * k) 128, b.badSpm.filter (fun w => decide (w / 16 = k))⟩)

/-- Registers that a queued operation reads, which writes of the group await (R422). -/
def MatOp.readRegs (o : MatOp) : List Nat :=
  match o.kind with
  | .mmq .. | .mmf _ | .mmd | .tenc .. => (List.range 8).map (· + o.reg)
  | _ => []

/-- Registers that a queued operation writes, which reads and writes of the group await (R325). -/
def MatOp.writeRegs (o : MatOp) : List Nat :=
  match o.kind with
  | .tdec _ _ => (List.range 4).map (· + o.reg)
  | _ => []

/-- Whether an instruction that reads `rs` and writes `ws` waits for the matrix queue of its group. -/
def Group.matrixBusy (g : Group) (rs ws : List Nat) : Bool :=
  g.mats.any (fun o => o.writeRegs.any (fun r => rs.contains r || ws.contains r) || o.readRegs.any ws.contains)

/-! ### Validation (R375, R457) -/

/-- Why a beat does not pass its validation: a fault, or lines that are empty, with those that have been read. -/
inductive MatStop where
  | fault (f : FaultInfo)
  | empty (lines : List Nat) (got : List LineRead)
  deriving DecidableEq, Repr

/-- All eight quads of a beat lie in the issue set. -/
def State.beatWhole (s : State) (b : Nat) : Bool := (List.range 8).all (fun i => s.cur.quads.getLsbD (8 * b + i))

/-- The combined guard in lane 32b + i. -/
def State.beatGuard (s : State) (h : Hdr) (b i : Nat) : Bool := s.grp.guards h (32 * b + i)

/-- The combined guard is the same in every lane of a beat. -/
def State.beatUniform (s : State) (h : Hdr) (b : Nat) : Bool :=
  (List.range 32).all (fun i => s.beatGuard h b i == s.beatGuard h b 0)

/-- Step 7 of R393 (R398, R399): the performed beats, or the fault. -/
def State.performed (s : State) (h : Hdr) (perBeat : Bool) : Except FaultInfo (List Nat) :=
  let sent := s.beats
  let lack := sent.filter (fun b => !s.beatWhole b)
  match perBeat, lack with
  | true, b :: _ => .error { code := 0x06, detail := (lack.map (2 ^ ·)).sum, beat := b }
  | _, _ =>
    let first := sent.headD 0
    let odd (b : Nat) : Bool := !s.beatUniform h b || (!perBeat && s.beatGuard h b 0 != s.beatGuard h first 0)
    match sent.find? odd with
    | some b => .error { code := 0x07, beat := b }
    | none => .ok (if perBeat then sent.filter (fun b => s.beatGuard h b 0)
        else (sent.take 1).filter (fun b => s.beatGuard h b 0))

/-- The value of an offset operand. -/
def State.offOf (s : State) (o : Opnd) : Nat := (s.grp.once o).toNat

/-- N of a SHAPE (R323). -/
def shapeN (c : Word) : Nat := c.toNat % 512

/-- A SHAPE that is out of range (R427). -/
def shapeFault (w64 : Bool) (c : Word) : Option FaultInfo :=
  let n := shapeN c
  if n % 16 ≠ 0 ∨ n < 16 ∨ 256 < n ∨ 1024 ≤ c.toNat ∨ (c.getLsbD 9 ∧ !w64) then some (operandFault 3) else none

/-- A named range: its alignment, then the window. -/
def State.matRange (s : State) (al off n : Nat) : Option FaultInfo := s.blk.spadCheck (fun _ => false) false al off n

/-- C overlaps a record, or a conversion its source. -/
def overlapFault (b : Bool) : Option FaultInfo := if b then some (operandFault 0) else none

/-- The ranges of a beat, each with its alignment: every alignment, then an overlap, then the window (R457; assumption 31). -/
def State.matRanges (s : State) (rs : List (Nat × Nat × Nat)) (overlap : Bool) : List (Option FaultInfo) :=
  rs.map (fun r => if r.2.1 % r.1 ≠ 0 then some { code := 0x12 } else none) ++
    overlapFault overlap :: rs.map (fun r => s.matRange 1 r.2.1 r.2.2)

/-- The first failing check of a list, as a stop. -/
def firstStop (xs : List (Option FaultInfo)) : Except MatStop Unit :=
  match xs.findSome? id with
  | some f => .error (.fault f)
  | none => .ok ()

/-- Two ranges overlap. -/
def overlaps (a n b m : Nat) : Bool := decide (a < b + m ∧ b < a + n)

/-- The lines that the fetch of the matrix instruction in progress has read so far. -/
def State.partLines (s : State) : List LineRead :=
  match s.grp.part with
  | none => []
  | some p => if p.org = s.origin then p.lines else []

/-- The block as the present issue's validation reads it: the lines that its fetch has read as they were then. -/
def State.matView (s : State) : Block := s.blk.withLines s.partLines

/-- The empty lines of ranges that the validation of the present issue has still to read. -/
def State.linesAwaited (s : State) (rs : List (Nat × Nat)) : List Nat := s.blk.unreadLines rs s.partLines

/-- The validation fetch of ranges: it reads each line that is full and waits for the others (R148, R331); then no
uncorrectable error in a register or a line that the beat reads (R435, R457). `got` are the lines read before. -/
def State.fetched (s : State) (rs : List (Nat × Nat)) (got : List LineRead) : Except MatStop Unit :=
  match s.linesAwaited rs, s.cur.bad, s.matView.badRange rs with
  | l :: ls, _, _ => .error (.empty (l :: ls) (s.blk.fetchLines rs got))
  | [], some r, _ => .error (.fault (regEcc r))
  | [], none, some off => .error (.fault (spadEcc off))
  | [], none, none => .ok ()

/-- A beat's checks of its ranges, then its fetch, then the entry `k`, with the lines read so far. -/
def State.checked (s : State) (xs : List (Option FaultInfo)) (rs : List (Nat × Nat)) (k : Unit → Except MatStop MatOp)
    (got : List LineRead) : Except MatStop (MatOp × List LineRead) :=
  match firstStop xs with
  | .error x => .error x
  | .ok _ =>
    match s.fetched rs got with
    | .error x => .error x
    | .ok _ => (k ()).map (fun o => (o, s.blk.fetchLines rs got))

/-- The split of A of a beat: sub-tile k 0 to 15 first (R419). -/
def State.splitChecked (s : State) (mxa : Word) (reg b c : Nat) : Except MatStop Unit :=
  firstStop ((List.range 2).map (fun st =>
    (splitBadA mxa (s.grp.subA reg b st)).map (fun n =>
      ({ code := 0x21, detail := b + 4 * st + 8 * n, info0 := mxa.toNat, info1 := c } : FaultInfo))))

/-- Some pin of the block in force covers a byte with a body and a cap (R327). -/
def Block.inPin (blk : Block) (body : Body) (cap : BitVec 2) (a : Nat) : Bool :=
  blk.groups.any (fun g => g.pins.any (fun p =>
    !p.released && p.body == body && p.cap == cap && decide (p.off ≤ a ∧ a < p.off + p.bytes)))

/-- The bytes of a record in the window. -/
def Block.record (blk : Block) (body : Body) (cap : BitVec 2) (off : Nat) : List Byte :=
  Memory.bytes blk.spm off (recordSize body cap)

/-- RECORD_FORMAT with its reason (R418). -/
def recordFault (reason off slot : Nat) : FaultInfo := { code := 0x22, hi := reason, info0 := off, info1 := slot }

/-- The slots of a record (R418 reasons 1 and 2). -/
def Block.slotFault (blk : Block) (body : Body) (cap : BitVec 2) (off : Nat) : Option FaultInfo :=
  (badSlot (slotWords (blk.record body cap off) body cap) 0 []).map (fun r => recordFault r.1 off r.2)

/-- A record of `MMQ`: its pin, then its slots. -/
def Block.recordFault (blk : Block) (body : Body) (cap : BitVec 2) (off : Nat) : Option FaultInfo :=
  if (List.range (recordSize body cap)).all (fun i => blk.inPin body cap (off + i)) then blk.slotFault body cap off
  else some (Machine.recordFault 3 off 0)

/-- A queue entry at its issue. -/
def State.matOp (s : State) (kind : MatKind) (b reg aoff boff coff ncol : Nat) : MatOp :=
  ⟨s.grp.issues, kind, b, reg, aoff, boff, coff, ncol, 0, false, none, []⟩

/-- The operations of the performed beats, each validated, in ascending order; a fault names its beat, and a line that one
beat has read is read for those after it too. -/
def checkBeats (f : Nat → List LineRead → Except MatStop (MatOp × List LineRead)) :
    List Nat → List LineRead → Except MatStop (List MatOp)
  | [], _ => .ok []
  | b :: bs, got =>
    match f b got with
    | .error (.fault e) => .error (.fault { e with beat := b })
    | .error x => .error x
    | .ok (o, got) => (checkBeats f bs got).map (fun os => o :: os)

/-- Marks the last operation of an issue. -/
def markLast : List MatOp → List MatOp
  | [] => []
  | [o] => [{ o with last := true }]
  | o :: os => o :: markLast os

/-- The object of a class 0xB issue: alignment and window; ZERO names none (R320, R427). -/
def State.matObj (s : State) (e : Opnd) : Option FaultInfo :=
  if e = .zero then none else s.matRange 64 (s.offOf e) 64

/-- Enters the operations of an issue in the queue and raises M (R321, R322). -/
def State.enqueue (s : State) (ops : List MatOp) (e : Opnd) : State :=
  s.modGrp (fun g => { g with
    mats := g.mats ++ markLast ops
    matIssues := g.matIssues ++ [⟨g.issues, 0, if e = .zero then none else some (s.offOf e), false, s.origin⟩] })

/-- A class 0xB issue: gangs and guards, room in the queue (R322), the issue-wide checks, the beats, and the queue.
`enter` is what the issue does beside. -/
def State.matrix (s : State) (h : Hdr) (perBeat : Bool) (e : Opnd) (wide : Option FaultInfo)
    (op : Nat → List LineRead → Except MatStop (MatOp × List LineRead)) (enter : State → State) :
    Host.Outcome State Fault Refusal :=
  match s.performed h perBeat with
  | .error f => s.fail f
  | .ok [] => s.done h
  | .ok (b :: bs) =>
    s.unheld .m fun s =>
      if 4 < s.grp.mats.length + (b :: bs).length then .next (s.waitFor .matrixQueue)
      else s.roomFor .m fun s =>
        match orElse wide (fun _ => s.matObj e) with
        | some f => s.fail { f with beat := b }
        | none =>
          match checkBeats op (b :: bs) s.partLines with
          | .error (.fault f) => s.fail f
          | .error (.empty l got) =>
            .next ((s.modGrp (fun g => { g with part := some ⟨s.origin, [], got⟩ })).waitFor (.lineEmpty l))
          | .ok ops => ((enter s).enqueue ops e).done h

/-! ### The instructions -/

/-- Offset of the band of beat `b` in a tile of row stride N (R324). -/
def bandAt (off es ncol b : Nat) : Nat := off + es * (16 * b * ncol)

def State.mmqBeat (s : State) (body : Body) (cap : BitVec 2) (reg b c off n : Nat) :
    List LineRead → Except MatStop (MatOp × List LineRead) :=
  let size := recordSize body cap
  let band := bandAt c 4 n b
  let count := 2 * (n / 16)
  s.checked (s.matRanges [(16, band, 64 * n), (16, off, size * count)] (overlaps band (64 * n) off (size * count)))
      [(off, size * count)] fun _ =>
    match s.splitChecked s.grp.mxa reg b c with
    | .error x => .error x
    | .ok _ =>
      match firstStop ((List.range count).map (fun i => s.matView.recordFault body cap (off + size * i))) with
      | .error x => .error x
      | .ok _ => .ok (s.matOp (.mmq body cap s.grp.mxa) b reg 0 off band n)

def execMmq (h : Hdr) (body : Body) (cap : BitVec 2) (d a b c e : Opnd) (s : State) :
    Host.Outcome State Fault Refusal :=
  let sh := s.grp.once c
  s.matrix h true e (shapeFault false sh)
    (fun i => s.mmqBeat body cap (regNum a) i (s.offOf d) (s.offOf b) (shapeN sh)) id

/-- A beat of `MMF` or `MMD`: the band of C, then the dense B of `rows` rows (R329). -/
def State.mmBeat (s : State) (kind : MatKind) (eb rows : Nat) (reg b c off n : Nat) :
    List LineRead → Except MatStop (MatOp × List LineRead) :=
  let es := kind.es
  let band := bandAt c es n b
  s.checked (s.matRanges [(16, band, 16 * es * n), (eb, off, eb * rows * n)] false) [] fun _ =>
    .ok (s.matOp kind b reg 0 off band n)

def execMmf (h : Hdr) (fp16 : Bool) (d a b c e : Opnd) (s : State) : Host.Outcome State Fault Refusal :=
  let sh := s.grp.once c
  s.matrix h true e (shapeFault false sh)
    (fun i => s.mmBeat (.mmf fp16) 2 32 (regNum a) i (s.offOf d) (s.offOf b) (shapeN sh)) id

def execMmd (h : Hdr) (d a b c e : Opnd) (s : State) : Host.Outcome State Fault Refusal :=
  let sh := s.grp.once c
  s.matrix h true e (shapeFault false sh)
    (fun i => s.mmBeat .mmd 8 8 (regNum a) i (s.offOf d) (s.offOf b) (shapeN sh)) id

/-- VAR of `TENC` (R264). -/
def tencVar (body : Body) (cap sp : BitVec 2) : Nat :=
  (match body with
   | .q3 => 0
   | .q4 => 1
   | .v2 => 2) + 4 * cap.toNat + 16 * sp.toNat

def State.tencBeat (s : State) (body : Body) (cap sp : BitVec 2) (reg b r : Nat) (tau : Word) :
    List LineRead → Except MatStop (MatOp × List LineRead) :=
  let size := recordSize body cap
  let off := r + size * b
  let t := tau.toNat % 2 ^ 16
  let cands := candidates .f32 (s.grp.fragT reg b) t
  s.checked [s.matRange 16 off size] [] fun _ =>
    if splitFails .f32 (s.grp.fragT reg b) cands (capSlots cap) sp.toNat then
      .error (.fault
        { code := 0x20, detail := b + 4 * cands.length, info0 := t + 2 ^ 16 * tencVar body cap sp, info1 := off })
    else .ok (s.matOp (.tenc body cap sp (tau.extractLsb' 0 16) (s.ctx s.blk.ctx).ovt) b reg 0 0 off 16)

def execTenc (h : Hdr) (body : Body) (cap sp : BitVec 2) (d a b e : Opnd) (s : State) :
    Host.Outcome State Fault Refusal :=
  let tau := s.grp.once b
  s.matrix h true e (if tau.toNat < 2 ^ 16 then none else some (operandFault 2))
    (fun i => s.tencBeat body cap sp (regNum a) i (s.offOf d) tau) id

def State.tdecBeat (s : State) (body : Body) (cap : BitVec 2) (reg b r : Nat) :
    List LineRead → Except MatStop (MatOp × List LineRead) :=
  let size := recordSize body cap
  let off := r + size * b
  s.checked [s.matRange 16 off size] [(off, size)] fun _ =>
    match firstStop [s.matView.slotFault body cap off] with
    | .error x => .error x
    | .ok _ => .ok (s.matOp (.tdec body cap) b reg 0 off 0 16)

def execTdec (h : Hdr) (body : Body) (cap : BitVec 2) (d b e : Opnd) (s : State) :
    Host.Outcome State Fault Refusal :=
  s.matrix h true e none (fun i => s.tdecBeat body cap (regNum d) i (s.offOf b)) id

/-- Entries of a pin table that are not free (R331). -/
def Group.pinsHeld (g : Group) : Nat := (g.pins.filter (fun p => !p.released)).length

/-- A pinned line of the block that carries another body or cap than a new range (R418 reason 5). -/
def Block.pinClash (blk : Block) (body : Body) (cap : BitVec 2) (off n : Nat) : Bool :=
  blk.groups.any (fun g => g.pins.any (fun p =>
    !(p.body == body && p.cap == cap) &&
      decide (off / 128 ≤ (p.off + p.bytes - 1) / 128 ∧ p.off / 128 ≤ (off + n - 1) / 128)))

/-- `TPIN`: its range, the fetch, then reasons 4 and 5 (R457). -/
def State.tpinOp (s : State) (body : Body) (cap : BitVec 2) (off n b : Nat) :
    List LineRead → Except MatStop (MatOp × List LineRead) :=
  s.checked [s.matRange 16 off n] [(off, n)] fun _ =>
    match firstStop [if 4 ≤ s.grp.pinsHeld then some (recordFault 4 off 0) else none,
        if s.blk.pinClash body cap off n then some (recordFault 5 off 0) else none] with
    | .error x => .error x
    | .ok _ => .ok (s.matOp .tpin b 0 0 off 0 16)

def execTpin (h : Hdr) (body : Body) (cap : BitVec 2) (b c e : Opnd) (s : State) :
    Host.Outcome State Fault Refusal :=
  let off := s.offOf b
  let count := s.offOf c
  let n := count * recordSize body cap
  s.matrix h false e (if count = 0 ∨ 512 < count then some (operandFault 3) else none)
    (s.tpinOp body cap off n)
    (fun s => s.modGrp (fun g => { g with pins := g.pins ++ [⟨off, n, body, cap, false⟩] }))

/-- Marks the first entry in force at an offset released. -/
def releasePin (off : Nat) : List Pin → List Pin
  | [] => []
  | p :: ps => if p.off = off ∧ !p.released then { p with released := true } :: ps else p :: releasePin off ps

/-- Removes the first released entry at an offset. -/
def removePin (off : Nat) : List Pin → List Pin
  | [] => []
  | p :: ps => if p.off = off ∧ p.released then ps else p :: removePin off ps

/-- `TUNPIN`: the offset, then reason 6 (R427, R457). -/
def State.tunpinOp (s : State) (off b : Nat) : List LineRead → Except MatStop (MatOp × List LineRead) :=
  s.checked [s.matRange 16 off 1] [] fun _ =>
    if s.grp.pins.any (fun p => p.off == off && !p.released) then .ok (s.matOp .tunpin b 0 0 off 0 16)
    else .error (.fault (recordFault 6 off 0))

def execTunpin (h : Hdr) (b e : Opnd) (s : State) : Host.Outcome State Fault Refusal :=
  let off := s.offOf b
  s.matrix h false e none
    (s.tunpinOp off)
    (fun s => s.modGrp (fun g => { g with pins := releasePin off g.pins }))

/-- A value that MXA can take (R101, R427). -/
def mxaOk (w : Word) : Bool := w &&& ~~~(0xFFFF0333#32) == 0 && decide (w.toNat % 4 < 2)

/-- `MXCFG` takes no queue entry; M falls in order (R333). -/
def execMxcfg (h : Hdr) (a : Opnd) (s : State) : Host.Outcome State Fault Refusal :=
  match s.performed h false with
  | .error f => s.fail f
  | .ok [] => s.done h
  | .ok (b :: _) =>
    s.unheld .m fun s => s.roomFor .m fun s =>
      let w := s.grp.once a
      if mxaOk w then
        (s.modGrp (fun g =>
          ({ g with mxa := w, matIssues := g.matIssues ++ [⟨g.issues, 0, none, true, s.origin⟩] } : Group).retireAll)).done h
      else s.fail { operandFault 1 with beat := b }

def State.tzeroBeat (s : State) (w64 : Bool) (b c n : Nat) :
    List LineRead → Except MatStop (MatOp × List LineRead) :=
  let es := (MatKind.tzero w64).es
  let band := bandAt c es n b
  s.checked [s.matRange 16 band (16 * es * n)] [] fun _ => .ok (s.matOp (.tzero w64) b 0 0 0 band n)

def execTzero (h : Hdr) (d c e : Opnd) (s : State) : Host.Outcome State Fault Refusal :=
  let sh := s.grp.once c
  s.matrix h true e (shapeFault true sh) (fun i => s.tzeroBeat (sh.getLsbD 9) i (s.offOf d) (shapeN sh)) id

/-- Bytes of an element that `TCVT` writes (R324). -/
def tfmtSize : TFmt → Nat
  | .f32 => 4
  | _ => 2

def State.tcvtBeat (s : State) (fmt : TFmt) (b d a n : Nat) :
    List LineRead → Except MatStop (MatOp × List LineRead) :=
  let es := tfmtSize fmt
  let dst := bandAt d es n b
  let src := bandAt a 4 n b
  s.checked (s.matRanges [(16, dst, 16 * es * n), (16, src, 64 * n)]
      (!(a == d && fmt == .f32) && overlaps src (64 * n) dst (16 * es * n))) [] fun _ =>
    .ok (s.matOp (.tcvt fmt (s.ctx s.blk.ctx).ovt) b 0 src 0 dst n)

def execTcvt (h : Hdr) (fmt : TFmt) (d a c e : Opnd) (s : State) : Host.Outcome State Fault Refusal :=
  let sh := s.grp.once c
  s.matrix h true e (shapeFault false sh) (fun i => s.tcvtBeat fmt i (s.offOf d) (s.offOf a) (shapeN sh)) id

/-- The places of the 1,024 bytes of a codebook, a line at a time (R338). -/
def State.codebookAt (s : State) (va : Dword) : Except FaultInfo (List Nat) :=
  checkLanes (fun i => (s.transl s.core s.blk.ctx .read (if i = 0 then 128 else 1)
    (va + BitVec.ofNat 64 (128 * i))).map (fun p => p.1)) (List.range 8)

def execLdcbk (h : Hdr) (a e : Opnd) (s : State) : Host.Outcome State Fault Refusal :=
  let va := s.grp.once64 a
  s.matrix h false e none
    (fun b got =>
      match s.codebookAt va with
      | .error f => .error (.fault f)
      | .ok pas =>
        s.checked [] [] (fun _ =>
          match pas.find? (fun pa => s.badAt pa 128) with
          | some pa => .error (.fault (eccFault pa))
          | none => .ok (s.matOp (.ldcbk pas) b 0 0 0 0 16)) got) id

/-! ### The engine (R81 to R83, R330) -/

/-- Sixteen columns of a row of C or of a destination, as bytes, and their flags. -/
def rowBytes (es : Nat) (f : Nat → Nat × BitVec 7) : List Byte × BitVec 7 :=
  let xs := (List.range 16).map f
  (xs.flatMap (fun x => leBytes x.1 es), xs.foldl (fun a x => a ||| x.2) 0)

/-- Writes the 16 columns of step `t` of a tile, row by row. -/
def State.writeTile (s : State) (off es ncol t : Nat) (f : Nat → Nat → Nat × BitVec 7) : State × BitVec 7 :=
  let rows := (List.range 16).map (fun m => (m, rowBytes es (f m)))
  (s.modBlk (fun b => rows.foldl (fun b r => b.spadWrite (tileAt off es ncol t r.1) r.2.1) b),
   rows.foldl (fun a r => a ||| r.2.2) 0)

/-- Column `n` of step `t` of row `m`, as its bits. -/
def Block.tileElem (b : Block) (off es ncol t m n : Nat) : Nat :=
  Memory.read b.spm (tileAt off es ncol t m + es * n) es

/-- The codebook table of a context. -/
def Context.book (c : Context) : List Word := c.codebook.getD codebookReset

/-- One step of `MMQ` (R327): the state, the flags, and the outlier entries that the Trestle forms. -/
def State.mmqStep (s : State) (o : MatOp) (body : Body) (cap : BitVec 2) (mxa : Word) : State × BitVec 7 × Nat :=
  let g := s.grp
  let blk := s.blk.withLines o.got
  let size := recordSize body cap
  let book := o.codebook.getD codebookReset
  let recs := (List.range 2).map (fun kb => blk.record body cap (recAt o.boff size o.ncol kb o.tile))
  let splits := (List.range 2).map (fun st => splitA mxa (g.subA o.reg o.beat st))
  let av := (List.range 2).map (fun st => splitVals (splitA mxa (g.subA o.reg o.beat st)) (g.subA o.reg o.beat st))
  let bv := recs.map (fun r => (List.range 256).map (fun p => recElem r body cap book (p % 16) (p / 16)))
  let a (m k : Nat) : FVal := (av.getD (k / 16) []).getD (16 * m + k % 16) FVal.zero
  let b (n k : Nat) : FVal := (bv.getD (k / 16) []).getD (16 * n + k % 16) FVal.zero
  let (t, f) := s.writeTile o.coff 4 o.ncol o.tile (fun m n =>
    let r := mmElem (blk.tileElem o.coff 4 o.ncol o.tile m n) (a m) (b n)
    (r.1, r.2.engine))
  (t, splits.foldl (fun f x => f ||| x.flags) f,
   (splits.map (fun x => x.outliers.length)).sum +
     (recs.map (fun r => ((slotWords r body cap).filter (fun w => w % 256 == 1)).length)).sum)

/-- The format of `TCVT`'s result. -/
def tfmtOf : TFmt → FFmt
  | .f32 => .f32
  | .bf16 => .bf16
  | .fp16 => .f16

/-- The result of `TDEC` (R335): register `j` in lane L of the beat. -/
def tdecWord (elem : Nat → Nat → FVal) (L j : Nat) : Word :=
  let bits (n : Nat) : Nat := (rne .bf16 (elem (L / 2) n)).bits
  BitVec.ofNat 32 (bits (8 * (L % 2) + 2 * j) + 2 ^ 16 * bits (8 * (L % 2) + 2 * j + 1))

/-- The instruction that issued an operation of the present group. -/
def State.matOrigin (s : State) (o : MatOp) : Origin :=
  (s.grp.matIssues.find? (fun x => x.seq == o.seq)).elim s.origin (fun x => x.org)

/-- What one tile step of an operation does for the seated group, from the lines as its fetch has read them: the state, the
flags, and outlier entries. A codebook that
`LDCBK` reads may hold external bytes (R230), and asks the host for those in its memory (R217). -/
def State.tileStep (s : State) (o : MatOp) : State × BitVec 7 × Nat :=
  let g := s.grp
  let blk := s.blk.withLines o.got
  match o.kind with
  | .mmq body cap mxa => s.mmqStep o body cap mxa
  | .mmf fp16 =>
    let f := if fp16 then FFmt.f16 else .bf16
    let (t, fl) := s.writeTile o.coff 4 o.ncol o.tile (fun m n =>
      let r := mmElem (blk.tileElem o.coff 4 o.ncol o.tile m n) (fun k => unpack .bf16 (g.fragA o.reg o.beat m k))
        (fun k => unpack f (blk.tileElem o.boff 2 o.ncol o.tile k n))
      (r.1, r.2.engine))
    (t, fl, 0)
  | .mmd =>
    let (t, fl) := s.writeTile o.coff 8 o.ncol o.tile (fun m n =>
      let r := mmdElem (blk.tileElem o.coff 8 o.ncol o.tile m n) (g.fragD o.reg o.beat m)
        (fun k => blk.tileElem o.boff 8 o.ncol o.tile k n)
      (r.1, r.2.engine))
    (t, fl, 0)
  | .tenc body cap _ tau ovt =>
    let r := encodeRecord body cap tau.toNat ovt (g.fragT o.reg o.beat)
    (s.modBlk (fun b => b.spadWrite o.coff r.1), r.2, 0)
  | .tdec body cap =>
    let r := blk.record body cap o.boff
    let elem := recElem r body cap (o.codebook.getD codebookReset)
    let lanes (l : Nat) : Bool := l / 32 == o.beat
    (s.modGrp (fun g => (List.range 4).foldl (fun g j =>
      g.setV (o.reg + j) ((g.vreg (o.reg + j)).write lanes (fun l => tdecWord elem (l % 32) j) none)) g), 0, 0)
  | .tpin => (s, 0, 0)
  | .tunpin => (s.modGrp (fun g => { g with pins := removePin o.boff g.pins }), 0, 0)
  | .tzero w64 =>
    let es := (MatKind.tzero w64).es
    let (t, _) := s.writeTile o.coff es o.ncol o.tile (fun _ _ => (0, 0))
    (t, 0, 0)
  | .tcvt fmt ovt =>
    let (t, fl) := s.writeTile o.coff (tfmtSize fmt) o.ncol o.tile (fun m n =>
      let x := unpack .f32 (blk.tileElem o.aoff 4 o.ncol o.tile m n)
      match fmt, x with
      | .f32, .nan sig => (FFmt.f32.nan, if sig then 1 else 0)
      | .f32, _ => (blk.tileElem o.aoff 4 o.ncol o.tile m n, 0)
      | _, _ => rndOvt ovt (tfmtOf fmt) x)
    (t, fl, 0)
  | .ldcbk pas =>
    let org := s.matOrigin o
    let (bytes, t) := s.readRuns org o.seq (pas.map (fun pa => (.glob pa, 128)))
    ((t.inputsTaken org o.seq).setCtx blk.ctx
      { t.ctx blk.ctx with codebook := some ((elemsOf 4 256 bytes).map (BitVec.ofNat 32)) }, 0, 0)

/-- The step of an operation of a group whose matrix queue state software has altered, or of an `MMQ` under a reserved
AFMT: what it writes and its flags are undefined (R3, R409; assumption 62). -/
def State.freeStep (s : State) (o : MatOp) : State × BitVec 7 × Nat :=
  let k := s.free
  let s := { s with free := k + 2 }
  let any (i : Nat) : Nat := (Config.freeWord k i).toNat + 2 ^ 32 * (Config.freeWord (k + 1) i).toNat
  let t := match o.kind with
    | .tpin | .tunpin => (s.tileStep o).1
    | .ldcbk _ => s.setCtx s.blk.ctx { s.ctx s.blk.ctx with codebook := some ((List.range 256).map (Config.freeWord k)) }
    | .tdec _ _ => s.modGrp (fun g => (List.range 4).foldl (fun g j =>
        g.setV (o.reg + j) ((g.vreg (o.reg + j)).write (fun l => l / 32 == o.beat) (fun l => Config.freeWord k (4 * l + j)) none)) g)
    | .tenc body cap .. => s.modBlk (fun b => b.spadWrite o.coff ((List.range (recordSize body cap)).map (Config.freeByte k)))
    | .tcvt fmt _ => (s.writeTile o.coff (tfmtSize fmt) o.ncol o.tile (fun m n => (any (16 * m + n), 0))).1
    | kind => (s.writeTile o.coff kind.es o.ncol o.tile (fun m n => (any (16 * m + n), 0))).1
  (t, BitVec.ofNat 7 (Config.freeNat k), 0)

/-- Whether a step computes defined results (R409). -/
def Group.matDefined (g : Group) (o : MatOp) : Bool :=
  !g.matFree && (match o.kind with
    | .mmq _ _ mxa => decide (mxa.toNat % 4 < 2)
    | _ => true)

/-- What an operation holds from its start: the codebook table (R120). -/
def State.startOp (s : State) (o : MatOp) : MatOp :=
  if o.tile ≠ 0 then o
  else
    match o.kind with
    | .mmq .v2 _ _ | .tdec .v2 _ => { o with codebook := some (s.ctx s.blk.ctx).book }
    | _ => o

/-- An uncorrectable error that a step meets: its address, and whether it is physical (R423, R435). -/
def State.stepBad (s : State) (o : MatOp) : Option (Dword × Bool) :=
  match o.kind with
  | .ldcbk pas => (pas.find? (fun pa => s.badAt pa 128)).map (fun pa => (BitVec.ofNat 64 pa, true))
  | _ => ((s.blk.withLines o.got).badRange o.reads).map (fun off => (BitVec.ofNat 64 off, false))

/-- The issue of an operation gathers its flags; with its last operation the issue completes, M falls in order, and
the object receives its arrival (R322). -/
def State.afterStep (s : State) (o : MatOp) (f : BitVec 7) : State :=
  let ended := decide (o.steps ≤ o.tile + 1)
  let t := s.modGrp (fun g =>
    { g with
      mats := if ended then g.mats.drop 1 else { o with tile := o.tile + 1, got := [] } :: g.mats.drop 1
      matIssues := g.matIssues.map (fun (x : MatIssue) =>
        if x.seq = o.seq then { x with flags := x.flags ||| f, done := ended && o.last } else x) })
  if ended && o.last then
    match t.grp.matIssues.find? (fun x => x.seq == o.seq) with
    | none => t
    | some x => (t.modGrp Group.retireAll).engineArrive x.obj x.flags x.org
  else t

/-- One tile step of the seated group's oldest operation; `fused` when it is one of several (R82, R423). -/
def State.stepOldest (s : State) (fused : Bool) : State :=
  match s.grp.mats with
  | [] => s
  | p :: _ =>
    let o := s.startOp p
    let s := (s.count 0x0C 1).count 0x0D (if fused then 1 else 0)
    match s.stepBad o with
    | some (a, phys) =>
      (s.modGrp (fun g => g.async (s.eccAsync (s.matOrigin o) a.toNat phys))).afterStep o 0
    | none =>
      let (t, f, n) := if s.grp.matDefined o then s.tileStep o else s.freeStep o
      (t.count 0x0E n).afterStep o f

/-- The oldest operation of a group that the engine can perform a step of: every line that it has still to read is full
(R148, R325). -/
def Group.nextMat (g : Group) (b : Block) : Option MatOp :=
  match g.mats with
  | [] => none
  | o :: _ => if (b.unreadLines o.reads o.got).isEmpty then some o else none

/-- The fetch of a group's oldest operation that has to wait for a line reads those that are full (R148; assumption 42). -/
def Group.gather (b : Block) (g : Group) : Group :=
  match g.mats with
  | [] => g
  | o :: os => if (b.unreadLines o.reads o.got).isEmpty then g else { g with mats := { o with got := b.fetchLines o.reads o.got } :: os }

/-- The oldest operation of a group that counts when the engine looks for its next step: in steady mode whether its lines
are full or not, as no timing may decide (R84). -/
def Group.headMat (g : Group) (b : Block) : Option MatOp := if b.steady then g.mats.head? else g.nextMat b

/-- A group's place in the turns of its core's matrix engine: its resident slot (R81), behind the launch in a steady block
(note (c) of R19). -/
def Block.matKey (b : Block) (slot : Nat) : Nat :=
  if b.steady then 32 * (64 * b.ref.launch.seq + b.ref.launch.queue % 64 + 1) + slot else slot

/-- Whether the engine of a core may serve a block: those of steady launches at the engine's place in the round (R84;
assumption 64). -/
def State.serves (s : State) (c : CoreId) (b : Block) : Bool :=
  b.die == c.die && b.core == c.core && (b.runs || (b.steady && !b.halted)) && (!b.steady || s.roundNext c == enginePlace)

/-- The groups of a core whose oldest operation may have the next step: block and group index, place in the turns. -/
def State.matReady (s : State) (c : CoreId) : List (Nat × Nat × Nat) :=
  (s.blocks.mapIdx (fun i b => (i, b))).flatMap (fun (i, b) =>
    if s.serves c b then
      (b.groups.mapIdx (fun j g => (i, j, b.matKey g.slot, g))).filterMap (fun x =>
        (x.2.2.2.headMat b).map (fun _ => (x.1, x.2.1, x.2.2.1)))
    else [])

/-- Whether two multiplies have one opcode and VAR, B address and N, and C ranges that do not overlap (R82). -/
def MatOp.fuses (x y : MatOp) : Bool :=
  let same : Bool := match x.kind, y.kind with
    | .mmq b1 c1 _, .mmq b2 c2 _ => b1 == b2 && c1 == c2
    | .mmf f1, .mmf f2 => f1 == f2
    | .mmd, .mmd => true
    | _, _ => false
  let n := 16 * x.kind.es * x.ncol
  same && x.boff == y.boff && x.ncol == y.ncol && !overlaps x.coff n y.coff n

/-- The engine of a core reads what it can for the operations that have to wait for a line. -/
def State.gatherMats (s : State) (c : CoreId) : State :=
  { s with blocks := s.blocks.map (fun b => if s.serves c b then { b with groups := b.groups.map (Group.gather b) } else b) }

/-- The groups of a block whose oldest operations are fused with that of group `j`: at most four (R82). DESIGN CHOICE: the
manual does not say which when more qualify, or when candidates overlap one another: the lower group number comes first
(assumption 77). -/
def Block.fusedWith (b : Block) (j : Nat) (o : MatOp) : List Nat :=
  let start := [(j, o)]
  let cand := (b.groups.mapIdx (fun k g => (k, g.headMat b))).filterMap (fun x =>
    if x.1 = j then none else x.2.map (fun p => (x.1, p)))
  (cand.foldl (fun (l : List (Nat × MatOp)) x =>
    if l.length < 4 && l.all (fun y => y.2.fuses x.2) then l ++ [x] else l) start).map (fun x => x.1)

/-- The engine of a core performs one tile step, of the group whose turn it is and those fused with it; before any was
served the turn is slot 0's (R81; assumption 68). -/
def execMatrixTileStep (c : CoreId) (s : State) : Host.Outcome State Fault Refusal :=
  let s := s.gatherMats c
  let last := Tbl.get 0 s.turns (coreKey c)
  match bestBy (fun x => (if last ≤ x.2.2 then 0 else 1, x.2.2, 0)) (s.matReady c) with
  | none => .next s
  | some (i, j, slot) =>
    let b := s.blocks.getD i Block.nil
    match (b.groups.getD j Group.nil).nextMat b with
    | none => .next s
    | some o =>
      let js := b.fusedWith j o
      if js.any (fun k => ((b.groups.getD k Group.nil).nextMat b).isNone) then .next s
      else
        let t := js.foldl (fun t k => t.within i k (fun u => u.stepOldest (decide (1 < js.length)))) s
        .next { t with
          turns := Tbl.set 0 t.turns (coreKey c) (slot + 1)
          rounds := if b.steady then Tbl.set 0 t.rounds (coreKey c) (enginePlace + 1) else t.rounds }

end Sys2Proof.Machine
end

