-- ==== Sys2Proof/Machine/Bits.lean ====
section
/-! DEFINITION. Logic and bit fields, class 0x1 (spec 12 R272). -/

namespace Sys2Proof.Machine

/-- A lane-wise operation on two 32-bit sources without modifiers. -/
def State.bin (s : State) (h : Hdr) (d a b : Opnd) (f : Word → Word → Word) : Host.Outcome State Fault Refusal :=
  let g := s.grp
  let val (l : Nat) : Word := f (g.read a l) (g.read b l)
  s.laneWise h d val (tagU (g.isU a && g.isU b) val)

/-- A lane-wise operation on one 32-bit source. -/
def State.un (s : State) (h : Hdr) (d a : Opnd) (f : Word → Word) : Host.Outcome State Fault Refusal :=
  let g := s.grp
  let val (l : Nat) : Word := f (g.read a l)
  s.laneWise h d val (tagU (g.isU a) val)

/-- A lane-wise operation on three 32-bit sources. -/
def State.tern (s : State) (h : Hdr) (d a b c : Opnd) (f : Word → Word → Word → Word) :
    Host.Outcome State Fault Refusal :=
  let g := s.grp
  let val (l : Nat) : Word := f (g.read a l) (g.read b l) (g.read c l)
  s.laneWise h d val (tagU (g.isU a && g.isU b && g.isU c) val)

def execAnd (h : Hdr) (d a b : Opnd) (s : State) : Host.Outcome State Fault Refusal := s.bin h d a b (fun x y => x &&& y)
def execOr (h : Hdr) (d a b : Opnd) (s : State) : Host.Outcome State Fault Refusal := s.bin h d a b (fun x y => x ||| y)
def execXor (h : Hdr) (d a b : Opnd) (s : State) : Host.Outcome State Fault Refusal := s.bin h d a b (fun x y => x ^^^ y)
def execAndn (h : Hdr) (d a b : Opnd) (s : State) : Host.Outcome State Fault Refusal := s.bin h d a b (fun x y => x &&& ~~~y)

/-- A word whose bit `i` is `f i`. -/
def wordOf (f : Nat → Bool) : Word := (BitVec.ofBoolListLE ((List.range 32).map f)).setWidth 32

def b01 (b : Bool) : Nat := if b then 1 else 0

/-- Bit i is lut[a_i + 2·b_i + 4·c_i]. -/
def lop3 (lut : BitVec 8) (a b c : Word) : Word :=
  wordOf (fun i => lut.getLsbD (b01 (a.getLsbD i) + 2 * b01 (b.getLsbD i) + 4 * b01 (c.getLsbD i)))

def execLop3 (h : Hdr) (lut : BitVec 8) (d a b c : Opnd) (s : State) : Host.Outcome State Fault Refusal :=
  s.tern h d a b c (lop3 lut)

/-- Shifts by an unsigned 32-bit amount. -/
def shlBy (w : Nat) (a : BitVec w) (n : Nat) : BitVec w := if n < w then a <<< n else 0
def shrBy (w : Nat) (a : BitVec w) (n : Nat) : BitVec w := if n < w then a >>> n else 0
def sarBy (w : Nat) (a : BitVec w) (n : Nat) : BitVec w := a.sshiftRight (min n w)

/-- A shift at 32 or at 64 bits. -/
def State.shift (s : State) (h : Hdr) (w64 : Bool) (d a b : Opnd)
    (f : (w : Nat) → BitVec w → Nat → BitVec w) (tag : (Nat → Word) → Option VReg) :
    Host.Outcome State Fault Refusal :=
  let g := s.grp
  if w64 then s.laneWise64 h d (fun l => f 64 (g.read64 a l) (g.read b l).toNat) (g.isU64 a && g.isU b)
  else
    let val (l : Nat) : Word := f 32 (g.read a l) (g.read b l).toNat
    s.laneWise h d val (tag val)

def execShl (h : Hdr) (w64 : Bool) (d a b : Opnd) (s : State) : Host.Outcome State Fault Refusal :=
  s.shift h w64 d a b shlBy (fun val => s.grp.tag2 true a b val (fun x y =>
    if y.2 = 0 ∧ y.1.toNat ≤ 31 then some (affineReg (x.1 <<< y.1.toNat) (x.2 <<< y.1.toNat)) else none))

def execShr (h : Hdr) (w64 : Bool) (d a b : Opnd) (s : State) : Host.Outcome State Fault Refusal :=
  s.shift h w64 d a b shrBy (tagU (s.grp.isU a && s.grp.isU b))

def execSar (h : Hdr) (w64 : Bool) (d a b : Opnd) (s : State) : Host.Outcome State Fault Refusal :=
  s.shift h w64 d a b sarBy (tagU (s.grp.isU a && s.grp.isU b))

def fshl (a b c : Word) : Word := ((b ++ a : Dword) <<< min c.toNat 32).extractLsb' 32 32
def fshr (a b c : Word) : Word := ((b ++ a : Dword) >>> min c.toNat 32).extractLsb' 0 32

def execFshl (h : Hdr) (d a b c : Opnd) (s : State) : Host.Outcome State Fault Refusal := s.tern h d a b c fshl
def execFshr (h : Hdr) (d a b c : Opnd) (s : State) : Host.Outcome State Fault Refusal := s.tern h d a b c fshr

def execRotl (h : Hdr) (d a b : Opnd) (s : State) : Host.Outcome State Fault Refusal :=
  s.bin h d a b (fun x y => x.rotateLeft (y.toNat % 32))

/-- `BFE`: the field of `len` bits at `pos`, extended. -/
def bfe (signed : Bool) (a pos len : Word) : Word :=
  let p := min pos.toNat 32
  let n := min len.toNat (32 - p)
  let f := a.toNat / 2 ^ p % 2 ^ n
  if n = 0 then 0
  else if signed && decide (2 ^ (n - 1) ≤ f) then BitVec.ofInt 32 ((f : Int) - (2 ^ n : Nat))
  else BitVec.ofNat 32 f

def execBfe (h : Hdr) (t : ITy) (d a b c : Opnd) (s : State) : Host.Outcome State Fault Refusal :=
  s.tern h d a b c (bfe (ITy.signed t))

/-- `BFI`: `b` with bits [p + n − 1 : p] replaced by the low bits of `a`. -/
def bfi (a b pos len : Word) : Word :=
  let p := min pos.toNat 32
  let n := min len.toNat (32 - p)
  let mask : Word := BitVec.ofNat 32 ((2 ^ n - 1) * 2 ^ p)
  (b &&& ~~~mask) ||| ((a <<< p) &&& mask)

def execBfi (h : Hdr) (d a b c e : Opnd) (s : State) : Host.Outcome State Fault Refusal :=
  let g := s.grp
  let val (l : Nat) : Word := bfi (g.read a l) (g.read b l) (g.read c l) (g.read e l)
  s.laneWise h d val (tagU (g.isU a && g.isU b && g.isU c && g.isU e) val)

def execBrev (h : Hdr) (d a : Opnd) (s : State) : Host.Outcome State Fault Refusal :=
  s.un h d a (fun x => wordOf (fun i => x.getLsbD (31 - i)))

/-- The number of ones among the low `n` bits. -/
def popCount (x : Word) : Nat → Nat
  | 0 => 0
  | n + 1 => b01 (x.getLsbD n) + popCount x n

def execPopc (h : Hdr) (d a : Opnd) (s : State) : Host.Outcome State Fault Refusal :=
  s.un h d a (fun x => BitVec.ofNat 32 (popCount x 32))

/-- Leading zeros below bit `n`. -/
def leadZeros (x : Word) : Nat → Nat
  | 0 => 0
  | n + 1 => if x.getLsbD n then 0 else leadZeros x n + 1

/-- Trailing zeros: `n` bits from bit `i` up. -/
def trailZeros (x : Word) : Nat → Nat → Nat
  | 0, _ => 0
  | n + 1, i => if x.getLsbD i then 0 else trailZeros x n (i + 1) + 1

def execClz (h : Hdr) (d a : Opnd) (s : State) : Host.Outcome State Fault Refusal :=
  s.un h d a (fun x => BitVec.ofNat 32 (leadZeros x 32))

def execCtz (h : Hdr) (d a : Opnd) (s : State) : Host.Outcome State Fault Refusal :=
  s.un h d a (fun x => BitVec.ofNat 32 (trailZeros x 32 0))

/-- Byte `i` of the result of `PRMT`. -/
def prmtByte (a b c : Word) (i : Nat) : Byte :=
  let ctl := c.toNat / 2 ^ (8 * i)
  let y : Byte := ((b ++ a : Dword) >>> (8 * (ctl % 8))).setWidth 8
  match ctl / 8 % 4 with
  | 0 => y
  | 1 => 0
  | 2 => if y.getLsbD 7 then 0xFF else 0
  | _ => y.reverse

def prmt (a b c : Word) : Word := prmtByte a b c 3 ++ prmtByte a b c 2 ++ prmtByte a b c 1 ++ prmtByte a b c 0

def execPrmt (h : Hdr) (d a b c : Opnd) (s : State) : Host.Outcome State Fault Refusal := s.tern h d a b c prmt

end Sys2Proof.Machine
end

