-- ==== Sys2Proof/Machine/Compare.lean ====
section
/-! DEFINITION. Compare, select and predicates, class 0x2 (spec 11 R260, 12 R268, R273). -/

namespace Sys2Proof.Machine

/-- A condition on an ordering; `none` is the outcome of a comparison with a NaN (R260, R273). -/
def condHolds (c : Cond) (o : Option Ordering) : Bool :=
  match c, o with
  | .eq, some .eq => true
  | .ne, o => o != some .eq
  | .lt, some .lt => true
  | .le, some .lt | .le, some .eq => true
  | .gt, some .gt => true
  | .ge, some .gt | .ge, some .eq => true
  | .num, o => o.isSome
  | .nan, o => o.isNone
  | _, _ => false

/-- A predicate result in the lanes of active(g). -/
def State.lanePred (s : State) (h : Hdr) (pd : PField) (val : Nat → Bool) : Host.Outcome State Fault Refusal :=
  (s.writeP (s.lane h) pd val).done h

def execIcmp (h : Hdr) (m : Mods) (cond : Cond) (t : ITy) (pd : PField) (a b : Opnd) (pq : PField) (s : State) :
    Host.Outcome State Fault Refusal :=
  let g := s.grp
  s.lanePred h pd (fun l =>
    condHolds cond (some (compare (g.int t (m.a a) l) (g.int t (m.b b) l))) && g.pfield pq l)

/-- Elements of a float type: one, or two halves. -/
def elems (t : FTy) : List Nat := if t.packed then [0, 1] else [0]

def execFcmp (h : Hdr) (m : Mods) (cond : Cond) (ft : FTy) (pd : PField) (a b : Opnd) (pq : PField) (s : State) :
    Host.Outcome State Fault Refusal :=
  let g := s.grp
  s.lanePred h pd (fun l =>
    (elems ft).all (fun e => condHolds cond (fCompare (g.flt ft (m.a a) e l) (g.flt ft (m.b b) e l))) &&
      g.pfield pq l)

def execSel (h : Hdr) (m : Mods) (d a b : Opnd) (pq : PField) (s : State) : Host.Outcome State Fault Refusal :=
  let g := s.grp
  s.laneWise h d (fun l => if g.pfield pq l then g.word (m.a a) l else g.word (m.b b) l) none

def execPset (h : Hdr) (lut : BitVec 8) (pd pa pb pc : PField) (s : State) : Host.Outcome State Fault Refusal :=
  let g := s.grp
  s.lanePred h pd (fun l => lut.getLsbD (b01 (g.pfield pa l) + 2 * b01 (g.pfield pb l) + 4 * b01 (g.pfield pc l)))

/-- The 32 bits of a mask of lanes that belong to beat `b`. -/
def beatWord (f : Nat → Bool) (b : Nat) : Word := wordOf (fun i => f (32 * b + i))

/-- `PMOVS`: the predicate in X(g), zero elsewhere, to three scalars; nothing when X(g) is empty (R270). -/
def execPmovs (h : Hdr) (d : Opnd) (pa : PField) (s : State) : Host.Outcome State Fault Refusal :=
  let g := s.grp
  let x := s.xlane h
  let f (l : Nat) : Bool := x l && g.pfield pa l
  match d, (s.xs h).isEmpty with
  | .s n, false =>
    (s.modGrp (fun g => ((g.setS n.toNat (beatWord f 0)).setS (n.toNat + 1) (beatWord f 1)).setS (n.toNat + 2)
      (beatWord f 2))).done h
  | _, _ => s.done h

/-- `PMOVP`: a bit of three scalars for each lane, or whether the lane's source is not zero. Modifiers change
neither (assumption 11). -/
def execPmovp (h : Hdr) (m : Mods) (pd : PField) (a : Opnd) (s : State) : Host.Outcome State Fault Refusal :=
  let g := s.grp
  s.lanePred h pd (fun l =>
    match a with
    | .s n => if n.toNat ≤ 61 then (g.sreg (n.toNat + l / 32)).getLsbD (l % 32) else g.word (m.a a) l != 0
    | a => g.word (m.a a) l != 0)

end Sys2Proof.Machine
end

