-- ==== Sys2Proof/Machine/Lanes.lean ====
section
/-! DEFINITION. Lanes, quads and the whole group, class 0x6 (spec 12 R270, R274 to R276). -/

namespace Sys2Proof.Machine

/-- A lane move: lane `l` receives what lane `from l` of the source reads (R275). -/
def State.move (s : State) (h : Hdr) (d a : Opnd) (src : Nat → Nat) : Host.Outcome State Fault Refusal :=
  let g := s.grp
  s.laneWise h d (fun l => g.read a (src l)) none

def execQxchg (h : Hdr) (op_ : QxOp) (d a : Opnd) (s : State) : Host.Outcome State Fault Refusal :=
  s.move h d a (fun l => l ^^^ (match op_ with
    | .x => 1
    | .y => 2
    | .d => 3))

def execQbcst (h : Hdr) (k : BitVec 2) (d a : Opnd) (s : State) : Host.Outcome State Fault Refusal :=
  s.move h d a (fun l => 4 * (l / 4) + k.toNat)

/-- A once action of the group: it acts when active(g) is not empty (R270). -/
def State.onceOp (s : State) (h : Hdr) (f : State → State) : Host.Outcome State Fault Refusal :=
  if (s.lanes h).isEmpty then s.done h else (f s).done h

def execQhelp (h : Hdr) (on : Bool) (s : State) : Host.Outcome State Fault Refusal :=
  s.onceOp h (fun s => s.modGrp (fun g => { g with helper := on }))

/-- The lane `SHFL` reads: outside 0 to 95, the lane itself. -/
def shflSrc (op_ : ShflOp) (l b : Nat) : Nat :=
  let j : Int := match op_ with
    | .lane => (b % 96 : Nat)
    | .sub => (l : Int) - b
    | .add => (l : Int) + b
    | .bfly => ((l ^^^ b : Nat) : Int)
  if 0 ≤ j ∧ j ≤ 95 then j.toNat else l

def execShfl (h : Hdr) (op_ : ShflOp) (d a b : Opnd) (s : State) : Host.Outcome State Fault Refusal :=
  let g := s.grp
  s.move h d a (fun l => shflSrc op_ l (g.read b l).toNat)

/-- A group-wide instruction with X(g) empty writes nothing (R270); the latches take part by its class and its D field
alone: lt0 moves to lt1, and no lane writes lt0 (R89; assumption 28). -/
def State.writeNone (s : State) (h : Hdr) (d : Opnd) : Host.Outcome State Fault Refusal :=
  match d with
  | .v _ | .o _ => (s.latch (fun _ => false) (fun _ => 0) none).done h
  | d => (s.write (fun _ => false) d (fun _ => 0) none).done h

/-- A group-wide result in the lanes of X(g). -/
def State.groupWide (s : State) (h : Hdr) (d : Opnd) (val : Nat → Word) (full : Option VReg) :
    Host.Outcome State Fault Refusal :=
  if (s.xs h).isEmpty then s.writeNone h d else (s.write (s.xlane h) d val full).done h

/-- A group-wide value, the same for every lane, tagged U when full. -/
def State.groupVal (s : State) (h : Hdr) (d : Opnd) (v : Word) : Host.Outcome State Fault Refusal :=
  s.groupWide h d (fun _ => v) (some (.u v))

def execVote (h : Hdr) (form : VoteForm) (pa : PField) (s : State) : Host.Outcome State Fault Refusal :=
  let g := s.grp
  let xs := s.xs h
  let some_ := xs.any (g.pfield pa)
  let every := xs.all (g.pfield pa)
  match form with
  | .some pd => (s.writeP (s.xlane h) pd (fun _ => some_)).done h
  | .every pd => (s.writeP (s.xlane h) pd (fun _ => every)).done h
  | .same pd => (s.writeP (s.xlane h) pd (fun _ => every || !some_)).done h
  | .cnt d => s.groupVal h d (BitVec.ofNat 32 (xs.filter (g.pfield pa)).length)

/-- A bitwise operation on the 32 low bits of two integers. -/
def bitInt (f : Word → Word → Word) (x y : Int) : Int := (f (BitVec.ofInt 32 x) (BitVec.ofInt 32 y)).toInt

def redFun : RedOp → Int → Int → Int
  | .add => (· + ·)
  | .min => min
  | .max => max
  | .and => bitInt (· &&& ·)
  | .or => bitInt (· ||| ·)
  | .xor => bitInt (· ^^^ ·)

/-- a op b op … of a list, exact. -/
def foldInts (f : Int → Int → Int) : List Int → Int
  | [] => 0
  | x :: xs => xs.foldl f x

def execRedg (h : Hdr) (op_ : RedOp) (t : ITy) (d a : Opnd) (s : State) : Host.Outcome State Fault Refusal :=
  let g := s.grp
  s.groupVal h d (ITy.put t (foldInts (redFun op_) ((s.xs h).map (g.int t ⟨a, false, false⟩))))

def scanFun : ScanOp → Int → Int → Int
  | .add => (· + ·)
  | .min => min
  | .max => max
  | .or => bitInt (· ||| ·)

/-- What `.ex` gives the first lane. -/
def scanIdentity (op_ : ScanOp) (t : ITy) : Int :=
  match op_ with
  | .add | .or => 0
  | .min => ITy.max t
  | .max => ITy.min t

def execScang (h : Hdr) (op_ : ScanOp) (ex : Bool) (t : ITy) (d a : Opnd) (s : State) :
    Host.Outcome State Fault Refusal :=
  let g := s.grp
  let xs := s.xs h
  let val (l : Nat) : Word :=
    let upto := xs.filter (fun x => if ex then decide (x < l) else decide (x ≤ l))
    if upto.isEmpty then ITy.put t (scanIdentity op_ t)
    else ITy.put t (foldInts (scanFun op_) (upto.map (g.int t ⟨a, false, false⟩)))
  s.groupWide h d val none

def execZscan (h : Hdr) (f : Bool) (d a sc : Opnd) (s : State) : Host.Outcome State Fault Refusal :=
  let g := s.grp
  let xs := s.xs h
  let found := xs.filter (fun l => (if f then (g.read a l).toNat % 2 ^ 31 else (g.read a l).toNat) != 0)
  let val (l : Nat) : Word :=
    match found[(xs.filter (fun x => decide (x < l))).length]? with
    | some j => BitVec.ofNat 32 j
    | none => 0xFFFFFFFF
  if xs.isEmpty then s.writeNone h d
  else ((s.write (s.xlane h) d val none).writeS sc (BitVec.ofNat 32 found.length)).done h

/-- The lane that `RDLANE` and `WRLANE` name, read in the lowest lane of X(g). -/
def Group.laneOf (g : Group) (b : Opnd) (x0 : Nat) : Nat := (g.read b x0).toNat % 96

def execRdlane (h : Hdr) (d a b : Opnd) (s : State) : Host.Outcome State Fault Refusal :=
  match s.xs h with
  | [] => s.writeNone h d
  | x0 :: _ => s.groupVal h d (s.grp.read a (s.grp.laneOf b x0))

def execWrlane (h : Hdr) (d a b : Opnd) (s : State) : Host.Outcome State Fault Refusal :=
  match s.xs h with
  | [] => s.writeNone h d
  | x0 :: _ =>
    let j := s.grp.laneOf b x0
    let v := s.grp.read a x0
    (s.write (fun l => l == j) d (fun _ => v) none).done h

end Sys2Proof.Machine
end

