-- ==== Sys2Proof/Machine/Control.lean ====
section
/-! DEFINITION. Control, class 0x7 (spec 12 R277 to R283; 02 R21, R25 to R28, R34, R46 to R49; 20 R397, R402). -/

namespace Sys2Proof.Machine

/-! ### Per quad (R21, R278) -/

/-- Quads of the issue set that take a transfer: all when it is unconditional, else those with an active lane,
helper lanes not counted, in which both guards hold. -/
def State.takers (s : State) (h : Hdr) : QuadMask :=
  if h.g0 == ⟨false, 7⟩ && h.g1 == ⟨false, 7⟩ then s.cur.quads
  else quadMask (fun q => s.cur.quads.getLsbD q && (List.range 4).any (fun i => s.xlane h (4 * q + i)))

/-- The indirect target of a quad: of its lowest active lane, or of its lowest lane. -/
def State.target (s : State) (a : Opnd) (q : Nat) : Dword :=
  let g := s.grp
  let lane := ((List.range 4).find? (fun i => g.maskBit (4 * q + i))).getD 0
  g.read64 a (4 * q + lane)

/-- The fault of the first taking quad whose target fails (R397), with its beat. -/
def State.badTarget (s : State) (t : Nat → Dword) : List Nat → Option FaultInfo
  | [] => none
  | q :: qs =>
    match s.checkTarget false (t q) with
    | some e => some { e with beat := q / 8 }
    | none => s.badTarget t qs

/-- A transfer of control: every target is checked, then the link is written in every lane of the taking quads,
then they move (R278, R279, R397). -/
def State.transfer (s : State) (h : Hdr) (t : Nat → Dword) (link : Option Opnd) :
    Host.Outcome State Fault Refusal :=
  let m := s.takers h
  match s.badTarget t (quadsOf m) with
  | some e => s.fail e
  | none =>
    let ret := pcNext s.cur.pc
    let lanes (l : Nat) : Bool := decide (l < numLanes) && m.getLsbD (l / 4)
    let u :=
      match link with
      | some (.v n) =>
        if m = 0 then s
        else s.modGrp (fun g =>
          let lo : Word := ret.extractLsb' 0 32
          let hi : Word := ret.extractLsb' 32 32
          (g.setV n.toNat ((g.vreg n.toNat).write lanes (fun _ => lo) (some (.u lo)))).setV (n.toNat + 1)
            ((g.vreg (n.toNat + 1)).write lanes (fun _ => hi) (some (.u hi))))
      | _ => s
    .next (u.finTo h (fun q p => if m.getLsbD q then t q else pcNext p))

/-- The target of a direct branch (R241). -/
def State.direct (s : State) (soff : BitVec 32) : Dword := pcOfIndex (slotIndex s.cur.pc + soff.toInt)

def execBra (h : Hdr) (soff : BitVec 32) (s : State) : Host.Outcome State Fault Refusal :=
  s.transfer h (fun _ => s.direct soff) none

def execBrx (h : Hdr) (a : Opnd) (s : State) : Host.Outcome State Fault Refusal :=
  s.transfer h (s.target a) none

def execCall (h : Hdr) (link : Opnd) (soff : BitVec 32) (s : State) : Host.Outcome State Fault Refusal :=
  s.transfer h (fun _ => s.direct soff) (some link)

def execCallx (h : Hdr) (link a : Opnd) (s : State) : Host.Outcome State Fault Refusal :=
  s.transfer h (s.target a) (some link)

def execRet (h : Hdr) (a : Opnd) (s : State) : Host.Outcome State Fault Refusal :=
  s.transfer h (s.target a) none

/-! ### REGANG and EXIT (R27, R28, R280) -/

/-- The waiting masks of a group in arrival order. -/
def Group.regangMasks (g : Group) : List (Nat × QuadMask) :=
  let ws := g.quads.filterMap (fun q =>
    match q.exited, q.wait with
    | false, .regang m n => some (n, m)
    | _, _ => none)
  sortBy (fun x y => decide (x.1 < y.1)) ws.eraseDups

/-- A live quad of a mask that waits at no `REGANG`. -/
def Group.missing (g : Group) (m : QuadMask) : Bool :=
  (quadsOf m).any (fun i =>
    let q := g.quads.getD i (Quad.start 0)
    !q.exited && (match q.wait with
      | .regang _ _ => false
      | _ => true))

/-- Releases every waiting quad of a mask. -/
def Group.release (g : Group) (m : QuadMask) : Group :=
  { g with quads := g.quads.mapIdx (fun i q =>
      if m.getLsbD i && !q.exited then
        match q.wait with
        | .regang _ _ => { q with wait := .run }
        | _ => q
      else q) }

/-- Checks every waiting mask in arrival order: one whose live quads all wait is released (R280). -/
def Group.regangCheck (g : Group) : Group :=
  g.regangMasks.foldl (fun g x =>
    if g.regangMasks.contains x && !g.missing x.2 then g.release x.2 else g) g

def execRegang (h : Hdr) (a : Opnd) (s : State) : Host.Outcome State Fault Refusal :=
  let m := s.takers h
  let awaited : QuadMask :=
    match a with
    | .s n => (s.grp.sreg n.toNat).extractLsb' 0 24 ||| s.cur.quads
    | _ => 0xFFFFFF
  let order := s.grp.issues
  let t := (s.fin h).modQuads m (fun _ q => { q with wait := .regang awaited order })
  .next (t.modGrp Group.regangCheck)

/-! ### Barriers (R34, R185, R281) -/

/-- Index of a barrier: 0 to 7 of the block, 8 of the bench, 9 of the launch. -/
def barIdx (sc : BScope) (a : Opnd) : Nat :=
  match sc with
  | .blk => match a with
    | .int n => (n.toNat - 16) % 8
    | _ => 0
  | .bench => 8
  | .launch => 9

/-- The generation of a barrier that the present block sees. -/
def State.barGen (s : State) (k : Nat) : Nat :=
  if k < 8 then Tbl.get 0 s.blk.bars k
  else s.wideGen s.blk k

/-- Opens the next generation of a barrier. -/
def State.nextGen (s : State) (k : Nat) : State :=
  if k < 8 then s.modBlk (fun b => { b with bars := Tbl.set 0 b.bars k (Tbl.get 0 b.bars k + 1) })
  else
    let die := s.blk.die
    s.modLaunch s.blk.ref.launch (fun x =>
      if k = 8 then { x with benchBars := Tbl.set 0 x.benchBars die (Tbl.get 0 x.benchBars die + 1) }
      else { x with launchBar := x.launchBar + 1 })

/-- Whether a block takes part in barrier `k` of the present block. -/
def State.sharesBar (s : State) (k : Nat) (b : Block) : Bool :=
  if k < 8 then b.ref == s.blk.ref
  else b.ref.launch == s.blk.ref.launch && (k == 9 || b.die == s.blk.die)

/-- Every group of every block of a barrier has arrived or has executed its last `EXIT` (R28, R34). -/
def State.barFull (s : State) (k : Nat) : Bool :=
  let gen := s.barGen k
  (s.blocks ++ s.saved.map (fun x => x.blk)).all (fun b =>
    !s.sharesBar k b || b.groups.all (fun g => g.exited || g.retired || g.arrived k gen))

/-- Some group waits on the present generation: an empty barrier completes nothing. -/
def State.barUsed (s : State) (k : Nat) : Bool :=
  let gen := s.barGen k
  (s.blocks ++ s.saved.map (fun x => x.blk)).any (fun b =>
    s.sharesBar k b && b.groups.any (fun g => g.arrived k gen))

/-- A quad waits on a generation of barrier `k` before `gen`. -/
def Quad.waitsBar (k gen : Nat) (q : Quad) : Bool :=
  match q.wait with
  | .barrier j n _ => j == k && decide (n < gen)
  | _ => false

/-- Some quad of the group waits on a generation of barrier `k` before `gen`. -/
def Group.waitsBar (k gen : Nat) (g : Group) : Bool := g.quads.any (Quad.waitsBar k gen)

/-- The acquire part of a bench or launch barrier: a pending `FENCE.acq.dev` at the group's next issue (R185, R177, R179). Until
the group's earlier loads have returned, and the core's L1 has been written back and invalidated, it holds the group's later
accesses back. -/
def Group.acquireBar (g : Group) (org : Origin) : Group :=
  { g with fences := g.fences ++ [.fence .acq .dev g.issues false org] }

/-- The barrier instruction at which the group's quads wait, which stand behind it. -/
def Group.barOrigin (k gen : Nat) (g : Group) : Origin :=
  let pc := ((g.quads.find? (Quad.waitsBar k gen)).getD (Quad.start 0)).pc
  ⟨pcPrev pc, quadMask (fun i => (g.quads[i]?).any (fun q => q.waitsBar k gen && q.pc == pc))⟩

/-- Lets the quads of a group go that wait on a generation of barrier `k` before `gen`, with the acquire part of R185. -/
def Group.passBar (k gen : Nat) (g : Group) : Group :=
  if g.waitsBar k gen then
    let t : Group := { g with quads := g.quads.map (fun q => if q.waitsBar k gen then { q with wait := .run } else q) }
    if k < 8 then t else t.acquireBar (g.barOrigin k gen)
  else g

/-- The completion of a barrier's generation: every waiting quad goes on. -/
def State.completeBar (s : State) (k : Nat) : State :=
  if s.barUsed k && s.barFull k then
    let t := s.nextGen k
    let gen := t.barGen k
    { t with blocks := t.blocks.map (fun b =>
        if t.sharesBar k b then { b with groups := b.groups.map (Group.passBar k gen) } else b) }
  else s

/-- Checks every barrier of the present block. -/
def State.barriersCheck (s : State) : State := (List.range 10).foldl (fun t k => t.completeBar k) s

/-- The checks of steps 6 and 8 on a barrier instruction (R402). -/
def State.barFault (s : State) (sc : BScope) (k : Nat) (arrives waits : Bool) : Option FaultInfo :=
  if sc ≠ .blk ∧ !s.blk.cosched then some (protFault none 3)
  else if waits ∧ s.grp.hmaskr.getLsbD 1 then some (protFault none 2)
  else if arrives ∧ s.grp.arrived k (s.barGen k) then some { code := 0x03, hi := 7 }
  else none

/-- The steps of a release before the effect `k` of an instruction: earlier loads and stores, the write-back of L1 at
DEV scope, and the reductions (R176, R179). The instruction waits between them, at a swap point when `swap` says so. -/
def State.released (s : State) (dev swap : Bool) (k : State → Host.Outcome State Fault Refusal) :
    Host.Outcome State Fault Refusal :=
  let wait (s : State) (w : GWait) := Host.Outcome.next (if swap then s.waitSwap w else s.waitFor w)
  let g := s.grp
  if !g.releaseMoves false then wait s (.release false swap)
  else
    let wrote := g.wait == .release true swap
    let t := if dev && !wrote then s.writesBack s.origin (fun s => s.writeBackAll s.core) else s
    if g.redsDone g.issues then k t else wait t (.release dev swap)

/-- The effect of a barrier instruction once its release part is over: the arrival, and the wait of the quads of the
issue set when the generation has not completed; a group with an unmet wait gives way to a ready one (R76), and one of a
steady block to the next in any case (R84). The group's other quads go on (assumption 45). -/
def State.barrierGo (s : State) (h : Hdr) (k : Nat) (dev arrives waits : Bool) : State :=
  let gen := s.barGen k
  let t := if arrives then s.modGrp (fun g => { g with arrivals := Tbl.set 0 g.arrivals k (gen + 1) }) else s
  let pending := t.grp.arrived k gen
  let set := t.cur.quads
  let t := t.fin h
  let t :=
    if waits then
      if pending then t.modQuads set (fun _ q => { q with wait := .barrier k gen arrives })
      else if dev then t.modGrp (fun g => g.acquireBar s.origin) else t
    else t
  let t := t.completeBar k
  let waiting := (quadsOf set).any (fun q => (t.grp.quads.getD q (Quad.start 0)).atBarrier)
  if waits && (t.blk.steady || waiting) then t.swapOut t.cur.blk t.cur.grp else t

/-- A barrier instruction: it arrives after the release part of R185, and the quads of the issue set wait when it
waits. An issue whose executing lanes are all helper lanes makes no arrival (R31). -/
def State.barrier (s : State) (h : Hdr) (sc : BScope) (a : Opnd) (arrives waits : Bool) :
    Host.Outcome State Fault Refusal :=
  let k := barIdx sc a
  let dev := sc != .blk
  let arrives := arrives && !(s.xs h).isEmpty
  if (s.lanes h).isEmpty then s.done h
  else
    match s.barFault sc k arrives waits with
    | some e => s.failOnce h e
    | none =>
      let s := if waits then s.swapPoint else s
      if arrives then s.released dev waits fun s => .next (s.barrierGo h k dev true waits)
      else .next (s.barrierGo h k dev false waits)

def execBar (h : Hdr) (sc : BScope) (a : Opnd) (s : State) : Host.Outcome State Fault Refusal :=
  s.barrier h sc a true true

def execBara (h : Hdr) (sc : BScope) (a : Opnd) (s : State) : Host.Outcome State Fault Refusal :=
  s.barrier h sc a true false

def execBarw (h : Hdr) (sc : BScope) (a : Opnd) (s : State) : Host.Outcome State Fault Refusal :=
  s.barrier h sc a false true

/-- In steady mode a group gives its active slot up with its last `EXIT`: when its operations end, and it retires, is a matter
of timing, which may decide nothing (R84; assumption 64). -/
def Group.leaveSlot (steady : Bool) (g : Group) : Group := if steady && g.exited then { g with active := none } else g

/-- `EXIT`: the taking quads exit; a `REGANG` or a barrier that awaited them may be released (R27, R28, R34,
R280). -/
def execExit (h : Hdr) (s : State) : Host.Outcome State Fault Refusal :=
  let m := s.takers h
  let t := (s.fin h).modQuads m (fun _ q => { q with exited := true, wait := .run })
  .next ((t.modGrp Group.regangCheck).modGrp (Group.leaveSlot s.blk.steady)).barriersCheck

/-! ### Once -/

def execYield (h : Hdr) (s : State) : Host.Outcome State Fault Refusal :=
  if (s.lanes h).isEmpty then s.done h else s.done { h with yield := true }

def execNop (h : Hdr) (s : State) : Host.Outcome State Fault Refusal := s.done h

/-- `TRAP n` raises USER_TRAP (R283, R402). -/
def execTrap (h : Hdr) (n : BitVec 8) (s : State) : Host.Outcome State Fault Refusal :=
  if (s.lanes h).isEmpty then s.done h else s.failOnce h { code := 0x40, detail := n.toNat }

/-- After a return the restored waits are looked at again: a barrier's generation may have completed, and a
`REGANG` mask may hold, while the handler ran (R48, R49). The acquire part of such a barrier follows the handler's accesses
(R185). -/
def State.resumeWaits (s : State) : State :=
  let late := (List.range 10).filter (fun k => s.grp.waitsBar k (s.barGen k))
  s.modGrp (fun g => (late.foldl (fun g k => g.passBar k (s.barGen k)) g).regangCheck)

/-- `HRET` returns from the handler; outside one it is a `NOP` (R49, R283). -/
def execHret (h : Hdr) (s : State) : Host.Outcome State Fault Refusal :=
  if (s.lanes h).isEmpty then s.done h
  else
    match s.grp.frame with
    | none => s.done h
    | some _ => .next ((s.fin h).returnFrom false).resumeWaits

def execHmask (h : Hdr) (set : Bool) (s : State) : Host.Outcome State Fault Refusal :=
  s.onceOp h (fun s => s.modGrp (fun g =>
    { g with hmaskr := (g.hmaskr &&& ~~~(1#32)) ||| (if set then 1 else 0) }))

/-- An inbox of the block's job bound to another live block of the device (R201, R402). -/
def State.inboxTaken (s : State) (n : Nat) : Bool :=
  let b := s.blk
  (s.blocks ++ s.saved.map (fun x => x.blk)).any (fun c =>
    c.ref != b.ref && c.job == b.job && (c.inbox.elim false (fun x => x.num == n)))

/-- The checks of `HSET` in the order of R457, the descriptor's at every `HSET` (R402); where its LOG2N stands. -/
def State.hsetCheck (s : State) (inbox : Nat) (desc : Dword) (hv : Word) : Except FaultInfo Nat :=
  let b := s.blk
  let bad (n : Nat) : Except FaultInfo Nat := .error { code := 0x03, hi := n }
  if b.handg ≠ some s.grp.num then bad 7
  else if 63 < inbox then bad 1
  else if b.inbox.any (fun x => x.num != inbox) then bad 1
  else if b.inbox.any (fun x => x.desc != desc) then bad 2
  else if b.inbox.isNone && s.inboxTaken inbox then bad 7
  else if 4 < hv.toNat % 8 then bad 3
  else
    match s.translRange s.core b.ctx .read desc 64 with
    | .error e => .error e
    | .ok _ =>
      match s.transl s.core b.ctx .read 1 (desc + 8) with
      | .error e => .error e
      | .ok (pa, _) =>
        let n := (Memory.byte s.mem pa).toNat
        if n < 2 ∨ 12 < n then bad 2
        else if s.badAt pa 1 then .error { code := 0x50, addr := some (BitVec.ofNat 64 pa), phys := true }
        else .ok pa

def execHset (h : Hdr) (a b c : Opnd) (s : State) : Host.Outcome State Fault Refusal :=
  if (s.lanes h).isEmpty then s.done h
  else
    let inbox := (s.grp.once a).toNat
    let desc := s.grp.once64 b
    let hv := s.grp.once c
    match s.hsetCheck inbox desc hv with
    | .error e => s.failOnce h e
    | .ok pa =>
      let t := (s.asksHost pa 1).modGrp (fun g => { g with hvec := hv &&& ~~~(0x38#32) })
      (t.modBlk (fun x => { x with inbox := x.inbox <|> some ⟨inbox, desc⟩ })).done h

end Sys2Proof.Machine
end

