-- ==== Sys2Proof/Machine/Fabric.lean ====
section
/-! DEFINITION. The sending side of the fabric and class 0xC but `COLL` (spec 16 R339 to R347; 08 R190 to R206; 07 R187,
R188; 22 R438, R440, R444, R452, R458). -/

namespace Sys2Proof.Machine

/-! ### Jobs and peers -/

def State.job (s : State) (j : Nat) : Job := Tbl.get Job.reset s.jobs j
def State.setJob (s : State) (j : Nat) (x : Job) : State := { s with jobs := Tbl.set Job.reset s.jobs j x }
def State.peer (s : State) (r : Nat) : Peer := Tbl.get Peer.reset s.peers r
def State.setPeer (s : State) (r : Nat) (x : Peer) : State := { s with peers := Tbl.set Peer.reset s.peers r x }

/-- I, C and L of a job: the sums over the four DFIs (R205). -/
def Job.i (j : Job) : Nat := j.inj.total
def Job.c (j : Job) : Nat := j.cons.total
def Job.l (j : Job) : Nat := j.lost.total

/-- The number that stands for the way back inside the package for requests of this device's own rank (R193). -/
def loopPort : Nat := 128

/-- The DFI that serves a port (R13); die 0's turns requests of the own rank back (R193). -/
def dfiOf (port : Nat) : Nat := if port < loopPort then port / 32 else 0

/-- C(j) rises by 1 at the DFI of a port (R13, R205). -/
def State.consume (s : State) (j port : Nat) : State :=
  let x := s.job j
  s.setJob j { x with cons := x.cons.raise (dfiOf port) }

/-- L(j) rises by 1 at the DFI of a port (R437, R444). -/
def State.lose (s : State) (j port : Nat) : State :=
  let x := s.job j
  s.setJob j { x with lost := x.lost.raise (dfiOf port) }

/-- Bytes of a chunk as a slot holds them: its header's 128, and its payload's, absent elements included (R213, R365). -/
def Chunk.size (c : Chunk) : Nat := 128 + c.width * c.elems.length

/-- Bytes of line `k` of a chunk, and the lines of a chunk. -/
def Chunk.lineBytes (c : Chunk) (k : Nat) : Nat := min 128 (Chunk.size c - 128 * k)
def Chunk.lines (c : Chunk) : Nat := (Chunk.size c + 127) / 128

/-- Whether a request counts in I(j), C(j) and L(j): of the writes of one collective chunk, which counts once, the last
(R190, R205; assumption 66). -/
def PktBody.counts : PktBody → Bool
  | .chunk _ c k => k + 1 == Chunk.lines c
  | _ => true

/-- C(j) rises for a request. -/
def State.consumeReq (s : State) (p : Packet) : State := if PktBody.counts p.body then s.consume p.job p.port else s

/-- L(j) rises for a request. -/
def State.loseReq (s : State) (p : Packet) : State := if PktBody.counts p.body then s.lose p.job p.port else s

/-! ### Ports (R191, R199, R223) -/

def State.port (s : State) (n : Nat) : Port := Tbl.get Port.reset s.ports n
def State.setPort (s : State) (n : Nat) (x : Port) : State := { s with ports := Tbl.set Port.reset s.ports n x }

/-- The port through which a peer is reached. -/
def State.portOf (s : State) (peer : Nat) : Nat := (s.peer peer).map.toNat % 128

/-- The upper port of an x4 pair, whose lanes belong to the lower one (R191). -/
def State.bonded (s : State) (n : Nat) : Bool := n % 2 == 1 && (s.port (n - 1)).mode.toNat % 4 == 2

/-- A port carries traffic: it is enabled and trained, and not the upper port of an x4 pair (R191, R223). -/
def State.portCarries (s : State) (n : Nat) : Bool :=
  (s.port n).mode.getLsbD 5 && (s.port n).trained && !s.bonded n

/-- Some port carries traffic, so that a packet can arrive. -/
def State.linked (s : State) : Bool := (List.range 128).any s.portCarries

/-- A peer's entry is valid and its port carries traffic. -/
def State.peerCarries (s : State) (r : Nat) : Bool := (s.peer r).map.getLsbD 31 && s.portCarries (s.portOf r)

/-- A packet that came in through some port; with none that carries traffic nothing comes in. -/
def State.onLink (s : State) (t : State) : Host.Outcome State Fault Refusal := .next (if s.linked then t else s)

/-- A control packet comes in: it is answered with a write completion (R190), and acts. -/
def State.onControl (s : State) (f : State → State) : Host.Outcome State Fault Refusal :=
  s.onLink (f (s.emit .controlDone))

/-- A control packet waits for its turn at its port (R190, R199). -/
def State.control (s : State) (dst : Nat) (c : Ctl) : State :=
  { s with heldq := s.heldq ++ [⟨dst, none, none, .control dst c⟩] }

/-- A control packet of the gang protocol, which carries the tenant class of its launch (R72), waits as any control packet
does (R190, R199, R441). -/
def State.gangControl (s : State) (cls dst : Nat) (c : Ctl) : State :=
  { s with heldq := s.heldq ++ [⟨dst, none, some cls, .gang cls dst c⟩] }

/-- The port of a packet that waits, none while its peer's entry is invalid. -/
def State.heldPort (s : State) (h : Held) : Option Nat :=
  match h.port with
  | some n => some n
  | none => if (s.peer h.dst).map.getLsbD 31 then some (s.portOf h.dst) else none

/-- This device's rank (R192). -/
def State.rank (s : State) : Nat := s.mgmt.rank

/-- Whether a rank is a member of a job, by the job's member table (R192, R223). -/
def State.member (s : State) (j r : Nat) : Bool :=
  decide (r < 1024) && s.phys (s.mgmt.jobtab.toNat + 256 * j + r / 8) 1 / 2 ^ (r % 8) % 2 == 1

/-- The members of a job in ascending rank. -/
def State.members (s : State) (j : Nat) : List Nat := (List.range 1024).filter (s.member j)

/-- The settle period of a job in nanoseconds (R208, R223). -/
def State.settlePeriod (s : State) (j : Nat) : Nat :=
  1000 * min 1000 (max 1 (s.phys (s.mgmt.jobtab.toNat + 256 * j + 0x80) 2))

/-- Tenant isolation is on (R218, note (m) of R19). -/
def State.isolated (s : State) : Bool := !s.mgmt.teniso.getLsbD 0

/-- Why a peer is unreachable for a job (R444): 1 found down, 2 otherwise. -/
def State.unreachable (s : State) (j r : Nat) : Option Nat :=
  if (s.peer r).down && r != s.rank then some 1
  else if !(s.peer r).map.getLsbD 31 && r != s.rank then some 2
  else if !s.member j r then some 2
  else none

/-! ### The end of an operation -/

/-- Changes an operation of path F of the present group. -/
def Group.modFab (g : Group) (n : Nat) (f : FabOp → FabOp) : Group :=
  { g with fabs := g.fabs.map (fun o => if o.seq = n then f o else o) }

def Group.fab? (g : Group) (n : Nat) : Option FabOp := g.fabs.find? (fun o => o.seq == n)

/-- The failure that takes the place of the lowest lane (R458). -/
def lowestFail : List FabFail → Option FabFail
  | [] => none
  | f :: fs =>
    match lowestFail fs with
    | none => some f
    | some x => some (if x.lane < f.lane then x else f)

/-- The one asynchronous fault of an operation with failures, with the described request's code, detail, peer and
address (R438, R440, R444, R446, R458). For resolved requests, lost or unreachable, INFO0 holds the first sequence of
those to the peer, 0 when none was sent, and INFO1[0] whether all were performed. The writes of a chunk are one request
(R213). -/
def FabOp.fault (o : FabOp) (f : FabFail) : AsyncFault :=
  let resolved := o.fails.filter (fun x => x.code == 0x31 || x.code == 0x32)
  let seqs := (resolved.filter (fun x => x.peer == f.peer && x.seq != 0)).map (fun x => x.seq)
  let requests (n : Nat) : Nat := match o.kind with
    | .tile _ => min n 1
    | _ => n
  let count := requests o.fails.length * 2 ^ 32
  if f.code = 0x31 ∨ f.code = 0x32 then
    { code := f.code, hi := if f.code = 0x31 then requests resolved.length else f.detail, org := o.org, addr := some f.addr,
      phys := false, info0 := f.peer + 2 ^ 32 * (seqs.min?.getD 0 % 2 ^ 32),
      info1 := count + (if resolved.all (fun x => x.performed) then 1 else 0), time := f.time }
  else
    { code := f.code, hi := f.detail, org := o.org, addr := some f.addr, phys := false,
      info0 := f.peer, info1 := count, time := f.time }

/-- Whether an operation ends when all its requests have. -/
def FabKind.ends : FabKind → Bool
  | .rld _ | .rst | .ratom _ | .rcpy | .msend | .tile _ => true
  | _ => false

/-- The round on a descriptor has failed or is over: a later failed request of it gives no further fault (R448). -/
def Block.collBroken (b : Block) (d : Dword) : Bool := b.colls.all (fun r => r.desc != d || r.failed)

/-- A chunk or a notice of a round has failed: the member's part of the round ends (R448). -/
def State.breakColl (s : State) (d : Dword) : State :=
  s.modBlk (fun b => { b with colls := b.colls.map (fun (r : CollRound) => if r.desc = d then { r with failed := true } else r) })

/-- An operation whose requests have all been acknowledged, refused or resolved ends (R196, R341 to R343, R438, R458):
the values reach their lanes, the status predicate is written, F returns in order, the object receives its arrival,
and a form without `.S` that met failures notes its fault. -/
def State.finishFab (s : State) (n : Nat) : State :=
  match s.grp.fab? n with
  | none => s
  | some o =>
    if o.done || !o.open_.isEmpty || !o.kind.ends || !o.src.unread.isEmpty then s
    else
      let failed (l : Nat) : Bool := o.fails.any (fun f => f.lanes.contains l)
      let broken := match o.kind with
        | .tile d => s.blk.collBroken d
        | _ => false
      let s := match o.kind with
        | .tile d => if o.fails.isEmpty then s else s.breakColl d
        | _ => s
      let t := s.modGrp (fun g =>
        let g := match o.dst with
          | none => g
          | some d => (g.deliver d o.got).renewed (d.renews (o.got.map (fun (x : Nat × Nat) => x.1)))
        let g := match o.ps with
          | none => g
          | some p => (g.setP p.num (fun l => o.lanes.contains l) (fun l => !failed l)).renewed
              (if (List.range numLanes).all o.lanes.contains then [256 + p.num.toNat] else [])
        let g := match o.stat, lowestFail o.fails with
          | false, some f => if broken then g else g.async (o.fault f)
          | _, _ => g
        (g.modFab n (fun o => { o with done := true })).retireAll)
      t.engineArrive o.obj 0 o.org

/-! ### Record and replay (R230, R231) -/

/-- Logs a value that a remote request returned from an address of its peer: every byte is from outside the launch
(assumption 15). -/
def State.logRemote (s : State) (seq : Nat) (va : Nat) (bytes : List Byte) : State :=
  (s.loadInput s.origin seq va (2 ^ bytes.length - 1) bytes).2

/-- The values of `n` bytes that a replayed log holds for lanes and their addresses, in the order given. A lane without an
entry received none: it failed in the recorded run when the form has `.S`; else the log has parted, and the detail of
R392 is the answer, as it is where the log ends. -/
def State.replayLanes (s : State) (stat : Bool) (n : Nat) :
    List (Nat × Nat) → Except Nat (List (Nat × Nat) × List Nat × State)
  | [] => .ok ([], [], s)
  | (l, va) :: ls =>
    let miss (d : Nat) : Except Nat (List (Nat × Nat) × List Nat × State) :=
      if stat then (s.replayLanes stat n ls).map (fun r => (r.1, l :: r.2.1, r.2.2)) else .error d
    match s.replayOf s.blk with
    | none => .ok ([], [], s)
    | some x =>
      match s.findLoad x s.point va with
      | .entry off _ _ payload =>
        ((s.takeLog x off).replayLanes stat n ls).map (fun r =>
          ((l, leNat (overLog payload (List.replicate n 0))) :: r.1, r.2.1, r.2.2))
      | .full _ => .error 1
      | .nothing => miss 2

/-! ### Issue -/

/-- The address that a request names. -/
def PktBody.addr : PktBody → Dword
  | .read a _ => a
  | .write cells => (cells.headD (0, 0)).1
  | .atomic _ _ a _ _ _ => a
  | .message _ _ _ => 0
  | .chunk a _ k => a + BitVec.ofNat 64 (128 * k)
  | .notice a _ => a

/-- A request as an instruction forms it (R194). -/
structure FReq where
  peer : Nat
  lanes : List (Nat × Nat)
  ready : Bool
  addr : Dword
  body : PktBody
  deriving DecidableEq, Repr

/-- A failure, detected now, of the request that serves some lanes. -/
def State.failOf (s : State) (lanes : List Nat) (code : BitVec 8) (detail peer seq : Nat) (addr : Dword) (performed : Bool) :
    FabFail :=
  ⟨lanes.foldl min (lanes.headD 0), lanes, code, detail, peer, seq, addr, performed, s.time⟩

/-- Places one request in the DFI (R193, R197), or resolves it at once when its peer is unreachable (R444). -/
def State.placeReq (s : State) (n : Nat) (r : FReq) : State :=
  let b := s.blk
  match s.unreachable b.job r.peer with
  | some why =>
    s.modGrp (fun g => g.modFab n (fun o =>
      { o with open_ := o.open_.filter (fun l => !r.lanes.any (fun x => x.1 == l))
               fails := o.fails ++ [s.failOf (r.lanes.map (fun x => x.1)) 0x32 why r.peer 0 r.addr false] }))
  | none =>
    let iso := s.isolated
    { s with reqs := s.reqs ++
        [⟨⟨s.rank, r.peer, 0, b.job, if iso then s.ctxKey b.ctx else 0, if iso then s.ctxClass b.ctx else 0, 0, r.body⟩,
          s.ref, n, r.lanes, r.ready, false, 0, 0⟩] }

/-- Issues an operation of path F with its requests (R154, R339). In replay it is acknowledged at once, and its values,
`n` bytes a lane, come from the log (R231); a local source is read as ever. -/
def State.issueFab (s : State) (h : Hdr) (o : FabOp) (reqs : List FReq) (n : Nat) : Host.Outcome State Fault Refusal :=
  let t := (s.count 0x0F reqs.length).modGrp (fun g => { g with fabs := g.fabs ++ [o] })
  if s.replaying then
    let asks := reqs.flatMap (fun r => r.lanes.map (fun x => (x.1, r.addr.toNat + x.2)))
    match if o.dst.isSome then t.replayLanes o.stat n asks else .ok ([], [], t) with
    | .error d => s.replayEnds d
    | .ok (got, lost, u) =>
      ((u.modGrp (fun g => g.modFab o.seq (fun o =>
        { o with got := got, open_ := [], fails := lost.map (fun l => s.failOf [l] 0x31 0 0 0 0 false) }))).finishFab o.seq).done h
  else ((reqs.foldl (fun t r => t.placeReq o.seq r) t).finishFab o.seq).done h

/-- The peer of a lane (R340, R452). -/
def State.peerAt (s : State) (b : Opnd) (l : Nat) : Except FaultInfo Nat :=
  let p := (s.grp.read b l).toNat
  if 1024 ≤ p then .error (operandFault 2) else .ok p

/-- A lane's remote access. -/
structure RLane where
  lane : Nat
  peer : Nat
  va : Dword
  deriving DecidableEq, Repr

/-- The target address and the peer of a lane (R457 item 1; the sign rule is the target's, R440). -/
def State.remoteAt (s : State) (a b : Opnd) (al l : Nat) : Except FaultInfo RLane :=
  let va := s.grp.read64 a l
  if va.toNat % al ≠ 0 then .error { code := 0x12, addr := some va }
  else (s.peerAt b l).map (fun p => ⟨l, p, va⟩)

/-- Lanes by ascending peer, then ascending lane (R194). -/
def byPeer (xs : List RLane) : List RLane := sortBy (fun x y => decide (x.peer < y.peer)) xs

/-- The lanes that one request serves: one for each pair of peer and line (R194). -/
def coalesce (xs : List RLane) : List (List RLane) :=
  let key (x : RLane) : Nat × Nat := (x.peer, x.va.toNat / 128)
  ((byPeer xs).map key).eraseDups.map (fun k => (byPeer xs).filter (fun x => key x == k))

/-- A read request of `n` bytes a lane: whole words within one line (R190). -/
def readReq (n : Nat) (xs : List RLane) : FReq :=
  let lo := xs.foldl (fun m x => min m x.va.toNat) (xs.headD ⟨0, 0, 0⟩).va.toNat / 4 * 4
  let hi := (xs.foldl (fun m x => max m (x.va.toNat + n)) 0 + 3) / 4 * 4
  { peer := (xs.headD ⟨0, 0, 0⟩).peer, lanes := xs.map (fun x => (x.lane, x.va.toNat - lo)), ready := true,
    addr := BitVec.ofNat 64 lo, body := .read (BitVec.ofNat 64 lo) (hi - lo) }

/-- A write request: where lanes overlap the higher lane's bytes are kept (R194). -/
def writeReq (n : Nat) (data : Nat → Nat) (xs : List RLane) : FReq :=
  let cells : Tbl Byte := xs.foldl (fun t x =>
    (List.range n).foldl (fun t i => Tbl.insert t (x.va.toNat + i) (BitVec.ofNat 8 (data x.lane / 2 ^ (8 * i)))) t) []
  { peer := (xs.headD ⟨0, 0, 0⟩).peer, lanes := xs.map (fun x => (x.lane, 0)), ready := true,
    addr := BitVec.ofNat 64 ((cells.headD (0, 0)).1), body := .write (cells.map (fun c => (BitVec.ofNat 64 c.1, c.2))) }

/-- The frame of the per-lane forms (R339, R340): the restartable check of step 6, the lanes, what holds a fabric
request back, the checks of every lane, and room in F. -/
def State.fabric {α : Type} (s : State) (h : Hdr) (barred : Bool) (f : Nat → Except FaultInfo α)
    (k : List α → State → Host.Outcome State Fault Refusal) : Host.Outcome State Fault Refusal :=
  let lanes := s.xs h
  if barred && s.blk.restartable then s.failStep (protFault none 1)
  else if lanes.isEmpty then s.done h
  else s.unheld .f fun s =>
    if s.grp.fabHeld then .next (s.waitFor .fence)
    else
      match checkLanes f lanes with
      | .error e => s.fail e
      | .ok xs => s.roomFor .f fun s => k xs s

/-- An operation at its issue. -/
def State.fabOp (s : State) (kind : FabKind) (lanes : List Nat) (dst : Option Dest) (stat : Bool) (ps : PField) : FabOp :=
  { seq := s.grp.issues, kind := kind, open_ := lanes, lanes := lanes, got := [], fails := [], dst := dst,
    ps := if stat then some ps else none, stat := stat, obj := none, src := .of [], done := false,
    org := s.origin }

def execRld (h : Hdr) (stat : Bool) (sz : Size) (d a b : Opnd) (ps : PField) (s : State) :
    Host.Outcome State Fault Refusal :=
  s.fabric h false (s.remoteAt a b sz.bytes) fun xs s =>
    s.issueFab h (s.fabOp (.rld sz) (xs.map (fun x => x.lane)) (some (destOf false d sz)) stat ps)
      ((coalesce xs).map (readReq sz.bytes)) sz.bytes

def execRst (h : Hdr) (stat : Bool) (sz : Size) (d a b : Opnd) (ps : PField) (s : State) :
    Host.Outcome State Fault Refusal :=
  s.fabric h true (s.remoteAt a b sz.bytes) fun xs s =>
    s.issueFab h (s.fabOp .rst (xs.map (fun x => x.lane)) none stat ps)
      ((coalesce xs).map (writeReq sz.bytes (s.grp.data d sz.regs))) sz.bytes

/-- The operand `k` registers on. -/
def Opnd.plus (o : Opnd) (k : Nat) : Opnd :=
  match o with
  | .v n => .v (n + BitVec.ofNat 7 k)
  | .s n => .s (n + BitVec.ofNat 6 k)
  | .o n => .o (n + BitVec.ofNat 3 k)
  | o => o

def execRatom (h : Hdr) (stat : Bool) (ty : ATy) (op_ : AOp) (d a b c : Opnd) (ps : PField) (s : State) :
    Host.Outcome State Fault Refusal :=
  let n := ty.bytes
  s.fabric h true (s.remoteAt a b n) fun xs s =>
    let g := s.grp
    let dst : Option Dest := if d = .zero then none else some ⟨false, regNum d, n / 4, if n = 8 then .b64 else .b32⟩
    (s.count 0x0A 1).issueFab h (s.fabOp (.ratom ty) (xs.map (fun x => x.lane)) dst stat ps)
      ((byPeer xs).map (fun x =>
        { peer := x.peer, lanes := [(x.lane, 0)], ready := true, addr := x.va,
          body := .atomic op_ ty x.va (BitVec.ofNat 64 (g.data c (n / 4) x.lane))
            (if op_ = .cas then BitVec.ofNat 64 (g.data (Opnd.plus c (n / 4)) (n / 4) x.lane) else 0) dst.isSome })) n

/-! ### Local sources read after issue (R342, R343) -/

/-- A lane of `RCPY`: the source, the peer and the target, then the object (R457). -/
def State.rcpyAt (s : State) (spad : Bool) (n : Nat) (d a b c : Opnd) (l : Nat) : Except FaultInfo (RLane × Loc) :=
  match s.sideAt spad false n n (s.grp.addr spad a l) with
  | .error e => .error e
  | .ok src =>
    match s.peerAt b l with
    | .error e => .error e
    | .ok p =>
      let va := s.grp.read64 d l
      if va.toNat % n ≠ 0 then .error { code := 0x12, addr := some va }
      else (s.objAt c).map (fun _ => (⟨l, p, va⟩, src))

/-- The body of a request whose bytes have been read. -/
def fillBody (bytes : List Byte) : PktBody → PktBody
  | .write cells => .write ((cells.zip bytes).map (fun x => (x.1.1, x.2)))
  | .message i t _ => .message i t ((elemsOf 4 (bytes.length / 4) bytes).map (BitVec.ofNat 32))
  | b => b

/-- Gives the requests of an operation their bytes. -/
def Req.fill (g : GroupRef) (n l : Nat) (bytes : List Byte) (r : Req) : Req :=
  if r.owner = g ∧ r.op = n ∧ r.lanes.any (fun x => x.1 == l) then
    { r with ready := true, pkt := { r.pkt with body := fillBody bytes r.pkt.body } }
  else r

/-- Drops the requests of an operation that have not left. -/
def State.dropUnsent (s : State) (n : Nat) : State :=
  { s with reqs := s.reqs.filter (fun r => r.left || !(r.owner == s.ref && r.op == n)) }

/-- An operation that cannot read its source stops: what has not left is dropped, it is acknowledged for nothing, and
its group takes an asynchronous fault, or a clear predicate in a `.S` form (R433, R435, R452; assumption 18). -/
def State.stopFab (s : State) (o : FabOp) (f : AsyncFault) : State :=
  let sent := (s.reqs.filter (fun r => r.left && r.owner == s.ref && r.op == o.seq)).flatMap (fun r => r.lanes.map (fun x => x.1))
  let t := (s.dropUnsent o.seq).modGrp (fun g => g.modFab o.seq (fun o =>
    { o with src := .of [], obj := none, open_ := o.open_.filter (fun l => sent.contains l),
             fails := if o.stat then o.fails ++ (o.open_.filter (fun l => !sent.contains l)).map (fun l =>
               s.failOf [l] f.code f.hi 0 0 0 false)
               else o.fails }))
  let t := if o.stat && f.code == 0x50 then t else t.modGrp (fun g => g.async f)
  t.finishFab o.seq

/-- The bytes that one lane of an operation has read, when it has read them all. -/
def FabOp.laneBytes (o : FabOp) (k : Nat) : Option (List Byte) :=
  let n := o.src.locs.length / o.lanes.length
  let mine := o.src.read.filter (fun e => e.1 / n == k)
  if mine.length = n then some (mine.map (fun e => e.2)) else none

/-- Reads bytes of an operation's source (R148, R342); a lane's request has its bytes when all are read. -/
def State.readFab (s : State) (n : Nat) (k : Option Nat) : State :=
  match s.grp.fab? n with
  | none => s
  | some o =>
    if o.src.unread.isEmpty then s
    else
      match s.readSource [] o.org n o.src k with
      | .error f => s.stopFab o f
      | .ok (x, t) =>
        let o' := { o with src := x }
        let full := (o.lanes.mapIdx (fun i l => (i, l))).filterMap (fun p =>
          if (o.laneBytes p.1).isSome then none else (o'.laneBytes p.1).map (fun bs => (p.2, bs)))
        let t := full.foldl (fun t p => { t with reqs := t.reqs.map (Req.fill t.ref n p.1 p.2) }) t
        (t.modGrp (fun g => g.modFab n (fun o => { o with src := x }))).finishFab n

def execRcpy (h : Hdr) (stat : Bool) (spad : Bool) (sz : XSize) (d a b c : Opnd) (ps : PField) (s : State) :
    Host.Outcome State Fault Refusal :=
  let n := sz.bytes
  s.fabric h true (s.rcpyAt spad n d a b c) fun xs s =>
    let o := s.fabOp .rcpy (xs.map (fun x => x.1.lane)) none stat ps
    s.issueFab h { o with obj := (s.objAt c).toOption.getD none, src := .of (xs.flatMap (fun x => x.2.range n)) }
      ((byPeer (xs.map (fun x => x.1))).map (fun x =>
        { peer := x.peer, lanes := [(x.lane, 0)], ready := false, addr := x.va,
          body := .write ((List.range n).map (fun i => (x.va + BitVec.ofNat 64 i, 0))) })) 0

/-- The control word of `MSEND` (R343, R452). -/
def msendCheck (spad : Bool) (ctl : Word) (a : Opnd) : Option FaultInfo :=
  let n := ctl.toNat / 256 % 32
  if ctl &&& ~~~(0x1F3F#32) != 0 || n == 0 || decide ((if spad then 30 else 8) < n) then some (operandFault 0)
  else if !spad && decide (128 < regNum a + n) then some (operandFault 1)
  else none

/-- A lane of `MSEND`: the payload of a scratchpad form, then the peer. -/
def State.msendAt (s : State) (spad : Bool) (n : Nat) (a b : Opnd) (l : Nat) : Except FaultInfo (RLane × Nat) :=
  let off := (s.grp.read a l).toNat
  match if spad then s.blk.spadCheck (fun _ => false) false 4 off (4 * n) else none with
  | some e => .error e
  | none => (s.peerAt b l).map (fun p => (⟨l, p, 0⟩, off))

def execMsend (h : Hdr) (stat : Bool) (spad : Bool) (d a b c : Opnd) (ps : PField) (s : State) :
    Host.Outcome State Fault Refusal :=
  let g := s.grp
  let ctl := g.once d
  let n := ctl.toNat / 256 % 32
  s.fabric h true
    (fun l => match msendCheck spad ctl a with
      | some e => .error e
      | none => s.msendAt spad n a b l) fun xs s =>
    let o := s.fabOp .msend (xs.map (fun x => x.1.lane)) none stat ps
    s.issueFab h { o with src := .of (if spad then xs.flatMap (fun x => (Loc.spad x.2).range (4 * n)) else []) }
      ((byPeer (xs.map (fun x => x.1))).map (fun x =>
        { peer := x.peer, lanes := [(x.lane, 0)], ready := !spad, addr := 0,
          body := .message (ctl.toNat % 64) (g.read c x.lane)
            (if spad then [] else (List.range n).map (fun i => g.readN a i x.lane)) })) 0

/-! ### MDONE (R344, R203, R206) -/

/-- Every earlier request of the group has left (R206). -/
def State.sentBefore (s : State) (n : Nat) : Bool :=
  s.reqs.all (fun r => r.left || !(r.owner == s.ref && decide (r.op < n)))

/-- Whether an `MDONE` that issues now finishes a message: TAIL is ahead of HEAD by more than the messages that earlier
ones still in flight finish (R203, R344). -/
def State.mdoneFinishes (s : State) (head tail : Nat) : Bool :=
  let before := s.grp.fabs.filter (fun o => match o.kind with
    | .mdone _ false true _ => true
    | _ => false)
  decide (before.length < (s.phys tail 8 + 2 ^ 64 - s.phys head 8) % 2 ^ 64)

/-- A message of the present block's inbox, by its place in the order of arrival. -/
def State.isMsg (s : State) (index : Nat) (m : MsgIn) : Bool :=
  m.ctx == s.blk.ctx && m.index == index && s.blk.inbox.any (fun x => x.desc == m.desc)

/-- The port through which a message of the present block's inbox came: of one that no request brought, the first of the
block's die (R13; assumption 46). -/
def State.msgPort (s : State) (index : Nat) : Nat := ((s.msgs.find? (s.isMsg index)).map (fun m => m.port)).getD (32 * s.blk.die)

/-- HEAD of the bound inbox, whose home is `head`, rises for an `MDONE` that finishes a message, once earlier loads have
returned (R344). -/
def State.mdoneHead (s : State) (o : FabOp) (head : Nat) (finishes : Bool) : State :=
  if s.grp.loadsDone o.seq then
    let n := s.phys head 8
    let port := s.msgPort n
    let t :=
      if finishes then
        { ((s.asksHost head 8).storeCells (cellsFrom head (leBytes ((n + 1) % 2 ^ 64) 8))).count 0x11 1 with
          msgs := s.msgs.filter (fun m => !s.isMsg n m) }
      else s
    t.modGrp (fun g => g.modFab o.seq (fun o => { o with kind := .mdone head true finishes port }))
  else s

/-- What an operation of path F can do next by itself: an `MDONE` raises HEAD and then C(j), a `QSTAT` lands. -/
def State.progressFab (s : State) (n : Nat) : State :=
  match s.grp.fab? n with
  | none => s
  | some o =>
    if o.done then s
    else
      let ended (t : State) : State := t.modGrp (fun g => (g.modFab n (fun o => { o with done := true })).retireAll)
      match o.kind with
      | .mdone head headDone finishes _ =>
        let t := if headDone then s else s.mdoneHead o head finishes
        match t.grp.fab? n with
        | none => t
        | some o' =>
          match o'.kind with
          | .mdone _ true finished port =>
            if t.sentBefore n then ended (if finished && !t.replaying then t.consume t.blk.job port else t)
            else t
          | _ => t
      | .qstat v =>
        ended (match o.dst with
          | none => s
          | some d => s.modGrp (fun g => (g.setSpair d.base v).renewed d.regs))
      | _ => s

/-- The checks of an `MDONE` on its inbox: HEAD can be written, and neither it nor TAIL holds an uncorrectable error
(R435, R452). The homes of the two words. -/
def State.mdoneCheck (s : State) (x : Inbox) : Except FaultInfo (Nat × Nat) :=
  match s.transl s.core s.blk.ctx .write 8 (x.desc + 0x18), s.transl s.core s.blk.ctx .read 8 (x.desc + 0x10) with
  | .error e, _ => .error e
  | .ok _, .error e => .error e
  | .ok (head, _), .ok (tail, _) =>
    if s.badAt tail 8 then .error (eccFault tail) else if s.badAt head 8 then .error (eccFault head) else .ok (head, tail)

/-- `MDONE` finishes a message of the bound inbox when one is unfinished at its issue (R203, R344). -/
def execMdone (h : Hdr) (s : State) : Host.Outcome State Fault Refusal :=
  if (s.xs h).isEmpty then s.done h
  else s.unheld .f fun s =>
    let fail (e : FaultInfo) := s.failOnce h e
    if s.blk.handg ≠ some s.grp.num then fail (operandFault 7)
    else
      match s.blk.inbox.elim (Except.ok none) (fun x => (s.mdoneCheck x).map some) with
      | .error e => fail e
      | .ok at_ => s.roomFor .f fun s =>
        let kind := match at_ with
          | none => FabKind.mdone 0 false false 0
          | some (head, tail) => .mdone head false (s.mdoneFinishes head tail) 0
        let o := s.fabOp kind [] none false PField.zero
        let s := at_.elim s (fun x => (s.asksHost x.2 8).asksHost x.1 8)
        ((s.modGrp (fun g => { g with fabs := g.fabs ++ [o] })).progressFab o.seq).done h

/-! ### QSTAT, RFENCE, QUIET (R345 to R347) -/

/-- The value of `QSTAT` (R347), from one snapshot. -/
def State.qstatVal (s : State) (sel : QSel) : Nat :=
  let j := s.job s.blk.job
  match sel with
  | .inj => j.i
  | .cons => j.c
  | .lost => j.l
  | .wave => j.wave

/-- `QSTAT` reads counts of the pod, an external input of its launch (R391; assumption 61). -/
def execQstat (h : Hdr) (sel : QSel) (d : Opnd) (s : State) : Host.Outcome State Fault Refusal :=
  if (s.xs h).isEmpty then s.done h
  else s.unheld .f fun s => s.roomFor .f fun s => s.podInput sel.code.toNat (s.qstatVal sel) fun v s =>
    let o := s.fabOp (.qstat (BitVec.ofNat 64 v)) [] (some ⟨true, regNum d, 2, .b64⟩) false PField.zero
    (s.modGrp (fun g => { g with fabs := g.fabs ++ [o] })).done h

/-- Logs the completion of a `QUIET` or an `RFENCE` with the job's counts (R230 type 5), or takes it from the log. -/
def State.waveInput (s : State) (k : State → Host.Outcome State Fault Refusal) : Host.Outcome State Fault Refusal :=
  match s.replay 5 with
  | .live =>
    let j := s.job s.blk.job
    k (s.logInput 5 (leBytes j.l 8 ++ leBytes j.wave 8))
  | .input _ t => k t
  | .diverged d => s.replayEnds d

/-- `RFENCE` waits in the active slot until every earlier request is acknowledged (R187). -/
def execRfence (h : Hdr) (s : State) : Host.Outcome State Fault Refusal :=
  if (s.xs h).isEmpty then s.done h
  else s.unheld .f fun s =>
    if !s.grp.acked s.grp.issues then .next (s.waitFor .rfence)
    else s.roomFor .f fun s => s.waveInput fun s =>
      let o := { s.fabOp .rfence [] none false PField.zero with done := true }
      (s.modGrp (fun g => ({ g with fabs := g.fabs ++ [o] } : Group).retireAll)).done h

/-- Some `QUIET` of a job is pending on this device. -/
def State.quietPending (s : State) (j : Nat) : Bool :=
  s.blocks.any (fun b => b.job == j && b.groups.any (fun g => g.fabs.any (fun o =>
    match o.kind with
    | .quiet _ settled => !settled && !o.done
    | _ => false)))

/-- The leader of a job: the lowest member rank (R192). -/
def State.leader (s : State) (j : Nat) : Nat := (s.members j).headD s.rank

/-- Tells the leader that a `QUIET` is pending (R208). -/
def State.sendNotice (s : State) (j : Nat) : State :=
  let l := s.leader j
  if l = s.rank then s.setJob j { s.job j with noticed := true } else s.control l (.quietNotice j)

/-- PEER_DOWN of a `QUIET` whose job has a member down (R445). -/
def State.downFault (s : State) (org : Origin) (r : Nat) : AsyncFault := ⟨0x32, 1, org, none, false, r, 0, s.time⟩

/-- `QUIET` (R346, R209): once every earlier request of its group has left, and so been counted (R188), it records w0 and
waits at a swap point until a settled wave covers it, then performs the acquire of R188. Its job's members all being up is
a condition of its waiting (R445). -/
def execQuiet (h : Hdr) (s : State) : Host.Outcome State Fault Refusal :=
  if s.grp.hmaskr.getLsbD 1 then s.failStep (protFault none 2)
  else if (s.xs h).isEmpty then s.done h
  else s.unheld .f fun s =>
    match s.grp.fabs.find? (fun o => match o.kind with
        | .quiet _ _ => !o.done
        | _ => false) with
    | some o =>
      match o.kind with
      | .quiet _ true => s.waveInput fun s =>
        let t := (s.swapPoint.writesBack s.origin (fun s => s.flushAll s.core)).modGrp (fun g => (g.modFab o.seq (fun o => { o with done := true })).retireAll)
        t.done h
      | _ => .next (s.waitSwap .quiet)
    | none =>
      if s.replaying then s.roomFor .f fun s => s.waveInput fun s =>
        (s.swapPoint.writesBack s.origin (fun s => s.flushAll s.core)).done h
      else s.roomFor .f fun s =>
        let j := s.blk.job
        -- a number of its own: the instruction has not issued yet, and a handler may issue before it does
        let o := { s.fabOp (.quiet (s.job j).arrived false) [] none false PField.zero with seq := 2 ^ 48 + s.grp.issues }
        if !s.sentBefore s.grp.issues then .next (s.waitSwap .quiet)
        else match (s.job j).down with
        | some r => .next ((s.modGrp (fun g => g.async (s.downFault o.org r))).waitFor .quiet)
        | none =>
          let t := if s.quietPending j then s else s.sendNotice j
          .next ((t.modGrp (fun g => { g with fabs := g.fabs ++ [o] })).waitSwap .quiet)

end Sys2Proof.Machine
end

