-- ==== Sys2Proof/Machine/System.lean ====
section
/-! DEFINITION. Control registers, launch, system call and the privileged instructions, class 0xD (spec 16 R349 to R356;
04 R98 to R104; 09 R224, R225; 03 R56 to R58; 19 R378; 20 R403). -/

namespace Sys2Proof.Machine

/-! ### Control registers -/

/-- The numbers of R98 and R224 (R403). -/
def csrListed (n : Nat) : Bool :=
  decide (n < 4) || decide (8 ≤ n ∧ n < 12) || decide (0x10 ≤ n ∧ n < 0x18) || n == 0x20 || n == 0x21 ||
    decide (0x30 ≤ n ∧ n < 0x40) || decide (0x800 ≤ n ∧ n < 0x80A)

/-- Registers of access RW (R98). -/
def csrWritable (n : Nat) : Bool := decide (n < 4) || decide (8 ≤ n ∧ n < 12) || decide (0x30 ≤ n ∧ n < 0x40)

/-- The lower and upper half of a 64-bit value. -/
def halfOf (v k : Nat) : Word := BitVec.ofNat 32 (v / 2 ^ (32 * k))

/-- The bits of a register that a field holds; the others are reserved and read zero (R6, R99 to R104, R378). -/
def csrFields (n : Nat) : Word :=
  match n with
  | 0x001 => 0xFFFF0333
  | 0x002 => 0xFFFFFFC7
  | 0x003 => 3
  | 0x008 => 0xFFFF07FF
  | 0x009 => 0x03FFFFFF
  | n => if 0x38 ≤ n ∧ n < 0x40 then 0xFF else 0xFFFFFFFF

/-- What a read of a register returns; for TIME, after its capture. -/
def State.csrRead (s : State) (n : Nat) : Word :=
  let g := s.grp
  let b := s.blk
  let nat (x : Nat) : Word := BitVec.ofNat 32 x
  match n with
  | 0x000 => g.gmr
  | 0x001 => g.mxa &&& csrFields 1
  | 0x002 => g.hvec &&& csrFields 2
  | 0x003 => g.hmaskr &&& csrFields 3
  | 0x008 => g.trec0 &&& csrFields 8
  | 0x009 => g.trec1 &&& csrFields 9
  | 0x00A => g.trec2
  | 0x00B => g.trec3
  | 0x010 => nat g.num
  | 0x011 => nat b.ref.block
  | 0x012 => nat b.die
  | 0x013 => launchId b.ref.launch
  | 0x014 => nat b.core
  | 0x015 => nat b.die
  | 0x016 => nat s.rank
  | 0x017 => nat b.job
  | 0x020 => halfOf g.timeCap.toNat 0
  | 0x021 => halfOf g.timeCap.toNat 1
  | 0x800 => (s.ctx b.ctx).ovt
  | 0x801 => nat (s.ctxTenant b.ctx + 2 ^ 16 * s.ctxClass b.ctx)
  | 0x802 => halfOf s.mgmt.keytab.toNat 0
  | 0x803 => halfOf s.mgmt.keytab.toNat 1
  | 0x804 => halfOf (s.ctxBase b.ctx).toNat 0
  | 0x805 => halfOf (s.ctxBase b.ctx).toNat 1
  | 0x806 => halfOf (s.recBase b.ctx).toNat 0
  | 0x807 => halfOf (s.recBase b.ctx).toNat 1
  | 0x808 => halfOf (s.faultQ b.ctx).toNat 0
  | 0x809 => halfOf (s.faultQ b.ctx).toNat 1
  | n => if n < 0x38 then Tbl.get 0 g.ecnt (n - 0x30) else Tbl.get 0 g.ecsel (n - 0x38) &&& csrFields n

/-- The bits that a write may change (R99 to R104, R229, R350, R378). -/
def csrMask (priv : Bool) (n : Nat) : Word :=
  match n with
  | 0x001 => 0xFFFF0333
  | 0x002 => 0xFFFFFFC7
  | 0x003 => 1
  | 0x008 => 0x400
  | 0x009 => 0
  | 0x00A | 0x00B => if priv then 0xFFFFFFFF else 0
  | n => if 0x38 ≤ n then 0xFF else 0xFFFFFFFF

/-- The value that a write leaves. -/
def csrNew (priv : Bool) (n : Nat) (old w : Word) : Word :=
  let m := csrMask priv n
  (old &&& ~~~m) ||| (w &&& m)

/-- Puts a value into a register of access RW. -/
def Group.csrPut (g : Group) (n : Nat) (w : Word) : Group :=
  match n with
  | 0x000 => { g with gmr := w }
  | 0x001 => { g with mxa := w }
  | 0x002 => { g with hvec := w }
  | 0x003 => { g with hmaskr := w }
  | 0x008 => { g with trec0 := w }
  | 0x009 => { g with trec1 := w }
  | 0x00A => { g with trec2 := w }
  | 0x00B => { g with trec3 := w }
  | n =>
    if n < 0x38 then { g with ecnt := Tbl.set 0 g.ecnt (n - 0x30) w }
    else { g with ecsel := Tbl.set 0 g.ecsel (n - 0x38) w }

/-- A number from 0x800 upward in an unprivileged context, found at step 6 (R403). -/
def State.csrBarred (s : State) (n : Nat) : Bool := decide (0x800 ≤ n) && !s.ctxPriv s.blk.ctx

/-- Whether a write leaves MXA.AFMT and HVEC[2:0] at legal codes (R403). -/
def csrValueOk (n : Nat) (w : Word) : Bool :=
  !(n == 1 && decide (2 ≤ w.toNat % 4)) && !(n == 2 && decide (5 ≤ w.toNat % 8))

/-- A read of TIME captures the whole count (R103); record mode logs it and replay takes it from the log (R230
type 2). -/
def State.captureTime (s : State) (k : State → Host.Outcome State Fault Refusal) : Host.Outcome State Fault Refusal :=
  let put (s : State) (t : Nat) : State := s.modGrp (fun g => { g with timeCap := BitVec.ofNat 64 t })
  match s.replay 2 with
  | .live => k (put (s.logInput 2 (leBytes s.time 8)) s.time)
  | .input p t => k (put t (leNat p))
  | .diverged d => s.replayEnds d

/-- RANK is set from outside the launch: record mode logs what is read (R391; assumption 61). -/
def execCsrr (h : Hdr) (d : Opnd) (csr : BitVec 12) (s : State) : Host.Outcome State Fault Refusal :=
  let n := csr.toNat
  if s.csrBarred n then s.failStep (protFault none 4)
  else if (s.xs h).isEmpty then s.done h
  else if !csrListed n then s.failOnce h (operandFault 6)
  else if n = 0x20 then s.captureTime fun s => (s.writeS d (s.csrRead n)).done h
  else if n = 0x16 then s.podInput n s.rank fun v s => (s.writeS d (BitVec.ofNat 32 v)).done h
  else (s.writeS d (s.csrRead n)).done h

/-- The three writing instructions: `f` is the value of the written word from the old one (R350). The write stands behind what
the issue itself counts: a counter goes on from it with the next issue (R104). -/
def State.csrWrite (s : State) (h : Hdr) (d : Opnd) (n : Nat) (f : Word → Word) : Host.Outcome State Fault Refusal :=
  let priv := s.ctxPriv s.blk.ctx
  if s.csrBarred n then s.failStep (protFault none 4)
  else if (s.xs h).isEmpty then s.done h
  else if !csrListed n || !csrWritable n then s.failOnce h (operandFault 6)
  else
    let old := s.csrRead n
    let new := csrNew priv n old (f old)
    if !csrValueOk n new then s.failOnce h (operandFault 1)
    else
      .next (((if d = .zero then s else s.writeS d old).fin h).modGrp (fun g => g.csrPut n new))

def execCsrw (h : Hdr) (d a : Opnd) (csr : BitVec 12) (s : State) : Host.Outcome State Fault Refusal :=
  s.csrWrite h d csr.toNat (fun _ => s.grp.once a)

def execCsrs (h : Hdr) (d a : Opnd) (csr : BitVec 12) (s : State) : Host.Outcome State Fault Refusal :=
  s.csrWrite h d csr.toNat (fun old => old ||| s.grp.once a)

def execCsrc (h : Hdr) (d a : Opnd) (csr : BitVec 12) (s : State) : Host.Outcome State Fault Refusal :=
  s.csrWrite h d csr.toNat (fun old => old &&& ~~~(s.grp.once a))

/-! ### Queues and launches (R52, R53, R56 to R58) -/

def State.queue (s : State) (q : Nat) : Queue := Tbl.get Queue.reset s.queues q
def State.setQueue (s : State) (q : Nat) (x : Queue) : State := { s with queues := Tbl.set Queue.reset s.queues q x }

def Queue.prio (q : Queue) : Nat := q.ctl.toNat % 4
def Queue.preempt (q : Queue) : Bool := q.ctl.getLsbD 2
def Queue.enabled (q : Queue) : Bool := q.ctl.getLsbD 3
def Queue.recMode (q : Queue) : Nat := q.ctl.toNat / 16 % 4
def Queue.crSize (q : Queue) : Nat := q.ctl.toNat / 2 ^ 12 % 16
def Queue.waitIv (q : Queue) : Nat := q.ctl.toNat / 2 ^ 16

/-- The queue accepts a launch of a context (R58, R219). -/
def Queue.accepts (q : Queue) (ctx : Nat) : Bool := q.enabled && q.grant.getLsbD ctx

/-- The live launches of a queue in sequence order. -/
def State.launchesOf (s : State) (q : Nat) : List Launch := s.launches.filter (fun x => x.ref.queue == q)

/-- Field of a packet's bytes. -/
def fieldOf (p : List Byte) (off n : Nat) : Nat := leNat ((p.drop off).take n)

/-- Puts a packet into a queue: it takes NEXTSEQ, which then rises (R56). `who` gives the tenant and the job of an
unprivileged launcher; none takes the packet's own (R58). RECMODE 3, which is reserved, records and replays nothing (R52;
assumption 68). -/
def State.acceptLaunch (s : State) (q ctx : Nat) (who : Option (Nat × Nat)) (addr : Dword) (packet : List Byte) : State :=
  let x := s.queue q
  let own := who.getD (fieldOf packet 0x1E 2, fieldOf packet 0x1C 1)
  let l : Launch :=
    { ref := ⟨q, x.nextSeq.toNat⟩, ctx := ctx, tenant := own.1, job := own.2, addr := addr, packet := packet, header := none,
      eligible := false, next := 0, waiting := [], again := [], eccDone := [], map := [], retired := 0, dispatched := 0,
      stopped := false, status := none, benchBars := [], launchBar := 0, gang := .idle, members := [], waitSince := s.time,
      cores := [], mode := if x.recMode = 3 then 0 else x.recMode, recLog := 0, recFull := false,
      taken := [], ext := [] }
  { (s.setQueue q { x with nextSeq := x.nextSeq + 1 }) with launches := s.launches ++ [l] }

/-! ### Host launches (R226, R407) -/

/-- DONE and ERR of HLCTL. -/
def hlDone : Word := 0x40000000
def hlErr : Word := 0x20000000

/-- A host launch starts nothing: ERR and DONE are set, and a valid context gets a record with SCOPE 3. -/
def State.refuseHost (s : State) (ctx : Nat) (e : FaultInfo) : State :=
  let t := { s with mgmt := { s.mgmt with hlctl := s.mgmt.hlctl ||| hlDone ||| hlErr } }
  if t.ctxValid ctx then
    t.faultRecord ctx { code := e.code, scope := 3, hi := e.hi, addr := e.addr, phys := e.phys, info0 := e.info0, info1 := e.info1 }
  else t

/-- The host launch under way, as a `LAUNCH` of context CTX into QUEUE: refused, delayed by a full queue, or
accepted. -/
def State.tryHostLaunch (s : State) : State :=
  let ctl := s.mgmt.hlctl.toNat
  let q := ctl % 64
  let ctx := ctl / 256 % 256
  if s.mgmt.hlctl &&& hlDone != 0 then s
  else if !s.ctxValid ctx || !(s.queue q).accepts ctx then s.refuseHost ctx (protFault none 5)
  else
    match s.transl devCore ctx .read 64 s.mgmt.hladdr with
    | .error e => s.refuseHost ctx e
    | .ok (pa, _) =>
      if 256 ≤ (s.launchesOf q).length then s
      else if s.badAt pa 64 then s.refuseHost ctx (eccFault pa)
      else
        let t := ((s.asksWalk devCore ctx s.mgmt.hladdr).asksHost pa 64).acceptLaunch q ctx none s.mgmt.hladdr (s.homeRead pa 64)
        { t with mgmt := { t.mgmt with hlctl := t.mgmt.hlctl ||| hlDone, hlseq := (s.queue q).nextSeq } }

/-- `LAUNCH` (R57, R58, R351): the checks, room in the queue, the release at DEV scope, the packet, and the sequence
number to D. -/
def execLaunch (h : Hdr) (d a b : Opnd) (s : State) : Host.Outcome State Fault Refusal :=
  let g := s.grp
  let blk := s.blk
  let q := (g.once b).toNat
  if (s.xs h).isEmpty then s.done h
  else if 63 < q then s.failOnce h (operandFault 2)
  else if !(s.queue q).accepts blk.ctx then s.failOnce h (protFault none 5)
  else
    match s.transl s.core blk.ctx .read 64 (g.once64 a) with
    | .error e => s.failOnce h e
    | .ok (pa, _) =>
      if 256 ≤ (s.launchesOf q).length then .next (s.waitFor (.queueFull q))
      else if g.spadHeld false then .next (s.waitFor .fence)
      else s.released true false fun t =>
        if t.badAt pa 64 then t.failOnce h (eccFault pa)
        else
          let u := (t.asksHost pa 64).acceptLaunch q blk.ctx (if s.ctxPriv blk.ctx then none else some (blk.tenant, blk.job))
            (g.once64 a) (t.homeRead pa 64)
          (u.writeS d (s.queue q).nextSeq).done h

/-- `SYSC` raises SYSCALL (R352). Where it goes to a block halt, the quads of the issue set stand at the slot after it
(R380). -/
def execSysc (h : Hdr) (n : BitVec 8) (s : State) : Host.Outcome State Fault Refusal :=
  if (s.xs h).isEmpty then s.done h
  else
    let handled := s.ctxPriv s.blk.ctx && s.grp.hvec != 0 && !s.grp.hmaskr.getLsbD 1
    let t := s.trap { code := 0x41, detail := n.toNat, beat := s.onceBeat h }
    .next (if handled then t else t.modQuads s.cur.quads (fun _ q => { q with pc := pcNext q.pc }))

/-! ### Privileged instructions -/

/-- Step 6 of a privileged instruction (R403), and the end of one that no lane executes. -/
def State.privileged (s : State) (h : Hdr) (k : State → Host.Outcome State Fault Refusal) :
    Host.Outcome State Fault Refusal :=
  if !s.ctxPriv s.blk.ctx then s.failStep (protFault none 4) else if (s.xs h).isEmpty then s.done h else k s

/-- An overflow table without a reserved bit or a reserved code (R137). -/
def ovtOk (w : Word) : Bool := decide (w.toNat < 64) && (List.range 3).all (fun i => w.toNat / 4 ^ i % 4 != 3)

def execLdovt (h : Hdr) (a : Opnd) (s : State) : Host.Outcome State Fault Refusal :=
  s.privileged h fun s =>
    let w := s.grp.once a
    if !ovtOk w then s.failOnce h (operandFault 1)
    else (s.setCtx s.blk.ctx { s.ctx s.blk.ctx with ovt := w }).done h

/-- Whether a `TLBINV` covers a cached translation (R354). -/
def TlbEntry.covered (e : TlbEntry) (sc : TlbScope) (ctx : Nat) (va : Dword) : Bool :=
  match sc with
  | .va => e.ctx == ctx && va.toNat / e.leaf.size * e.leaf.size == e.vbase
  | .ctx => e.ctx == ctx
  | .all => true

/-- A group holds an access that was translated to an address of `p` and has not performed. -/
def Group.accessing (g : Group) (p : Nat → Bool) : Bool :=
  let unread (x : Source) : Bool := (globPas (x.unread.map (fun e => e.2))).any p
  g.memops.any (fun o => o.acc.any (fun a => p a.pa)) ||
    g.copies.any (fun c => !c.landed && (unread c.src || (globPas c.dst).any p)) ||
    g.fabs.any (fun o => unread o.src || match o.kind with
      | .mdone head false true _ => p head
      | _ => false) ||
    g.mats.any (fun o => match o.kind with
      | .ldcbk pas => pas.any p
      | _ => false)

/-- The pages, with their sizes, of the translations that a `TLBINV.va` covers and that accesses had used as it issued, whether
caches still hold them or not (R354; assumption 80). -/
def State.invPages (s : State) (ctx : Nat) (va : Dword) : List (Nat × Nat) :=
  match s.grp.wait with
  | .tlb ps => ps
  | _ => (s.used.filter (fun e => e.ctx == ctx && va.toNat / e.size * e.size == e.vbase)).map (fun e => (e.base, e.size))

/-- Whether an access at `pa` may have used a translation that a `TLBINV` covers. -/
def invCovers (sc : TlbScope) (pages : List (Nat × Nat)) (pa : Nat) : Bool :=
  sc != .va || pages.any (fun e => decide (e.1 ≤ pa ∧ pa < e.1 + e.2))

/-- A waiting `WAITM` gives up the translation of its address: it translates it again before its next read. -/
def Group.retranslate (g : Group) : Group := if g.polls then { g with wait := g.wait.again } else g

/-- `TLBINV` drops the translations and waits in the active slot until no access that used one of them is in flight; the
`WAITM`s of a context that it covers translate their addresses again (R354). -/
def execTlbinv (h : Hdr) (sc : TlbScope) (a b : Opnd) (s : State) : Host.Outcome State Fault Refusal :=
  s.privileged h fun s =>
    let ctx := (s.grp.once b).toNat
    if sc ≠ .all ∧ 255 < ctx then s.failOnce h (operandFault 2)
    else
      let va := s.grp.once64 a
      let mine (b : Block) : Bool := sc == .all || b.ctx == ctx
      let pages := if sc = .va then s.invPages ctx va else []
      let t := { s with
        tlb := s.tlb.filter (fun e => !e.covered sc ctx va)
        blocks := s.blocks.map (fun b => if mine b then { b with groups := b.groups.map Group.retranslate } else b) }
      if t.blocks.any (fun b => mine b && b.groups.any (fun g => g.accessing (invCovers sc pages))) then .next (t.waitFor (.tlb pages))
      else t.done h

/-- `ERET`: as `HRET`, and the quads of the trap record resume at the PC it holds (R355, R379). -/
def execEret (h : Hdr) (s : State) : Host.Outcome State Fault Refusal :=
  s.privileged h fun s =>
    if !s.grp.trec0.getLsbD 8 then s.failOnce h (operandFault 7)
    else
      let t := s.fin h
      match t.grp.frame with
      | some _ => .next (t.returnFrom true).resumeWaits
      | none => .next (t.modGrp (fun g =>
          { g.resumeAt (g.trec1.extractLsb' 0 24) (g.trec0.getLsbD 10) (some (g.trec3 ++ g.trec2)) with
              trec0 := g.trec0 &&& ~~~(0x100#32) }))

/-! ### Context pre-emption (R225, R356) -/

/-- Blocks of a context that a request still has to save or discard. -/
def State.ctxResident (s : State) (ctx : Nat) : Bool :=
  s.blocks.any (fun b => b.ctx == ctx && (match b.halting with
    | some .priority | none => false
    | some _ => true))

/-- Asks every resident block of a context to halt. -/
def State.haltContext (s : State) (ctx : Nat) (hold : Bool) : State :=
  { s with blocks := s.blocks.map (fun b =>
      if b.ctx = ctx then
        s.askHalt (.context hold) b
      else b) }

/-- A request for a context: HOLD bars its blocks from dispatch; HOLD clear releases the hold. -/
def State.setHold (s : State) (ctx : Nat) (hold : Bool) : State := s.setCtx ctx { s.ctx ctx with hold := hold }

/-- Changes the list of requests. -/
def State.setRequests (s : State) (rs : List CtxReq) : State := { s with mgmt := { s.mgmt with requests := rs } }

/-- Serves the requests one at a time, in the order of their arrival (R356): HOLD is set or released, the blocks are asked
to halt, and the next is served once the condition of R225 holds. The end of a PREQ write with GO sets DONE. -/
def State.serve (s : State) : Nat → State
  | 0 => s
  | k + 1 =>
    match s.mgmt.requests with
    | [] => s
    | r :: rs =>
      let t :=
        if r.begun then s
        else
          let u := s.setHold r.ctx r.hold
          (if r.go then u.haltContext r.ctx r.hold else u).setRequests ({ r with begun := true } :: rs)
      if r.go && t.ctxResident r.ctx then t
      else
        let u := t.setRequests rs
        (if r.preq && r.go then { u with mgmt := { u.mgmt with preq := u.mgmt.preq ||| 0x20000000 } } else u).serve k

/-- Serves what can be served now. -/
def State.servePreq (s : State) : State := s.serve s.mgmt.requests.length

/-- A request reaches the management controller. -/
def State.request (s : State) (ctx : Nat) (hold go preq : Bool) : State :=
  let r : CtxReq := ⟨s.mgmt.tickets, ctx, hold, go, preq, false⟩
  State.servePreq { s with mgmt := { s.mgmt with requests := s.mgmt.requests ++ [r], tickets := s.mgmt.tickets + 1 } }

/-- A request is not served to its end. -/
def State.requested (s : State) (ticket : Nat) : Bool := s.mgmt.requests.any (fun r => r.ticket == ticket)

/-- `HALT` (R356): a request like a PREQ write with GO; the group waits in its active slot until its own is done. -/
def execHalt (h : Hdr) (hold : Bool) (a : Opnd) (s : State) : Host.Outcome State Fault Refusal :=
  s.privileged h fun s =>
    let c := (s.grp.once a).toNat
    if 255 < c ∨ c = s.blk.ctx then s.failOnce h (operandFault 1)
    else
      match s.grp.wait with
      | .halt n => if s.requested n then .next s else s.done h
      | _ =>
        let n := s.mgmt.tickets
        let t := s.request c hold true false
        if t.requested n then .next (t.waitFor (.halt n)) else t.done h

/-- A write of PREQ (R225, R408): with GO it starts a request, and is ignored while DONE is clear; without GO it only sets
or releases the hold of the context it names, in its turn. -/
def State.preqWrite (s : State) (w : Word) : State :=
  let c := w.toNat % 256
  let hold := w.getLsbD 30
  let old := s.mgmt.preq
  if w.getLsbD 31 then
    if !old.getLsbD 29 then s
    else ({ s with mgmt := { s.mgmt with preq := w &&& 0x400000FF } }).request c hold true true
  else ({ s with mgmt := { s.mgmt with preq := (old &&& 0x20000000) ||| (w &&& 0x400000FF) } }).request c hold false true

/-! ### Issues of words that are no instruction -/

/-- A slot whose VALID bit is clear runs as `NOP` (R234). -/
def execInvalidSlotIssue (s : State) : Host.Outcome State Fault Refusal :=
  s.done ⟨⟨false, 7⟩, ⟨false, 7⟩, 0, false⟩

/-- The fault of an illegal word (R393 to R395). -/
def Illegal.fault : Illegal → FaultInfo
  | .opc => { code := 0x01, hi := 0 }
  | .var => { code := 0x01, hi := 1 }
  | .reserved n => { code := 0x02, hi := n }
  | .operand n => operandFault n

/-- A word that is no instruction faults precisely (R395). -/
def execIllegalInstructionIssue (w : BitVec 96) (s : State) : Host.Outcome State Fault Refusal :=
  match decode w with
  | .error e => s.failStep (Illegal.fault e)
  | .ok _ => .next s

end Sys2Proof.Machine
end

