-- ==== Sys2Proof/Machine/MemEvents.lean ====
section
/-! DEFINITION. Events of the memory pipe, the copy engine, translation and the caches (spec 06 R143, R147 to R153; 07
R172 to R174; 04 R155; 14 R311, R314; 19 R387; 22 R433). An event that its rule does not allow now changes
nothing. -/

namespace Sys2Proof.Machine

/-- An event that acts on a seated group, when the group is resident. -/
def State.atGroup (s : State) (r : GroupRef) (f : State → State) : Host.Outcome State Fault Refusal :=
  match s.seat r with
  | none => .next s
  | some t => .next { f t with cur := s.cur }

/-- A load or a returning atomic returns, in order (R155). -/
def execLoadReturn (g : GroupRef) (seq : Nat) (s : State) : Host.Outcome State Fault Refusal :=
  s.atGroup g (fun t => t.returnLoad seq)

/-- The next action of the first operation of the seated group that satisfies `p` and has still to perform. -/
def State.performFirst (s : State) (p : MemOp → Bool) : State :=
  match s.grp.memops.find? (fun o => p o && o.pending) with
  | none => s
  | some o => s.performNext o

def MemOp.isStore (o : MemOp) : Bool :=
  match o.kind with
  | .store => true
  | _ => false

def MemOp.isAtom (o : MemOp) : Bool :=
  match o.kind with
  | .atom _ _ => true
  | _ => false

/-- The oldest store leaves the store queue by one access (R172, R155). -/
def execStorePerform (g : GroupRef) (s : State) : Host.Outcome State Fault Refusal :=
  s.atGroup g (fun t => t.performFirst MemOp.isStore)

/-- The next lane of the oldest atomic or reduction performs at its home (R153, R308). -/
def execAtomicPerform (g : GroupRef) (s : State) : Host.Outcome State Fault Refusal :=
  s.atGroup g (fun t => t.performFirst MemOp.isAtom)

/-- A walk ends: a translation that it found may be used from the core's cache from now on (R143). A failed walk caches
nothing; the access that needs it reports the failure. What the walk read of the host's memory was asked of the host (R217;
assumption 53). -/
def execPageWalkComplete (c : CoreId) (ctx : Nat) (va : Dword) (s : State) : Host.Outcome State Fault Refusal :=
  if signOk va then
    let t := s.asksPas (s.walkBytes ctx va)
    match s.walk ctx va with
    | .error _ => .next t
    | .ok l =>
      let e : TlbEntry := ⟨c, ctx, va.toNat / l.size * l.size, l⟩
      .next { t with tlb := e :: s.tlb.filter (fun x => !x.covered .va ctx va || x.core != c) }
  else .next s

/-- A core evicts a line that the hints let its set evict: its dirty bytes go home first (R152, R173). -/
def execL1Eviction (c : CoreId) (line : Nat) (s : State) : Host.Outcome State Fault Refusal :=
  match s.l1Find c line with
  | none => .next s
  | some x => .next (if s.l1Evictable x then s.flushLine c line else s)

/-- A home slice evicts a line that the hints let its set evict (R150, R152): its contents stay the home's. -/
def execL2Eviction (line : Nat) (s : State) : Host.Outcome State Fault Refusal :=
  match s.l2.find? (fun x => x.line == line) with
  | none => .next s
  | some x => .next (if s.l2Evictable x then { s with l2 := s.l2.filter (fun y => y.line != line) } else s)

/-- Frees the readers of a group that waited on a line, once every line they name is full. -/
def Group.releaseReader (b : Block) (line : Nat) (g : Group) : Group :=
  match g.wait with
  | .lineEmpty ls => if ls.contains line && (b.emptyLines ls).isEmpty then { g with wait := .ready } else g
  | _ => g

/-- Readers of a line proceed once its count is 0 (R148): waiting instructions may issue, and the copy engine and the
fabric read the sources that stand in it. -/
def execFeReaderRelease (b : BlockRef) (line : Nat) (s : State) : Host.Outcome State Fault Refusal :=
  match s.seatBlk b with
  | none => .next s
  | some t =>
    if t.blk.feCount line ≠ 0 then .next s
    else
      let u := t.modBlk (fun x => { x with groups := x.groups.map (Group.releaseReader x line) })
      let u := (List.range u.blk.groups.length).foldl (fun u j => u.within u.cur.blk j (fun v =>
        let v := (v.grp.copies.filter (fun c => (spadLines c.src.locs).contains line)).foldl (fun v c => v.readCopy c none) v
        (v.grp.fabs.filter (fun o => (spadLines o.src.locs).contains line)).foldl (fun v o => v.readFab o.seq none) v)) u
      .next { u with cur := s.cur }

/-- The last byte of a copy lands (R314, R162). -/
def execCopyCompletion (g : GroupRef) (seq : Nat) (s : State) : Host.Outcome State Fault Refusal :=
  s.atGroup g (fun t =>
    match t.grp.copies.find? (fun c => c.seq == seq) with
    | none => t
    | some c => t.landCopy c)

/-- The registers that a landing replaces whole, by the numbers of `Dest.regs`: a vector register in all its lanes, a scalar,
a predicate in all its lanes (R387). -/
def Landing.renews (x : Landing) : List Nat :=
  (x.dst.elim [] (fun d => d.renews (x.vals.map (fun v => v.1)))) ++ x.sdst.elim [] (fun p => [128 + p.1]) ++
    x.pdst.elim [] (fun p => if (List.range numLanes).all p.2.1.getLsbD then [256 + p.1] else [])

/-- A scratchpad result lands: registers, the scalar of `DEC` and its predicate (R311, R313). -/
def Group.land (g : Group) (x : Landing) : Group :=
  let g := match x.dst with
    | none => g
    | some d => g.deliver d x.vals
  let g := match x.sdst with
    | none => g
    | some (n, w) => g.setS n w
  let g := match x.pdst with
    | none => g
    | some (n, lanes, val) => g.setP (BitVec.ofNat 3 n) (fun l => lanes.getLsbD l) (fun l => val.getLsbD l)
  { g with landings := g.landings.filter (fun y => y.seq != x.seq) }.renewed x.renews

def execScratchpadResultLanding (g : GroupRef) (seq : Nat) (s : State) : Host.Outcome State Fault Refusal :=
  s.atGroup g (fun t => t.modGrp (fun g =>
    match g.landings.find? (fun x => x.seq == seq) with
    | none => g
    | some x => g.land x))

/-- An uncorrectable error without a consumer (R387): the context that last wrote the line is halted; one of a line that no
context owns is counted among the other structures, in the telemetry and so in the RESYNC summary (R385, R386; assumption
58). The address holds while it stands among the noted failures. -/
def execEccAsyncFailure (addr : Nat) (s : State) : Host.Outcome State Fault Refusal :=
  if s.eccFail.contains addr then
    let t := { s with eccFail := s.eccFail.filter (fun a => a != addr) }
    match (s.l2.find? (fun x => x.line == addr / 128)).bind (fun x => x.ctx) with
    | none => .next (t.countCorrected 5)
    | some c => .next (t.contextHalt c
        { code := 0x50, scope := 1, imprec := true, addr := some (BitVec.ofNat 64 addr), phys := true })
  else .next s

/-! ### FE_TIMEOUT (R433) -/

/-- A wait on a pending count since time `t` has passed FETO microseconds. -/
def State.feExpired (s : State) (t : Nat) : Bool := s.mgmt.feto != 0 && decide (1000 * s.mgmt.feto < s.time - t)

/-- FE_TIMEOUT with its reason and the line's offset. -/
def feFault (reason line : Nat) : FaultInfo := { code := 0x14, hi := reason, info0 := 128 * line }

def feAsync (time : Nat) (org : Origin) (line : Nat) : AsyncFault := ⟨0x14, 1, org, none, false, 128 * line, 0, time⟩

/-- The line on which an engine's wait has lasted too long. -/
def State.feStuck (s : State) (own : List Nat) (x : Source) : Option Nat :=
  match x.wait with
  | some (l, t) => if !s.blk.fullFor own l && s.feExpired t then some l else none
  | none => none

/-- The waits of the seated group's engine operations that have lasted too long stop them. -/
def State.feEngines (s : State) : State :=
  let s := s.grp.copies.foldl (fun s c =>
    match s.feStuck c.lines c.src with
    | some l => if c.buf.isNone && !c.landed then s.stopCopy c (feAsync s.time c.org l) else s
    | none => s) s
  s.grp.fabs.foldl (fun s o =>
    match s.feStuck [] o.src with
    | some l => s.stopFab o (feAsync s.time o.org l)
    | none => s) s

/-- The beat of an instruction that waits on a line's count: that of the lowest lane that names the line, the first performed
beat of a validation fetch, or the beat of a form that acts once (R373). -/
def State.waitBeat (s : State) (line : Nat) : Nat :=
  let g := s.grp
  let lane (ls : List Nat) (p : Nat → Bool) : Nat := ((ls.find? p).map (· / 32)).getD s.setBeat
  let beat (h : Hdr) (p : Nat → Bool) : Nat := (((s.beats.filter (fun b => s.beatGuard h b 0)).find? p)).getD s.setBeat
  let lands (d : Opnd) (n l : Nat) : Bool := (linesOf (g.read d l).toNat n).contains line
  match decodeIssue (s.fetch s.core s.blk.ctx s.cur.pc).word with
  | .lds h _ _ _ a b off => lane ((s.lanes h).filter (fun l => !s.partGot.any (fun x => x.1 == l)))
      (fun l => g.spadEa a b off l / 128 == line)
  | .atoms h _ _ _ a _ _ _ => lane (s.xs h) (fun l => (g.read a l).toNat / 128 == line)
  | .cpy h _ sz _ _ d _ c _ => lane (s.xs h) (lands d (s.cpyKind sz.bytes c).2)
  | .cpyc h _ sz _ _ d _ _ _ => lane (s.xs h) (lands d (2 * sz.bytes))
  | .tdec h body cap _ b _ =>
    let n := recordSize body cap
    beat h (fun k => (linesOf (s.offOf b + n * k) n).contains line)
  | .mmq h .. | .tpin h .. => beat h (fun _ => true)
  | .dec h .. | .cpyt h .. => s.onceBeat h
  | _ => s.setBeat

/-- A group's waits on pending counts that last longer than FETO (R433): at its instruction the fault is precise. -/
def execFeTimeout (g : GroupRef) (s : State) : Host.Outcome State Fault Refusal :=
  s.atGroup g (fun t =>
    let trap (t : State) (reason line : Nat) : State :=
      if t.feExpired t.grp.waitSince then
        match t.seatSet with
        | none => t
        | some u => u.trap { feFault reason line with beat := u.waitBeat line }
      else t
    let t := match t.grp.wait with
      | .lineEmpty (l :: _) => if t.blk.feCount l != 0 then trap t 1 l else t
      | .lineFull (l :: _) => if decide (7 ≤ t.blk.feCount l) then trap t 3 l else t
      | _ => t
    t.feEngines)

end Sys2Proof.Machine
end

