-- ==== Sys2Proof/Machine/Saves.lean ====
section
/-! DEFINITION. Halting, saving and resuming a block: the block record, group records and handler frames laid out in the
save area (spec 03 R70, R71; 04 R96, R105 to R109; 12 R280, R281; 19 R378, R380; 20 R408). -/

namespace Sys2Proof.Machine

/-! ### Halt (R71) -/

/-- A waiting quad at a halt stands at the waiting instruction again, which has not executed (R70, R280, R281). -/
def Quad.unwait (q : Quad) : Quad :=
  match q.exited, q.wait with
  | false, .regang _ _ | false, .barrier _ _ _ => { q with pc := pcPrev q.pc, wait := .run }
  | _, _ => q

/-- Barriers at which the group has arrived by a `BAR` that waits: the halt withdraws these arrivals (R281). -/
def Group.barArrivals (g : Group) : List Nat :=
  g.quads.filterMap (fun q =>
    match q.exited, q.wait with
    | false, .barrier k _ true => some k
    | _, _ => none)

/-- What a halt does to a group: waits end unexecuted, the entry of a waiting `QUIET` leaves F, and a fence that still
waits takes its actions from the first at resume (R70, R105; assumption 43). -/
def Group.halt (g : Group) : Group :=
  ({ g with
      arrivals := g.barArrivals.foldl (fun t k => Tbl.set 0 t k 0) g.arrivals
      quads := g.quads.map Quad.unwait
      wait := .ready
      swapped := false
      fences := g.fences.map Fence.withdraw
      mats := g.mats.map (fun o => { o with got := [] })
      fabs := g.fabs.filter (fun o => match o.kind with
        | .quiet _ _ => o.done
        | _ => true)
      saveO := g.active.isSome } : Group).retireAll

/-- A release of POD scope before issue `n` has taken steps 1 to 4 of R176 and waits for acknowledgements alone. -/
def Group.atStep5 (g : Group) (wrote : Bool) (n : Nat) : Bool := wrote && g.relReady true n && !g.acked n

/-- A fence that waits for acknowledgements alone. -/
def Group.fenceAtStep5 (g : Group) : Fence → Bool
  | .fence .rel .pod n w _ | .fence .ar .pod n w _ => g.atStep5 w n
  | _ => false

/-- The operations of a group that wait for acknowledgements alone, and those that stand behind one, or behind such a fence,
in program order (R71). -/
def Group.behindAcks (g : Group) : List MemOp :=
  g.memops.foldl (fun hs o =>
    let load := o.kind == .load
    if (o.releases && o.ord.pod && !o.acc.isEmpty && g.atStep5 o.wrote o.seq) ||
        g.fences.any (fun f => g.fenceAtStep5 f && decide (f.seqNo ≤ o.seq) && (if load then f.holdsLoad else f.holdsStore)) ||
        hs.any (fun p => if load then !p.acc.isEmpty && p.holdsLoad o else !p.acc.isEmpty || p.path == .s)
    then hs ++ [o] else hs) []

/-- A release or an acquire that has issued and not performed; what only
the wait for acknowledgements holds does not hold a halt back (R71). -/
def Group.ordering (g : Group) : Bool :=
  let held := g.behindAcks
  g.memops.any (fun o => !o.acc.isEmpty && (o.acquires || o.releases) && !held.contains o) ||
    g.fences.any (fun f => match f with
      | .fence _ _ n _ _ => !g.fenceAtStep5 f && !held.any (fun o => decide (o.seq < n))
      | .fencex _ _ _ _ _ => false)

/-- The engine has come to its place in the round, and waits for lines of a group's oldest operation. -/
def State.engineStands (s : State) (c : CoreId) : Bool :=
  s.roundNext c == enginePlace && s.blocks.any (fun b => b.steady && b.die == c.die && b.core == c.core && !b.halted &&
    b.groups.any (fun g => !g.mats.isEmpty && (g.nextMat b).isNone))

/-- The conditions under which a halt is complete: in steady mode the round is over (R84), or stands still until another party
acts, which may be after the time that R71 gives the halt (assumption 64). -/
def State.haltDone (s : State) : Bool :=
  s.blk.groups.all (fun g => g.retired || (g.latchOnly == 0 && !g.ordering)) &&
    (!s.blk.steady || s.roundOver s.core || s.roundStands s.core || s.engineStands s.core ||
      s.blk.groups.all (fun g => g.active.isNone))

/-- Removes the present block from its core for good. -/
def State.dropBlk (s : State) : State :=
  let t := s.orphan s.blk.ref
  { t with blocks := t.blocks.eraseIdx s.cur.blk }.servePreq

/-- Whether a pre-emption discards the present block (R70, R44, note (h) of R19). A replayed block is discarded where its log
says so and nowhere else: a pre-emption of the device saves it (note (d) of R19; assumption 59). -/
def State.discards (s : State) (why : HaltWhy) : Bool :=
  s.blk.buffers && (s.replayOf s.blk).isNone &&
    match why with
    | .priority | .context _ => (s.queue s.blk.ref.launch.queue).preempt
    | .broken => true
    | .fault | .ended => false

/-- A replayed block that a pre-emption of the device halts and its log does not discard there keeps its buffer, and stays
unpinned: its log may still name a discard of it, which has to find none of its stores committed (note (d) of R19, R42;
assumption 59). -/
def State.keeps (s : State) (why : HaltWhy) : Bool :=
  (s.replayOf s.blk).isSome && (s.queue s.blk.ref.launch.queue).preempt &&
    match why with
    | .priority | .context _ => true
    | .broken | .fault | .ended => false

/-- The halt of a block completes (R71): every group halts; an unpinned restartable block is then discarded, or pinned
so that it can be saved (R380, note (h) of R19). -/
def execBlockHalt (b : BlockRef) (s : State) : Host.Outcome State Fault Refusal :=
  match s.seatBlk b with
  | none => .next s
  | some t =>
    match t.blk.halting with
    | none => .next s
    | some why =>
      if t.blk.halted || !t.haltDone then .next s
      else
        let u := t.modBlk (fun x => { x with
          halted := true, groups := x.groups.map (fun g => if g.retired then g else g.halt) })
        let u :=
          if u.discards why then
            if why = .broken then u.dropBlk else u.discardBlk.servePreq
          else if u.blk.buffers && why != .ended && !u.keeps why then
            match u.badBuf with
            | some w => (u.bufferEcc w).servePreq
            | none => u.pin
          else u
        .next { u with cur := s.cur }

/-! ### Records (R106 to R108) -/

/-- Bytes of a mask. -/
def maskBytes {n : Nat} (m : BitVec n) (k : Nat) : List Byte := leBytes m.toNat k

/-- A register's words in lane order. -/
def VReg.words (r : VReg) : List Word := (List.range numLanes).map r.read

/-- Words as bytes. -/
def wordBytes (ws : List Word) : List Byte := ws.flatMap (fun w => leBytes w.toNat 4)

/-- A latch: 8 bytes a lane. -/
def Latch.bytes (l : Latch) : List Byte :=
  (List.range numLanes).flatMap (fun i => leBytes (l.lo.read i).toNat 4 ++ leBytes (l.hi.read i).toNat 4)

/-- The kind of the wait that a frame records (R108). -/
def Frame.waitKind (f : Frame) : Nat :=
  let bar := f.waits.any (fun w => match w with
    | .barrier _ _ _ => true
    | _ => false)
  match f.wait with
  | .release _ true => 1
  | .path _ _ => 3
  | .memWord .. | .memHit .. => 4
  | .phase _ _ => 5
  | .quiet => 6
  | _ => if bar then 1 else if f.waits.any (fun w => w != .run) then 2 else 0

/-- The kind of a frame's wait and its made-arrival flag (R108). -/
def Frame.waitWord (f : Frame) : Nat :=
  let arrived := f.waits.any (fun w => match w with
    | .barrier _ _ a => a
    | _ => false)
  f.waitKind + if arrived then 16 else 0

/-- A handler frame's 2,048 bytes (R108). -/
def Frame.bytes (f : Frame) : List Byte :=
  f.pcs.flatMap (fun p => leBytes p.toNat 8) ++ f.stamps.flatMap (fun n => leBytes n 4) ++
    wordBytes [f.mk0, f.mk1, f.mk2] ++
    leBytes ((if f.helper then 1 else 0) + 2 ^ 8 * f.exited.toNat) 4 ++ leBytes f.waitWord 4 ++
    f.lt0.bytes ++ f.lt1.bytes ++ List.replicate 204 0

/-- The code of a tag (R92). -/
def VReg.tag : VReg → Nat
  | .u _ => 0
  | .a _ _ => 1
  | .g _ => 2

/-- A register as its tag holds it. -/
def VReg.bytes : VReg → List Byte
  | .u w => leBytes w.toNat 4
  | .a b s => leBytes b.toNat 4 ++ leBytes s.toNat 4
  | .g ws => wordBytes ((List.range numLanes).map (fun l => ws.getD l 0))

/-- Pads bytes to a multiple of 128. -/
def padTo128 (bs : List Byte) : List Byte := bs ++ List.replicate ((128 - bs.length % 128) % 128) 0

/-- A group record (R107). The 240 bytes of matrix queue state, whose form the manual keeps to the device, hold free
bytes (assumption 21). DESIGN CHOICE: the Tags field holds 0, tag U, for the volatile registers, which R96 does not save, whatever
their tags are (assumption 71). -/
def Group.record (g : Group) (volf k : Nat) : List Byte :=
  let state := (if g.helper then 1 else 0) + (if g.saveO then 2 else 0) + (if g.frame.isSome then 4 else 0)
  let vs := (List.range volf).map g.vreg
  padTo128 (
    wordBytes ((List.range 64).map g.sreg) ++
    g.quads.flatMap (fun q => leBytes q.pc.toNat 8) ++
    g.quads.flatMap (fun q => leBytes q.stamp 4) ++
    (List.range 7).flatMap (fun p => maskBytes (Tbl.get 0 g.preds p) 12) ++
    List.replicate 12 0 ++
    wordBytes [g.gmr, g.mxa, g.hvec, g.hmaskr] ++
    wordBytes ((List.range 8).map (Tbl.get 0 g.ecsel)) ++
    wordBytes ((List.range 8).map (Tbl.get 0 g.ecnt)) ++
    leBytes state 4 ++ leBytes volf 4 ++ leBytes g.timeCap.toNat 8 ++
    leBytes ((vs.mapIdx (fun n r => 4 ^ n * r.tag)).foldl (· + ·) 0) 32 ++
    wordBytes [g.trec0, g.trec1, g.trec2, g.trec3] ++
    (List.range 240).map (Config.freeByte k) ++
    (if g.saveO then (List.range 8).flatMap (fun n => wordBytes (g.oreg n).words) else []) ++
    (match g.frame with
      | some f => f.bytes
      | none => []) ++
    vs.flatMap VReg.bytes)

/-- The groups that have arrived in a barrier's generation. -/
def Block.arrivedMask (b : Block) (k gen : Nat) : Nat :=
  (b.groups.filter (fun g => Tbl.get 0 g.arrivals k == gen + 1)).foldl (fun m g => m + 2 ^ g.num) 0

/-- A block record (R106): header, group records, the window and the pending counts. -/
def State.blockRecord (s : State) : List Byte :=
  let b := s.blk
  let recs := b.groups.map (fun g => if g.retired then [] else g.record b.volf s.free)
  let bar (k : Nat) : Nat :=
    let gen := s.barGen k
    b.arrivedMask k gen + 2 ^ 16 * (gen % 2 ^ 16)
  let sizes := (List.range 16).flatMap (fun i => leBytes ((recs.getD i []).length) 4)
  leBytes b.ref.block 4 ++ leBytes b.groups.length 1 ++ leBytes 0 1 ++
    leBytes ((b.groups.filter (fun g => g.retired)).foldl (fun m g => m + 2 ^ g.num) 0) 2 ++
    leBytes b.spad 4 ++ leBytes (launchId b.ref.launch).toNat 4 ++ sizes ++
    (List.range 8).flatMap (fun k => leBytes (bar k) 4) ++
    leBytes (b.arrivedMask 8 (s.barGen 8) + 2 ^ 16 * b.arrivedMask 9 (s.barGen 9)) 4 ++ List.replicate 12 0 ++
    recs.flatten ++ Memory.bytes b.spm 0 b.spad ++
    padTo128 ((List.range ((b.spad / 128 + 1) / 2)).map (fun i =>
      BitVec.ofNat 8 (b.feCount (2 * i) + 16 * b.feCount (2 * i + 1))))

/-! ### Save (R105, R408) -/

/-- The places that saved records of a context take in its save area. -/
def State.savedSpans (s : State) (ctx : Nat) : List (Nat × Nat) :=
  sortBy (fun x y => decide (x.1 < y.1))
    ((s.saved.filter (fun x => x.blk.ctx == ctx)).map (fun x => (x.va.toNat, x.bytes)))

/-- The lowest free place from `at_` on (assumption 22). -/
def placeFrom (n : Nat) : Nat → List (Nat × Nat) → Nat
  | at_, [] => at_
  | at_, (a, m) :: rest => if at_ + n ≤ a then at_ else placeFrom n (max at_ (a + m)) rest

/-- Operations that a save waits for: the counters G, S, C and F, and what of the group still has to land or end. -/
def Group.drained (g : Group) : Bool :=
  g.memops.isEmpty && g.copies.isEmpty && g.fabs.isEmpty && g.landings.isEmpty

/-- As `drained`, for a block that is dropped: a `COLL` does not hold it. -/
def Group.dropReady (g : Group) : Bool :=
  g.memops.isEmpty && g.copies.isEmpty &&
    g.fabs.all (fun o => match o.kind with
      | .coll _ => true
      | _ => o.done)

/-- A save that fails leaves the block halted and resident, and halts the context (R408). -/
def State.saveFailed (s : State) (e : FaultInfo) : State :=
  let b := s.blk
  ((s.modBlk (fun x => { x with stuck := true, held := true })).noteStatus b.ref.launch e.code.toNat).contextHalt b.ctx
    { code := e.code, scope := 1, launch := launchId b.ref.launch, block := b.ref.block, die := b.die, core := b.core,
      addr := e.addr, phys := e.phys, detail := e.detail, hi := e.hi, info0 := e.info0, info1 := 1 }

/-- Groups leave their slots at a save; what is volatile is gone (R96, R109). -/
def Group.toSave (g : Group) : Group := { g with active := none, readyAt := none }

/-- The block is saved (R105): its record is written and it leaves its core. -/
def State.saveBlk (s : State) : State :=
  let b := s.blk
  let r := s.blockRecord
  let va := placeFrom r.length (s.ctxBase b.ctx).toNat (s.savedSpans b.ctx)
  if (s.ctxBase b.ctx).toNat + s.ctxSize b.ctx < va + r.length then s.saveFailed (protFault none 6)
  else
    match { s with free := s.free + 1 }.ctxWrite b.ctx (BitVec.ofNat 64 va) r with
    | .error e => s.saveFailed e
    | .ok t =>
      let x : Saved := ⟨{ b with groups := b.groups.map Group.toSave }, BitVec.ofNat 64 va, r.length, s.time, s.free⟩
      let t := { t with blocks := t.blocks.eraseIdx s.cur.blk }
      (if b.halting = some .broken then t else { t with saved := t.saved ++ [x] }).servePreq

/-- A halted block that has drained is saved, or dropped when its launch has been ended (R105, R384). -/
def execBlockSave (b : BlockRef) (s : State) : Host.Outcome State Fault Refusal :=
  match s.seatBlk b with
  | none => .next s
  | some t =>
    if !t.blk.halted || t.blk.stuck then .next s
    else if t.blk.halting = some .ended then
      if t.blk.groups.all Group.dropReady then .next { t.dropBlk with cur := s.cur } else .next s
    else if t.blk.groups.all (fun g => g.retired || g.drained) then .next { t.saveBlk with cur := s.cur }
    else .next s

/-- The physical core that a logical core names (R218, R461). -/
def State.physCore (s : State) (c : CoreId) : CoreId := ⟨c.die, (Tbl.get 0 s.mgmt.coreMap (256 * c.die + c.core)).toNat⟩

/-- A halt that has lasted 50 µs (R408): WATCHDOG, once for each block whose halt it is, the context halts, and the core is
taken out of dispatch. -/
def execHaltTimeout (b : BlockRef) (s : State) : Host.Outcome State Fault Refusal :=
  match s.seatBlk b with
  | none => .next s
  | some t =>
    let x := t.blk
    if x.halting.isNone || x.halted || decide (t.time - x.haltSince ≤ 50000) || x.overdue then .next s
    else
      let u := { t.modBlk (fun y => { y with overdue := true }) with plat := { t.plat with
        dead := if t.plat.dead.contains (t.physCore t.core) then t.plat.dead else t.plat.dead ++ [t.physCore t.core] } }
      let u := (u.noteStatus b.launch 0x51).contextHalt x.ctx
        { code := 0x51, scope := 1, launch := launchId b.launch, block := b.block, die := x.die, core := x.core,
          imprec := true, detail := 3 }
      .next { u with cur := s.cur }

/-! ### Resume (R109, R409) -/

/-- Reads `n` little-endian numbers of `w` bytes at an offset of a record. -/
def numsAt (r : List Byte) (off w n : Nat) : List Nat := elemsOf w n (r.drop off)

/-- A sparse table of numbered values. -/
def tblOf {α : Type} [DecidableEq α] (d : α) (xs : List α) : Tbl α :=
  (xs.mapIdx (fun i x => (i, x))).foldl (fun t x => Tbl.set d t x.1 x.2) []

/-- A register of 96 words. -/
def regAt (r : List Byte) (off : Nat) : VReg := .g ((numsAt r off 4 numLanes).map (BitVec.ofNat 32))

/-- A latch of a frame. -/
def latchAt (r : List Byte) (off : Nat) : Latch :=
  let ws := (numsAt r off 4 (2 * numLanes)).map (BitVec.ofNat 32)
  ⟨.g ((List.range numLanes).map (fun l => ws.getD (2 * l) 0)), .g ((List.range numLanes).map (fun l => ws.getD (2 * l + 1) 0))⟩

/-- The vector registers of a record, from `at_` on. -/
def vregsAt (r : List Byte) (tags : Nat) : Nat → Nat → Nat → List VReg
  | 0, _, _ => []
  | k + 1, n, at_ =>
    let (x, m) : VReg × Nat :=
      match tags / 4 ^ n % 4 with
      | 0 => (.u (BitVec.ofNat 32 (fieldOf r at_ 4)), 4)
      | 1 => (.a (BitVec.ofNat 32 (fieldOf r at_ 4)) (BitVec.ofNat 32 (fieldOf r (at_ + 4) 4)), 8)
      | _ => (regAt r at_, 384)
    x :: vregsAt r tags k (n + 1) (at_ + m)

/-- The frame's wait under the wait word of its record: of another kind, the frame records no wait, as the record holds
no operand of one (R108, R409; assumption 62). -/
def Frame.rewait (f : Frame) (w : Nat) : Frame :=
  if w % 16 ≠ f.waitKind then { f with waits := f.waits.map (fun _ => .run), wait := .ready }
  else { f with waits := f.waits.map (fun x => match x with
    | .barrier k n _ => .barrier k n (w / 16 % 2 == 1)
    | x => x) }

/-- A frame read back (R108). -/
def Frame.ofRecord (f : Frame) (r : List Byte) (at_ : Nat) : Frame :=
  let w (o : Nat) : Word := BitVec.ofNat 32 (fieldOf r (at_ + o) 4)
  { f.rewait (fieldOf r (at_ + 304) 4) with
    pcs := (numsAt r at_ 8 24).map (BitVec.ofNat 64)
    stamps := numsAt r (at_ + 192) 4 24
    mk0 := w 288
    mk1 := w 292
    mk2 := w 296
    helper := fieldOf r (at_ + 300) 4 % 2 == 1
    exited := BitVec.ofNat 24 (fieldOf r (at_ + 301) 3)
    lt0 := latchAt r (at_ + 308)
    lt1 := latchAt r (at_ + 1076) }

/-- A group read back from its record, over what the device kept of it; the latches and the volatile registers are
undefined (R96, R109), every word passes its check again (R387), reserved fields read zero (R6), and matrix queue state other than the bytes of `key` leaves the
matrix results undefined (R409). -/
def Group.ofRecord (g : Group) (r : List Byte) (volf key k : Nat) : Group :=
  let w (o : Nat) : Word := BitVec.ofNat 32 (fieldOf r o 4)
  let csr (n o : Nat) : Word := w o &&& csrFields n
  let state := fieldOf r 0x2D0 4
  let hasO := state / 2 % 2 == 1
  let hasF := state / 4 % 2 == 1
  let at_ := 0x400 + (if hasO then 3072 else 0) + (if hasF then 2048 else 0)
  let vs := vregsAt r (fieldOf r 0x2E0 32) volf 0 at_
  let undef := (List.range (128 - volf)).map (fun i => VReg.u (Config.freeWord (k + 4) i))
  { g with
    sregs := tblOf 0 ((numsAt r 0 4 64).map (BitVec.ofNat 32))
    quads := g.quads.mapIdx (fun i q =>
      { q with pc := BitVec.ofNat 64 (fieldOf r (0x100 + 8 * i) 8), stamp := fieldOf r (0x1C0 + 4 * i) 4 })
    preds := tblOf 0 ((numsAt r 0x220 12 7).map (BitVec.ofNat numLanes))
    gmr := w 0x280
    mxa := csr 1 0x284
    hvec := csr 2 0x288
    hmaskr := csr 3 0x28C
    ecsel := tblOf 0 ((numsAt r 0x290 4 8).map (fun x => BitVec.ofNat 32 x &&& csrFields 0x38))
    ecnt := tblOf 0 ((numsAt r 0x2B0 4 8).map (BitVec.ofNat 32))
    helper := state % 2 == 1
    timeCap := BitVec.ofNat 64 (fieldOf r 0x2D8 8)
    trec0 := csr 8 0x300
    trec1 := csr 9 0x304
    trec2 := w 0x308
    trec3 := w 0x30C
    part := none
    oregs := if hasO then tblOf (.u 0) ((List.range 8).map (fun n => regAt r (0x400 + 384 * n))) else g.oregs
    matFree := g.matFree || (r.drop 0x310).take 240 != (List.range 240).map (Config.freeByte key)
    frame := if hasF then g.frame.map (fun f => f.ofRecord r (at_ - 2048)) else g.frame
    vregs := tblOf (.u 0) (vs ++ undef)
    badRegs := []
    lt0 := Latch.undef k
    lt1 := Latch.undef (k + 2) }

/-- Where each group record stands in a block record. -/
def recStarts (sizes : List Nat) : Nat → List Nat :=
  fun at_ => (sizes.foldl (fun (r : List Nat × Nat) n => (r.1 ++ [r.2], r.2 + n)) ([], at_)).1

/-- The block barriers as the header holds them: the generations, and the groups that have arrived (R106, R409). -/
def Block.barsOf (b : Block) (r : List Byte) : Block :=
  (List.range 8).foldl (fun b k =>
    let w := fieldOf r (0x50 + 4 * k) 4
    let old := Tbl.get 0 b.bars k
    if w = b.arrivedMask k old + 2 ^ 16 * (old % 2 ^ 16) then b
    else
      let gen := old - old % 2 ^ 16 + w / 2 ^ 16
      { b with
        bars := Tbl.set 0 b.bars k gen
        groups := b.groups.map (fun g =>
          { g with arrivals := Tbl.set 0 g.arrivals k (if w.testBit g.num then gen + 1 else 0) }) }) b

/-- A block read back from its record. -/
def Block.ofRecord (b : Block) (r : List Byte) (key k : Nat) : Block :=
  let sizes := numsAt r 0x10 4 16
  let starts := recStarts sizes 0x80
  let tail := 0x80 + sizes.foldl (· + ·) 0
  let counts := tail + b.spad
  let nib (l : Nat) : Nat := fieldOf r (counts + l / 2) 1 / 16 ^ (l % 2) % 16
  let b := b.barsOf r
  { b with
    groups := b.groups.mapIdx (fun i g =>
      if g.retired then g else g.ofRecord ((r.drop (starts.getD i 0)).take (sizes.getD i 0)) b.volf key (k + 5 * i))
    spm := Memory.setBytes [] 0 ((r.drop tail).take b.spad)
    badSpm := []
    fe := tblOf 0 ((List.range (b.spad / 128)).map nib) }

/-- Seats a resumed block's groups in resident slots. -/
def Block.reseat (b : Block) (slots : List Nat) (order : Nat) : Block :=
  { b with
    groups := (b.groups.foldl (fun (r : List Group × List Nat) g =>
      if g.retired && !b.steady then (r.1 ++ [g], r.2) else (r.1 ++ [{ g with slot := r.2.headD 0 }], r.2.tail)) ([], slots)).1
    halting := none
    halted := false
    held := false
    stuck := false
    overdue := false
    order := order }

/-- The groups of a block that hold a resident slot. A group that retires leaves it (R28); in steady mode, where the time at
which its last operation completes may decide nothing, the slot is free when the block retires (R84; assumption 64). -/
def Block.holders (b : Block) : List Group := b.groups.filter (fun g => b.steady || !g.retired)

/-- Resident slots of a core that no group holds. -/
def State.freeSlots (s : State) (c : CoreId) : List Nat :=
  let used := s.blocks.flatMap (fun b =>
    if b.die = c.die ∧ b.core = c.core then b.holders.map (fun g => g.slot) else [])
  (List.range 32).filter (fun k => !used.contains k)

/-- A block comes to its core. Where blocks of one queue meet on a core and one of them is of a steady launch, the rules of R84
hold for all of them: every decision among them is then a function of their instruction streams (note (c) of R19; assumption
64). The core's next round starts with its first place. -/
def State.addBlock (s : State) (b : Block) : State :=
  let near (x : Block) : Bool := x.die == b.die && x.core == b.core && x.ref.launch.queue == b.ref.launch.queue
  { s with
    rounds := if s.roundOver ⟨b.die, b.core⟩ then Tbl.set 0 s.rounds (coreKey ⟨b.die, b.core⟩) 0 else s.rounds
    blocks := s.blocks.map (fun x => if near x then { x with steady := x.steady || b.steady } else x) ++
      [{ b with steady := b.steady || s.blocks.any (fun x => near x && x.steady) }] }

/-- Resumes a saved block on the core it left, from its record; a read that fails leaves it saved and held (R408). -/
def State.resumeBlk (s : State) (x : Saved) : State :=
  let b := x.blk
  match s.ctxRead b.ctx x.va x.bytes with
  | .error e =>
    let s := s.asksCtx b.ctx x.va x.bytes
    let t := { s with saved := s.saved.map (fun (y : Saved) =>
      if y.blk.ref = b.ref then { y with blk := { y.blk with held := true } } else y) }
    (t.noteStatus b.ref.launch e.code.toNat).contextHalt b.ctx
      { code := e.code, scope := 1, launch := launchId b.ref.launch, block := b.ref.block, die := b.die, core := b.core,
        addr := e.addr, phys := e.phys, detail := e.detail, hi := e.hi, info0 := e.info0, info1 := 2 }
  | .ok r =>
    let n := (b.ofRecord r x.matKey s.free).reseat (s.freeSlots ⟨b.die, b.core⟩) s.dispatchCount
    State.addBlock { s.asksCtx b.ctx x.va x.bytes with
      free := s.free + 5 * b.groups.length
      dispatchCount := s.dispatchCount + 1
      saved := s.saved.filter (fun y => y.blk.ref != b.ref) } n

end Sys2Proof.Machine
end

