-- ==== Sys2Proof/Machine/Launches.lean ====
section
/-! DEFINITION. From an accepted launch to its completion: eligibility and checks, placement, dispatch, priority
pre-emption, retirement and completion (spec 03 R53 to R69, R84; 01 R19; 02 R28, R32, R33, R43; 07 R186; 20 R404 to
R407). -/

namespace Sys2Proof.Machine

/-! ### Fields of a launch -/

def Launch.field (l : Launch) (off n : Nat) : Nat := fieldOf l.packet off n
def Launch.entry (l : Launch) : Dword := BitVec.ofNat 64 (l.field 0 8)
def Launch.hdr (l : Launch) : Dword := BitVec.ofNat 64 (l.field 8 8)
def Launch.grid (l : Launch) : Nat := l.field 0x10 4 % 2 ^ 24
def Launch.gpb (l : Launch) : Nat := l.field 0x14 1
def Launch.flag (l : Launch) (i : Nat) : Bool := l.field 0x15 1 / 2 ^ i % 2 == 1
def Launch.gangId (l : Launch) : Nat := l.field 0x16 2
def Launch.spad (l : Launch) : Nat := l.field 0x18 4
def Launch.pmap (l : Launch) : Dword := BitVec.ofNat 64 (l.field 0x20 8)
def Launch.gangMap (l : Launch) : Dword := BitVec.ofNat 64 (l.field 0x38 8)
def Launch.isGang (l : Launch) : Bool := l.flag 4
def Launch.cosched (l : Launch) : Bool := l.flag 0 || l.isGang
/-- Record and replay run in steady scheduling (note (a) of R19). -/
def Launch.steady (l : Launch) : Bool := l.flag 2 || l.mode != 0
/-- Allow-overlap is ignored in record and replay (note (e) of R19). -/
def Launch.overlap (l : Launch) : Bool := l.flag 3 && l.mode == 0

/-- A header once checked, or one of a launch that has none. -/
def Launch.head (l : Launch) : Header := l.header.getD ⟨0, 0, 0, 0, 128, 0, 0⟩

/-- Restartable, subject to the header and to note (g) of R19 (R257). -/
def Launch.restartable (l : Launch) : Bool := l.flag 1 && l.head.hflags % 2 == 1 && !l.cosched

/-! ### Eligibility (R55, R61) -/

/-- A dependence word is satisfied (R55). -/
def State.depOk (s : State) (w : Nat) : Bool :=
  if w / 2 ^ 31 % 2 = 0 then true
  else
    let d := ((s.queue (w / 2 ^ 24 % 64)).doneSeq.toNat + 2 ^ 24 - w % 2 ^ 24) % 2 ^ 24
    decide (1 ≤ d ∧ d ≤ 2 ^ 23)

/-- The launch before one in its queue, when it is live. -/
def State.predecessor (s : State) (l : Launch) : Option Launch :=
  s.launch? ⟨l.ref.queue, (l.ref.seq + 2 ^ 32 - 1) % 2 ^ 32⟩

/-- A launch has dispatched its last block (R61). -/
def Launch.allOut (l : Launch) : Bool := l.eligible && decide (l.grid ≤ l.dispatched) && l.again.isEmpty

/-- The queue predecessor allows a launch (R61, note (e) of R19). -/
def State.predAllows (s : State) (l : Launch) : Bool :=
  match s.predecessor l with
  | none => true
  | some p => l.overlap && p.mode == 0 && p.allOut

/-! ### Checks (R404, R405) -/

/-- A launch fault: code, reason, block and address. -/
structure LaunchErr where
  code : BitVec 8
  reason : Nat
  block : Nat := 0
  addr : Option Dword := none
  deriving DecidableEq, Repr

def resErr (reason : Nat) : LaunchErr := ⟨0x61, reason, 0, none⟩

/-- A logical core takes blocks: its byte of the map names an enabled physical core, no other logical core of the die
names that one (R461), and it is not out of dispatch (R408). -/
def State.coreOk (s : State) (d c : Nat) : Bool :=
  let p := s.physCore ⟨d, c⟩
  decide (p.core < 168) && (Tbl.get fusesDefault s.fuses d).getLsbD p.core && !s.plat.dead.contains p &&
    (List.range 160).all (fun x => x == c || s.physCore ⟨d, x⟩ != p)

/-- A map entry: die and core (R64, R65, R405). -/
def State.mapEntry (s : State) (l : Launch) (b : Nat) : Except LaunchErr (Nat × Nat) :=
  let va := l.pmap + BitVec.ofNat 64 (2 * b)
  match s.ctxNat l.ctx va 2 with
  | .error _ => .error ⟨0x60, 1, b, some va⟩
  | .ok e =>
    if e / 2 ^ 8 % 2 ^ 6 ≠ 0 then .error ⟨0x60, 2, b, none⟩
    else if 159 < e % 256 then .error ⟨0x60, 3, b, none⟩
    else if !s.coreOk (e / 2 ^ 14) (e % 256) then .error ⟨0x60, 4, b, none⟩
    else .ok (e / 2 ^ 14, e % 256)

/-- `n` entries from block `b` on. -/
def State.readMap (s : State) (l : Launch) : Nat → Nat → Except LaunchErr (List (Nat × Nat))
  | 0, _ => .ok []
  | n + 1, b =>
    match s.mapEntry l b with
    | .error e => .error e
    | .ok x =>
      match s.readMap l n (b + 1) with
      | .error e => .error e
      | .ok xs => .ok (x :: xs)

/-- A reserved field of the packet is non-zero (R53 to R55). -/
def Launch.reservedSet (l : Launch) : Bool :=
  l.field 0x13 1 != 0 || l.field 0x1D 1 != 0 || l.field 0x15 1 / 32 != 0 ||
    (!l.isGang && (l.field 0x16 2 != 0 || l.field 0x38 8 != 0)) ||
    (List.range 4).any (fun i => l.field (0x28 + 4 * i) 4 / 2 ^ 30 % 2 == 1)

/-- The kernel header (R256), none when it breaks its layout. -/
def headerOf (h : List Byte) : Option Header :=
  if fieldOf h 0 4 ≠ 0x31534645 ∨ fieldOf h 4 2 ≠ 1 ∨ fieldOf h 7 1 / 16 ≠ 0 ∨ fieldOf h 0x13 1 ≠ 0 ∨
      fieldOf h 0x18 40 ≠ 0 then none
  else
    some ⟨fieldOf h 6 1, fieldOf h 7 1, BitVec.ofNat 32 (fieldOf h 8 4), fieldOf h 0x0C 4, fieldOf h 0x10 1,
      fieldOf h 0x11 1, fieldOf h 0x12 1⟩

/-- The member ranks of a gang (R72), none when the bitmap cannot be read. -/
def State.gangMembers (s : State) (l : Launch) : Option (List Nat) :=
  match s.ctxRead l.ctx l.gangMap 128 with
  | .error _ => none
  | .ok bs => some ((List.range 1024).filter (fun r => (bs.getD (r / 8) 0).getLsbD (r % 8)))

/-- The groups and scratchpad bytes that a map puts on a core. -/
def mapLoad (m : List (Nat × Nat)) (gpb spad : Nat) (c : Nat × Nat) : Nat × Nat :=
  let n := (m.filter (fun x => x == c)).length
  (n * gpb, n * spad)

/-- The checks of a packet, its header and, for a co-scheduled launch, its map, in the order of R405. -/
def State.checkLaunch (s : State) (l : Launch) : Except LaunchErr (Header × List (Nat × Nat)) :=
  if l.reservedSet then .error (resErr 1)
  else if l.entry.toNat % 64 ≠ 0 ∨ l.hdr.toNat % 64 ≠ 0 ∨ l.pmap.toNat % 2 ≠ 0 ∨
      (l.isGang ∧ l.gangMap.toNat % 128 ≠ 0) then .error (resErr 5)
  else
    match (s.ctxRead l.ctx l.hdr 64).toOption.bind headerOf with
    | none => .error (resErr 4)
    | some h =>
      if l.gpb = 0 ∨ 16 < l.gpb ∨ l.gpb ≠ h.groups then .error (resErr 2)
      else if l.spad % 128 ≠ 0 ∨ 3145728 < l.spad ∨ l.spad < h.scratch then .error (resErr 3)
      else if h.hflags / 2 % 2 = 1 ∧ !l.cosched then .error (resErr 6)
      else if l.flag 1 ∧ !l.cosched ∧ h.hflags % 2 = 1 ∧ h.hflags / 8 % 2 = 1 then .error (resErr 9)
      else if l.isGang ∧ !((s.gangMembers l).elim false (fun m => m.contains s.rank)) then .error (resErr 8)
      else if l.cosched then
        match s.readMap l l.grid 0 with
        | .error e => .error e
        | .ok m =>
          if m.any (fun c => decide (32 < (mapLoad m l.gpb l.spad c).1) || decide (3145728 < (mapLoad m l.gpb l.spad c).2))
          then .error (resErr 7)
          else .ok (h, m)
      else .ok (h, [])

/-- A launch fault (R404): dispatch of the launch stops, its status is noted, and one record with SCOPE 2 is
written. -/
def State.launchFault (s : State) (l : Launch) (e : LaunchErr) : State :=
  let t := (s.noteStatus l.ref e.code.toNat).modLaunch l.ref (fun x => { x with stopped := true, eligible := true })
  t.faultRecord l.ctx
    { code := e.code, scope := 2, launch := launchId l.ref, block := e.block, addr := e.addr, info0 := e.reason }

/-! ### Gangs (R72 to R74, R412, R413) -/

/-- The tenant class in which the control packets of a gang launch travel (R72). -/
def State.launchClass (s : State) (l : Launch) : Nat := if s.isolated then s.ctxClass l.ctx else 0

/-- Sends a control packet to one device in the class of a launch. -/
def State.toMember (s : State) (l : Launch) (dst : Nat) (c : Ctl) : State := s.gangControl (s.launchClass l) dst c

/-- Sends a control packet to every member of a gang launch's job but this one, by the job's member table as it stands
now (R442). -/
def State.toMembers (s : State) (l : Launch) (c : Ctl) : State :=
  ((s.members l.job).filter (· != s.rank)).foldl (fun t r => t.toMember l r c) s

/-- The live gang launch with an identifier. -/
def State.gangOf (s : State) (id : Nat) : Option Launch := s.launches.find? (fun l => l.isGang && l.gangId == id)

/-- The leader of a gang: the lowest member rank. -/
def Launch.leader (l : Launch) : Nat := l.members.headD 0

def State.acks (s : State) (id : Nat) : List Nat := Tbl.get [] s.gangAcks id
def State.setAcks (s : State) (id : Nat) (rs : List Nat) : State := { s with gangAcks := Tbl.set [] s.gangAcks id rs }

/-- A gang broken before its commit (R412): the reservation goes and the launch ends with status 0x0062. -/
def State.abortGang (s : State) (l : Launch) : State :=
  (s.modLaunch l.ref (fun x => { x with gang := .aborted })).launchFault l ⟨0x62, 0, 0, none⟩

/-- A gang broken after its commit (R413): the blocks of the launch stop, none is resumed, and the launch ends with
status 0x0062. -/
def State.breakGang (s : State) (l : Launch) : State :=
  let t := { s with
    saved := s.saved.filter (fun (x : Saved) => x.blk.ref.launch != l.ref)
    blocks := s.blocks.map (fun (b : Block) =>
      if b.ref.launch = l.ref then
        s.askHalt .broken b
      else b) }
  (t.modLaunch l.ref (fun x => { x with gang := .broken, again := [] })).launchFault l ⟨0x62, 0, 0, none⟩

/-- An abort reaches a member. -/
def State.gangBroken (s : State) (l : Launch) : State :=
  match l.gang with
  | .idle | .reserved | .withdrawing => s.abortGang l
  | .committed => s.breakGang l
  | .aborted | .broken => s

/-- A member's launch has been refused before commit (R412): the leader is told, or tells every member. -/
def State.gangRefused (s : State) (l : Launch) : State :=
  match s.gangMembers l with
  | none => s
  | some ms =>
    if ms.headD 0 = s.rank then s.toMembers l (.abort l.gangId false)
    else s.toMember l (ms.headD 0) (.refusal l.gangId s.rank)

/-! ### Launch start -/

/-- The payload of a type 1 entry (R230): packet, overflow table, code table and codebook. -/
def State.startPayload (s : State) (l : Launch) : List Byte :=
  let c := s.ctx l.ctx
  l.packet ++ leBytes c.ovt.toNat 4 ++ c.table.flatMap (fun x => leBytes x.toNat 2) ++ wordBytes c.book

/-- Record logs the start; replay takes the packet and the tables from the log (R230, R231, note (f) of R19). -/
def State.startLog (s : State) (l : Launch) : State × Launch :=
  if l.mode = 1 then (s.logEntry l.ref 1 0 (s.startPayload l), l)
  else if l.mode = 2 then
    match s.logAt l 0 with
    | some (1, _, p) =>
      let s := s.asksCtx l.ctx (s.recBase l.ctx) (16 + p.length)
      let n := (p.length - 580) / 4
      let l' := { l with packet := p.take 64, recLog := entryLen p.length }
      ((s.modLaunch l.ref (fun _ => l')).setCtx l.ctx { s.ctx l.ctx with
        ovt := BitVec.ofNat 32 (fieldOf p 64 4)
        codeTable := some ((numsAt p 68 2 256).map (BitVec.ofNat 16))
        codebook := some ((numsAt p 580 4 n).map (BitVec.ofNat 32)) }, l')
    | _ => (s, l)
  else (s, l)

/-- What the start of a launch reads: the descriptor of its context, the member table of its job, its header, the map of a
co-scheduled launch, and the bitmap of a gang (R221, R223, R405). Where they lie in the host's memory the device asks for them
(R217; assumption 53). -/
def State.asksLaunch (s : State) (l : Launch) : State :=
  let s := s.asksPas ((List.range 128).map (fun i => s.mgmt.ctxtab.toNat + 128 * l.ctx + i) ++
    (List.range 256).map (fun i => s.mgmt.jobtab.toNat + 256 * l.job + i))
  let s := s.asksCtx l.ctx l.hdr 64
  let s := if l.cosched then s.asksCtx l.ctx l.pmap (2 * l.grid) else s
  if l.isGang then s.asksCtx l.ctx l.gangMap 128 else s

/-- A launch becomes eligible (R61) and is checked (R404). -/
def execLaunchEligible (r : LaunchRef) (s : State) : Host.Outcome State Fault Refusal :=
  match s.launch? r with
  | none => .next s
  | some l =>
    if l.eligible || !((List.range 4).all (fun i => s.depOk (l.field (0x28 + 4 * i) 4)) && s.predAllows l) then .next s
    else
      let (s, l) := s.startLog l
      let s := s.asksLaunch l
      match s.checkLaunch l with
      | .error e =>
        let t := s.launchFault l e
        .next (if l.isGang then (t.modLaunch r (fun x => { x with gang := .aborted })).gangRefused l else t)
      | .ok (h, m) =>
        let ms := if l.isGang then (s.gangMembers l).getD [] else []
        let t := s.modLaunch r (fun x =>
          { x with eligible := true, header := some h, map := m, members := ms, waitSince := s.time })
        -- a refusal or an abort that came before the launch was eligible here, or a member that is down (R412, R445)
        if l.isGang && (s.gangAborts.contains l.gangId || (s.job l.job).down.isSome) then
          let u := if ms.headD 0 = s.rank then t.toMembers l (.abort l.gangId false) else t
          .next (u.abortGang { l with members := ms })
        else .next t

/-! ### Room (R67) -/

/-- Groups and scratchpad bytes in use on a core, gang reservations among them. -/
def State.roomUsed (s : State) (c : CoreId) : Nat × Nat :=
  let bs := s.blocks.filter (fun b => b.die == c.die && b.core == c.core)
  let rs := s.launches.filter (fun l => l.gang == .reserved || l.gang == .withdrawing ||
    (l.gang == .committed && l.dispatched == 0 && !l.stopped))
  let own := bs.foldl (fun (x : Nat × Nat) b => (x.1 + b.holders.length, x.2 + b.spad)) (0, 0)
  rs.foldl (fun (x : Nat × Nat) l =>
    let y := mapLoad l.map l.gpb l.spad (c.die, c.core)
    (x.1 + y.1, x.2 + y.2)) own

/-- A core has room for groups and bytes. -/
def State.hasRoom (s : State) (c : CoreId) (groups spad : Nat) : Bool :=
  let u := s.roomUsed c
  decide (u.1 + groups ≤ 32) && decide (u.2 + spad ≤ 3145728)

/-- Every core of a map has room at once. -/
def State.mapFits (s : State) (l : Launch) : Bool :=
  l.map.eraseDups.all (fun c =>
    let y := mapLoad l.map l.gpb l.spad c
    s.hasRoom ⟨c.1, c.2⟩ y.1 y.2)

/-- Blocks of a context are dispatched: it is neither held nor halted (R225, R383). -/
def State.ctxRuns (s : State) (ctx : Nat) : Bool := !(s.ctx ctx).hold && !(s.ctx ctx).halted

/-! ### Dispatch -/

/-- The block that a launch starts on a core (R32). Its groups take the lowest free resident slots in their order (R75), and
a VOLF above 128 counts as 128 (R96; assumption 68). DESIGN CHOICE: a COMMG or HANDG that the header marks valid and that is not
below GROUPS is taken as it is, so that no group of the block is the communication or the handler group (assumption 75). -/
def State.newBlock (s : State) (l : Launch) (n : Nat) (c : CoreId) : Block :=
  let h := l.head
  let slots := s.freeSlots c
  { Block.nil with
    ref := ⟨l.ref, n⟩
    ctx := l.ctx
    job := l.job
    tenant := l.tenant
    die := c.die
    core := c.core
    named := ((l.again.find? (fun x => x.block == n)).map (fun x => x.core)).getD c.core
    entry := l.entry
    spad := l.spad
    volf := min 128 h.volf
    commg := if h.hflags / 4 % 2 = 1 then some h.commg else none
    handg := if h.hflags / 8 % 2 = 1 then some h.handg else none
    cosched := l.cosched
    steady := l.steady
    restartable := l.restartable
    groups := (List.range l.gpb).map (fun i =>
      Group.start i (slots.getD i 0) l.entry h.gmr0 l.addr (s.free + 4 * i))
    order := s.dispatchCount }

/-- Dispatches block `n` of a launch to a core: an acquire at DEV scope precedes its first instruction (R186). -/
def State.dispatchTo (s : State) (r : LaunchRef) (n : Nat) (c : CoreId) (again : Bool) : State :=
  match s.launch? r with
  | none => s
  | some l =>
    let b := s.newBlock l n c
    let t := (s.flushAll c).modLaunch r (fun x =>
      { x with dispatched := if again then x.dispatched else x.dispatched + 1
               cores := if x.cores.contains c then x.cores else x.cores ++ [c] })
    -- where it is the core's one steady block, the engine's turns start anew with it (note (b) of R19)
    let fresh := b.steady && !s.blocks.any (fun x => x.steady && x.die == c.die && x.core == c.core)
    { t with
      free := t.free + 4 * l.gpb
      dispatchCount := t.dispatchCount + 1
      turns := if fresh && decide (32 < Tbl.get 0 t.turns (coreKey c)) then Tbl.set 0 t.turns (coreKey c) 0 else t.turns
    }.addBlock b

/-! ### Blocks that run again (R44, note (d) of R19) -/

/-- POINT of a block's second start on a core: the last issue of a group of its launch there, or none yet (assumption 59). -/
def State.rerunPoint (s : State) (l : LaunchRef) (n : Nat) (c : CoreId) : Nat :=
  (s.blocks.foldl (fun (r : Nat × Nat) b =>
    if b.ref.launch = l ∧ b.die = c.die ∧ b.core = c.core then
      b.groups.foldl (fun (r : Nat × Nat) g =>
        if g.issues ≠ 0 ∧ r.1 ≤ g.lastIssue then (g.lastIssue, pointOf b.ref.block g.num g.issues) else r) r
    else r) (0, pointOf n 0 0)).2

/-- The next second start of block `n` that a replayed log holds: its place, POINT and core. -/
def State.nextRerun (s : State) (x : Launch) (n : Nat) : Option (Nat × Nat × CoreId) :=
  if x.mode ≠ 2 then none
  else
    match s.findLog x (fun t _ payload => t == 6 && payload.length == 8 && leNat (payload.take 4) == n) with
    | .entry off _ p payload => some (off, p, ⟨leNat (payload.drop 4) / 256, leNat (payload.drop 4) % 256⟩)
    | _ => none

/-- A replayed launch has come to a POINT: the group has made the issue, or its block has run to its end. -/
def State.reached (s : State) (x : Launch) (p : Nat) : Bool :=
  let k := p % 2 ^ 24
  decide (p / 2 ^ 32 = 0) ||
    match (s.blocks ++ s.saved.map (fun y => y.blk)).find? (fun b => b.ref == ⟨x.ref, k⟩) with
    | some b => b.groups.any (fun g => g.num % 16 == p / 2 ^ 28 % 16 && decide (p / 2 ^ 32 ≤ g.issues % 2 ^ 32))
    | none => decide (k < x.next) && !x.waiting.any (fun w => w.1 == k) && !x.again.any (fun y => y.block == k)

/-- Starts a discarded block again: record logs the point and the core, replay takes the entry. -/
def State.startAgain (s : State) (l : Launch) (n : Nat) (c : CoreId) : State :=
  let t :=
    match s.nextRerun l n with
    | some (off, _, _) => s.takeLog l off
    | none => s.logEntry l.ref 6 (s.rerunPoint l.ref n c) (leBytes n 4 ++ leBytes (coreKey c) 4)
  (t.dispatchTo l.ref n c true).modLaunch l.ref (fun x => { x with again := x.again.filter (fun y => y.block != n) })

/-- A discarded block of a replayed launch whose second start its log names at this point, with its core. -/
def State.dueRerun (s : State) : Option (Launch × Nat × CoreId) :=
  s.launches.findSome? (fun x =>
    if x.mode ≠ 2 ∨ x.again.isEmpty ∨ !s.ctxRuns x.ctx then none
    else x.again.findSome? (fun y =>
      match s.nextRerun x y.block with
      | some (_, p, c) => if s.reached x p && s.coreOk c.die c.core && s.hasRoom c x.gpb x.spad then some (x, y.block, c) else none
      | none => none))

/-- The map entry of block `n` names a core that has become unusable (R405, R408). -/
def State.deadEntry (s : State) (l : Launch) (n : Nat) : State :=
  let t := s.launchFault l ⟨0x60, 4, n, none⟩
  if l.isGang ∧ l.gang = .idle then (t.modLaunch l.ref (fun x => { x with gang := .aborted })).gangRefused l else t

/-- Dispatches the whole map of a co-scheduled launch in one step (R67, note (n) of R19). -/
def State.dispatchAll (s : State) (l : Launch) : State :=
  (l.map.mapIdx (fun i c => (i, c))).foldl (fun t x => t.dispatchTo l.ref x.1 ⟨x.2.1, x.2.2⟩ false)
    (s.modLaunch l.ref (fun x => { x with next := x.grid }))

/-- The first block of a co-scheduled map that names an unusable core. -/
def State.deadIn (s : State) (l : Launch) : Option Nat := l.map.findIdx? (fun c => !s.coreOk c.1 c.2)

/-- Dispatches the whole map, unless a core in it has become unusable (R405, R408). -/
def State.dispatchWhole (s : State) (l : Launch) : State :=
  match s.deadIn l with
  | some n => s.deadEntry l n
  | none => s.dispatchAll l

/-- A member dispatches its reserved blocks when the commit arrives (R73); those of a context that is held keep their
reservation until its hold is released (R225). -/
def State.commitGang (s : State) (l : Launch) : State :=
  let t := s.modLaunch l.ref (fun x => { x with gang := .committed })
  if s.ctxRuns l.ctx then t.dispatchWhole { l with gang := .committed } else t

/-- The leader commits once it holds every acknowledgement, its own included (R73). -/
def State.leaderCommit (s : State) (l : Launch) : State :=
  if l.leader = s.rank ∧ l.members.all (fun r => (s.acks l.gangId).contains r) then
    (s.toMembers l (.commit l.gangId)).commitGang l
  else s

/-- A member has reserved its room: its acknowledgement goes to the leader. -/
def State.reserveGang (s : State) (l : Launch) : State :=
  let t := s.modLaunch l.ref (fun x => { x with gang := .reserved })
  if l.leader = s.rank then
    (t.setAcks l.gangId ((t.acks l.gangId).filter (· != s.rank) ++ [s.rank])).leaderCommit { l with gang := .reserved }
  else t.toMember l l.leader (.reserveAck l.gangId s.rank)

/-- A steady block comes to a core between two rounds of it (R84; assumption 64). -/
def State.joins (s : State) (steady : Bool) (c : CoreId) : Bool := !steady || s.roundOver c

/-- A block that waits for a core has its turn: the core has room, or has become unusable since its map entry was read,
which fails the entry (R408, R461). -/
def State.turnOf (s : State) (l : Launch) (c : CoreId) : Bool :=
  (s.hasRoom c l.gpb l.spad && s.joins l.steady c) || !s.coreOk c.die c.core

/-- Reads map entries of a launch until a block that it has read fits its core, the map ends or an entry fails: an
entry is read no sooner than every fitting block before it has been dispatched (R67, R404, the example of R405). A steady
launch reads on only when the block before it has been dispatched (R84). -/
def State.scan (s : State) (r : LaunchRef) : Nat → State
  | 0 => s
  | k + 1 =>
    match s.launch? r with
    | none => s
    | some l =>
      let ready := l.waiting.any (fun w => s.turnOf l ⟨w.2.1, w.2.2⟩)
      if ready || l.stopped || decide (l.grid ≤ l.next) || (l.steady && !l.waiting.isEmpty) then s
      else
        let s := s.asksCtx l.ctx (l.pmap + BitVec.ofNat 64 (2 * l.next)) 2
        match s.mapEntry l l.next with
        | .error e => (s.modLaunch r (fun x => { x with waiting := [] })).launchFault l e
        | .ok c =>
          (s.modLaunch r (fun x => { x with next := x.next + 1, waiting := x.waiting ++ [(x.next, c.1, c.2)] })).scan r k

/-- Some map entry of a launch from block `b` on, of the next `n` and before the first that fails, names a core. -/
def State.mapsTo (s : State) (l : Launch) (c : CoreId) : Nat → Nat → Bool
  | 0, _ => false
  | n + 1, b =>
    match s.mapEntry l b with
    | .error _ => false
    | .ok x => x == (c.die, c.core) || s.mapsTo l c n (b + 1)

/-- The core for which the next block of a launch is meant. -/
def State.nextCore (s : State) (l : Launch) : Option CoreId :=
  match l.waiting with
  | w :: _ => some ⟨w.2.1, w.2.2⟩
  | [] => if l.next < l.grid then (s.mapEntry l l.next).toOption.map (fun x => ⟨x.1, x.2⟩) else none

/-- Every steady block of a core is of one launch. -/
def State.coreOf (s : State) (l : LaunchRef) (c : CoreId) : Bool :=
  s.blocks.all (fun b => !b.steady || b.die != c.die || b.core != c.core || b.ref.launch == l)

/-- The rounds of a core wait for a block: a steady launch that is not co-scheduled has one still to come for it, and there is
room, or a steady block has only to retire here. Where the launch's next block is for another core without room, its blocks
there go on meanwhile, and these wait where both cores serve that launch alone (R84; assumption 64). -/
def State.awaitsBlock (s : State) (c : CoreId) : Bool :=
  let ends := s.blocks.any (fun b => b.steady && b.die == c.die && b.core == c.core && !b.stuck &&
    b.groups.all (fun g => g.retired || (g.exited && g.mats.isEmpty)))
  s.launches.any (fun l =>
    l.steady && !l.cosched && !l.stopped && s.ctxRuns l.ctx &&
      (l.eligible || ((List.range 4).all (fun i => s.depOk (l.field (0x28 + 4 * i) 4)) && s.predAllows l)) &&
      (l.waiting.any (fun w => w.2 == (c.die, c.core)) || s.mapsTo l c (l.grid - l.next) l.next) &&
      (ends || (s.hasRoom c l.gpb l.spad && (s.nextCore l).any (fun x =>
        s.hasRoom x l.gpb l.spad || (s.coreOf l.ref x && s.coreOf l.ref c)))))

/-- The round of a core has ended, and the next waits for a block. A halt ends the wait (R71). -/
def State.holdsRound (s : State) (c : CoreId) : Bool :=
  s.roundOver c && s.awaitsBlock c &&
    !s.blocks.any (fun b => b.steady && b.die == c.die && b.core == c.core && b.halting.isSome && !b.halted)

/-- What a dispatcher may do for a queue next. -/
inductive Pick where
  | resume (x : Saved)
  | whole (l : Launch)
  | again (l : Launch) (n : Nat) (c : CoreId)
  | fresh (l : Launch) (n : Nat) (c : CoreId)
  deriving DecidableEq, Repr

/-- A saved block of a queue and die that can be resumed. -/
def State.pickSaved (s : State) (die q : Nat) : Option Pick :=
  let xs := s.saved.filter (fun x => x.blk.ref.launch.queue == q && x.blk.die == die && !x.blk.held &&
    s.ctxRuns x.blk.ctx && s.coreOk x.blk.die x.blk.core &&
    s.hasRoom ⟨x.blk.die, x.blk.core⟩ x.blk.holders.length x.blk.spad &&
    s.joins x.blk.steady ⟨x.blk.die, x.blk.core⟩)
  (bestBy (fun x => (x.blk.ref.launch.seq, x.blk.ref.block, 0)) xs).map .resume

/-- The cores of a die that can take a block that runs again (R44). -/
def State.coresFor (s : State) (l : Launch) (die : Nat) : List CoreId :=
  ((List.range 160).map (fun c => (⟨die, c⟩ : CoreId))).filter (fun c => s.coreOk c.die c.core && s.hasRoom c l.gpb l.spad &&
    s.joins l.steady c)

/-- What a launch offers the dispatcher of a die. DESIGN CHOICE: a gang launch without blocks, whose map names no die, is served by
the dispatcher of die 0: it reserves nothing and acknowledges (R67, R73; assumption 55). -/
def State.pickLaunch (s : State) (die : Nat) (l : Launch) : Option Pick :=
  if !l.eligible || !s.ctxRuns l.ctx then none
  else
    match l.again.find? (fun x => x.die == die) with
    | some x =>
      let cs := s.coresFor l die
      -- which of the cores with room is the device's own choice (assumption 23), and in replay the log's
      if cs.isEmpty || (s.nextRerun l x.block).isSome then none else some (.again l x.block (cs.getD (Config.freeNat s.free % cs.length) ⟨die, x.core⟩))
    | none =>
      if l.stopped then none
      else if l.cosched then
        let mine := match l.map with
          | [] => l.isGang && l.gang == .idle && die == 0
          | c :: _ => c.1 == die
        if mine && l.dispatched == 0 &&
            (l.gang == .committed || (l.gang == .idle && (s.mapFits l || (s.deadIn l).isSome))) then
          some (.whole l)
        else none
      else
        let ws := if l.steady then l.waiting.take 1 else l.waiting
        (ws.find? (fun w => w.2.1 == die && s.turnOf l ⟨w.2.1, w.2.2⟩)).map (fun w =>
          .fresh l w.1 ⟨w.2.1, w.2.2⟩)

/-- What a queue offers the dispatcher of a die: saved blocks first, then its launches in sequence order (R68, R70). -/
def State.pickQueue (s : State) (die q : Nat) : Option Pick :=
  match s.pickSaved die q with
  | some p => some p
  | none => (s.launchesOf q).findSome? (s.pickLaunch die)

/-- Performs a pick. -/
def State.doPick (s : State) : Pick → State
  | .resume x => s.resumeBlk x
  | .whole l => if l.isGang && l.gang == .idle && (s.deadIn l).isNone then s.reserveGang l else s.dispatchWhole l
  | .again l n c => { s with free := s.free + 1 }.startAgain l n c
  | .fresh l n c =>
    if !s.coreOk c.die c.core then s.deadEntry l n
    else (s.modLaunch l.ref (fun x => { x with waiting := x.waiting.filter (fun y => y.1 != n) })).dispatchTo l.ref n c false

/-- Where a dispatcher keeps the queue it served last. -/
def dispKey (die : Nat) : Nat := 4096 + die

/-- One turn of a die's dispatcher (R68): the highest priority level with a dispatchable block, and in it the queues
round-robin after the one served last, from queue 0 on before any was served (assumption 68). -/
def execBlockDispatch (die : Nat) (s : State) : Host.Outcome State Fault Refusal :=
  let t := (s.launches.filter (fun l => l.eligible && !l.cosched && s.ctxRuns l.ctx)).foldl (fun t l =>
    t.scan l.ref (l.grid - l.next + 1)) s
  let last := Tbl.get 0 t.turns (dispKey die)
  let offers := (List.range 64).filterMap (fun q => (t.pickQueue die q).map (fun p => (q, p)))
  match bestBy (fun x => (3 - (t.queue x.1).prio, if last ≤ x.1 then 0 else 1, x.1)) offers with
  | none => .next t
  | some (q, p) =>
    let u := t.doPick p
    .next { u with turns := Tbl.set 0 u.turns (dispKey die) (q + 1) }

/-! ### Priority pre-emption (R69) -/

/-- The blocks that a level may pre-empt on a core, in the order they are taken: lowest level, then most recently
dispatched. Blocks already on their way out come first. -/
def State.victims (s : State) (c : CoreId) (level : Nat) : List Block :=
  sortBy (fun x y => keyLt
      (if x.halting.isSome then 0 else 1, (s.queue x.ref.launch.queue).prio, s.dispatchCount - x.order)
      (if y.halting.isSome then 0 else 1, (s.queue y.ref.launch.queue).prio, s.dispatchCount - y.order))
    (s.blocks.filter (fun b => b.die == c.die && b.core == c.core && !b.stuck &&
      (b.halting.isSome ||
        (decide ((s.queue b.ref.launch.queue).prio < level) && (s.queue b.ref.launch.queue).preempt))))

/-- The victims taken until groups and bytes fit; none when no set of them makes room. -/
def takeVictims (groups spad : Nat) : Nat × Nat → List Block → Option (List Block)
  | u, bs =>
    if u.1 + groups ≤ 32 ∧ u.2 + spad ≤ 3145728 then some []
    else
      match bs with
      | [] => none
      | b :: bs =>
        (takeVictims groups spad (u.1 - b.holders.length, u.2 - b.spad) bs).map (b :: ·)

/-- Asks the victims to halt. -/
def State.preempt (s : State) (vs : List Block) : State :=
  { s with blocks := s.blocks.map (fun (b : Block) =>
      if vs.any (fun v => v.ref == b.ref) && b.halting.isNone then s.askHalt .priority b
      else b) }

/-- A waiting block: since when it waits, and what it needs on which cores. A saved block waits since then, on the core it left,
a discarded one since then on the core that its map names; any other since its launch became eligible (assumption 60). -/
def State.waits (s : State) (r : BlockRef) : Option (Nat × List (CoreId × Nat × Nat)) :=
  match s.launch? r.launch with
  | none => none
  | some l =>
    if !s.ctxRuns l.ctx then none
    else
      match s.saved.find? (fun x => x.blk.ref == r && !x.blk.held) with
      | some x => some (x.since, [(⟨x.blk.die, x.blk.core⟩, x.blk.holders.length, x.blk.spad)])
      | none =>
        match l.again.find? (fun x => x.block == r.block) with
        | some x => some (x.since, [(⟨x.die, x.core⟩, l.gpb, l.spad)])
        | none =>
        if !l.eligible || l.stopped then none
        else if l.cosched then
          if l.dispatched = 0 ∧ l.gang = .idle then
            some (l.waitSince, l.map.eraseDups.map (fun c => (⟨c.1, c.2⟩, mapLoad l.map l.gpb l.spad c)))
          else none
        else (l.waiting.find? (fun w => w.1 == r.block)).map (fun w => (l.waitSince, [(⟨w.2.1, w.2.2⟩, l.gpb, l.spad)]))

/-- A block that has waited longer than its queue's WAITIV pre-empts lower levels, on every core that it needs, or
nothing at all (R69, note (k) of R19). -/
def execPreemptionTrigger (b : BlockRef) (s : State) : Host.Outcome State Fault Refusal :=
  let q := s.queue b.launch.queue
  match s.waits b with
  | none => .next s
  | some (since, needs) =>
    if q.waitIv = 0 ∨ s.time - since ≤ 1000 * q.waitIv then .next s
    else
      let vss := needs.map (fun n => takeVictims n.2.1 n.2.2 (s.roomUsed n.1) (s.victims n.1 q.prio))
      if vss.any (fun v => v.isNone) then .next s else .next (s.preempt (vss.flatMap (fun v => v.getD [])))

/-! ### Retirement and completion -/

/-- Every operation of the group has completed (R28). -/
def Group.allDone (g : Group) : Bool :=
  g.exited && g.memops.isEmpty && g.landings.isEmpty && g.copies.isEmpty && g.mats.isEmpty && g.matIssues.isEmpty &&
    g.fabs.isEmpty && g.fences.isEmpty && g.asyncs.isEmpty

/-- The rings of a block's rounds that were closed by their timeout: chunks of those rounds may still come (R447). -/
def Block.lateRings (b : Block) : List Ring :=
  (b.colls.filter (fun r => r.timedOut)).map (fun r => ⟨b.ctx, b.job, r.desc⟩)

/-- The present block retires (R33): a write buffer is committed as one unit and a release at DEV scope follows; an
error in the buffer discards the block instead (R43, R411). -/
def State.retireBlk (s : State) : State :=
  let gone (t : State) : State :=
    { t with
        blocks := t.blocks.eraseIdx t.cur.blk
        rings := s.blk.lateRings.foldl (fun l x => if l.contains x then l else l ++ [x]) t.rings }.modLaunch
      s.blk.ref.launch (fun x => { x with retired := x.retired + 1 })
  if s.blk.buffers then
    match s.badBuf with
    | some w => (s.bufferEcc w).servePreq
    | none => (gone (s.commitBuf.writeBackAll s.core)).servePreq
  else (gone s).servePreq

/-- A round has chunks to send, or to pass on to NEXT (R212). -/
def CollRound.toSend (r : CollRound) : Bool :=
  !r.failed && (decide (r.redOut < r.redIn ∧ r.pos + 1 ≠ r.nmem) || decide (r.gatOut < r.gatIn ∧ r.pos + 2 ≠ r.nmem))

/-- The seated group is the communication group of a block whose rounds still have chunks to pass on, no member being down:
they leave in its name (R35, R212). -/
def State.passesOn (s : State) : Bool :=
  !s.replaying && s.blk.commg == some s.cur.grp && (s.job s.blk.job).down.isNone && s.blk.colls.any CollRound.toSend

/-- A group retires once its quads have exited, everything it issued has completed, and what it passes on for the block's
rounds has left (R28, R212). -/
def execGroupRetire (g : GroupRef) (s : State) : Host.Outcome State Fault Refusal :=
  s.atGroup g (fun t =>
    if t.grp.retired || !t.grp.allDone || t.blk.halted || t.passesOn then t
    else
      let u := t.modGrp (fun g => { g with retired := true, active := none, pins := [] })
      if u.blk.groups.all (fun g => g.retired) then u.retireBlk else u)

/-- A gang launch has been neither committed nor ended. -/
def Launch.uncommitted (l : Launch) : Bool :=
  l.isGang && !l.stopped && (l.gang == .idle || l.gang == .reserved || l.gang == .withdrawing)

/-- A launch has nothing left to run. A gang launch without blocks waits for its commit too (R73). -/
def State.launchDone (s : State) (l : Launch) : Bool :=
  l.eligible && l.again.isEmpty && (l.stopped || decide (l.grid ≤ l.dispatched)) && !l.uncommitted &&
    !s.blocks.any (fun b => b.ref.launch == l.ref) && !s.saved.any (fun x => x.blk.ref.launch == l.ref)

/-- A completion write; one that fails leaves a record with SCOPE 3 (R407). -/
def State.completionWrite (s : State) (l : Launch) (va : Dword) (bs : List Byte) : State :=
  match s.ctxWrite l.ctx va bs with
  | .ok t => t
  | .error e => s.faultRecord l.ctx
      { code := e.code, scope := 3, launch := launchId l.ref, addr := e.addr, phys := e.phys, hi := e.hi,
        info0 := e.info0, info1 := e.info1 }

/-- DONESEQ past every launch that has completed with all before it. -/
def advanceDone : Nat → Word → List Nat → Word × List Nat
  | 0, d, xs => (d, xs)
  | k + 1, d, xs => if xs.contains d.toNat then advanceDone k (d + 1) (xs.filter (· != d.toNat)) else (d, xs)

/-- What stays of a gang whose launch here has ended: whether it had been committed, and the packets of it that may still come,
at the leader from the members that had not answered, and at a member that refused the leader's abort (R74, R412; assumption
55). -/
def State.endedGang (s : State) (l : Launch) : EndedGang :=
  let committed := l.gang == .committed || l.gang == .broken || l.dispatched != 0
  let silent := l.members.filter (fun r => r != s.rank && !(s.acks l.gangId).contains r)
  let leads := l.leader == s.rank
  { id := l.gangId
    committed := committed
    cls := s.launchClass l
    owed := if leads && !committed then silent.map (fun r => (r, (s.peer r).ctl + (s.heldq.filter (fun h => h.dst == r)).length))
      else []
    abortOwed := !leads && !committed && l.status.getD 0 != 0x62 }

/-- The entry of a gang that has ended here. -/
def State.ended? (s : State) (id : Nat) : Option EndedGang := s.gangEnded.find? (fun e => e.id == id)

/-- A member's word about a gang without a live launch here: that of one that has ended, which is late, or the first of a new
gang with its identifier. `f` notes the latter. -/
def State.gangWord (s : State) (id rank : Nat) (f : State → State) : State :=
  if s.gangEnded.any (fun e => e.id == id && e.owed.any (fun m => m.1 == rank)) then
    { s with gangEnded := s.gangEnded.map (fun (e : EndedGang) =>
        if e.id = id then { e with owed := e.owed.filter (fun m => m.1 != rank) } else e) }
  else f { s with gangEnded := s.gangEnded.filter (fun e => e.id != id) }

/-- A launch completes (R62, R186, R220): its record, the release, DONESEQ with its word, and the vector. -/
def execLaunchCompletion (r : LaunchRef) (s : State) : Host.Outcome State Fault Refusal :=
  match s.launch? r with
  | none => .next s
  | some l =>
    if !s.launchDone l then .next s
    else
      let q := s.queue r.queue
      let rec_ := leBytes r.seq 4 ++ leBytes (l.status.getD 0) 2 ++ leBytes 0 2 ++ leBytes s.time 8
      let t := s.completionWrite l (q.cring + BitVec.ofNat 64 (16 * (r.seq % 2 ^ q.crSize))) rec_
      -- cores that have written one word reach its home one after another (R318)
      let t := l.cores.foldl (fun t c => (t.writeBackAll c).poll) t
      let d := advanceDone (q.done.length + 1) q.doneSeq (q.done ++ [r.seq])
      let t := t.setQueue r.queue { q with doneSeq := d.1, done := d.2 }
      let t := t.completionWrite l q.cword (leBytes d.1.toNat 8)
      let t := if q.msi.getLsbD 31 then t.msi (q.msi.toNat % 2 ^ 11) else t
      let t := { t with launches := t.launches.filter (fun x => x.ref != r) }
      if l.isGang then
        -- a member whose launch fails after the commit breaks the gang (R413)
        let t := if l.gang = .committed ∧ l.status.getD 0 ≠ 0 then t.toMembers l (.abort l.gangId true) else t
        .next { t.setAcks l.gangId [] with
          gangAborts := t.gangAborts.filter (· != l.gangId)
          gangEnded := t.gangEnded.filter (fun (e : EndedGang) => e.id != l.gangId) ++ [s.endedGang l] }.tryHostLaunch
      else .next t.tryHostLaunch

/-! ### Control packets of the gang protocol -/

/-- The leader takes a member's acknowledgement (R73). One that comes before the leader's own launch is kept for it; that of a
gang which has ended here is late (assumption 55). -/
def execGangReserveAck (gang rank : Nat) (s : State) : Host.Outcome State Fault Refusal :=
  s.onControl fun s =>
    let note (s : State) : State := s.setAcks gang ((s.acks gang).filter (· != rank) ++ [rank])
    match s.gangOf gang with
    | none => s.gangWord gang rank note
    | some l => if l.gang = .reserved then (note s).leaderCommit l else note s

/-- A member receives the commit (R73). -/
def execGangCommit (gang : Nat) (s : State) : Host.Outcome State Fault Refusal :=
  s.onControl fun s =>
    match s.gangOf gang with
    | none => s
    | some l => if l.gang = .reserved ∨ l.gang = .withdrawing then s.commitGang l else s

/-- A reserved gang gives way to a waiting gang with a smaller identifier that cannot fit beside it (R74). -/
def execGangWithdraw (r : LaunchRef) (s : State) : Host.Outcome State Fault Refusal :=
  match s.launch? r with
  | none => .next s
  | some l =>
    if l.gang ≠ .reserved ∨ !s.launches.any (fun m =>
        m.isGang && m.eligible && !m.stopped && m.gang == .idle && decide (m.gangId < l.gangId) && !s.mapFits m) then .next s
    else if l.leader = s.rank then
      -- the leader has not committed: it releases its own reservation
      .next ((s.setAcks l.gangId ((s.acks l.gangId).filter (· != s.rank))).modLaunch r (fun x => { x with gang := .idle }))
    else
      .next ((s.modLaunch r (fun x => { x with gang := .withdrawing })).toMember l l.leader (.withdraw l.gangId s.rank))

/-- What a withdraw request names as its sender: the rank in bits 9 to 0, and above them the tenant class in which the packet
came (R72; assumption 55). -/
def senderRank (x : Nat) : Nat := x % 1024
def senderClass (x : Nat) : Nat := x / 1024 % 16

/-- The leader answers with the commit it has sent, its own launch live, broken or ended, or with a release (R74), in the class of
the launch (R72), which is that of the request where the launch has not come here yet. -/
def execGangWithdrawRequest (gang sender : Nat) (s : State) : Host.Outcome State Fault Refusal :=
  s.onControl fun s =>
    let rank := senderRank sender
    let t := s.setAcks gang ((s.acks gang).filter (· != rank))
    match s.gangOf gang with
    | some l => if l.gang = .committed ∨ l.gang = .broken then s.toMember l rank (.commit gang) else t.toMember l rank (.release gang)
    | none =>
      match s.ended? gang with
      | some e => if e.committed then s.gangControl e.cls rank (.commit gang) else t.gangControl e.cls rank (.release gang)
      | none => t.gangControl (senderClass sender) rank (.release gang)

/-- A member gives its reservation up, and reserves again in a later turn (R74). -/
def execGangRelease (gang : Nat) (s : State) : Host.Outcome State Fault Refusal :=
  s.onControl fun s =>
    match s.gangOf gang with
    | none => s
    | some l => if l.gang = .withdrawing then s.modLaunch l.ref (fun x => { x with gang := .idle }) else s

/-- The leader learns that a member's launch has been refused: it sends an abort to every member, once (R412). One that comes
before the leader's own launch is noted for it; one of a gang that has ended here is late (assumption 55). -/
def execGangRefusal (gang rank : Nat) (s : State) : Host.Outcome State Fault Refusal :=
  s.onControl fun s =>
    match s.gangOf gang with
    | none => s.gangWord gang rank (fun s => { s with gangAborts := addOnce s.gangAborts gang })
    | some l =>
      -- the member has answered
      let s := s.setAcks gang ((s.acks gang).filter (· != rank) ++ [rank])
      if l.gang = .aborted ∨ l.gang = .broken then s
      else if l.eligible then (s.toMembers l (.abort gang false)).gangBroken l
      else { s with gangAborts := addOnce s.gangAborts gang }

/-- What an abort names: the GANGID in bits 15 to 0, and above them 1 where a member has failed after the commit (R413;
assumption 55). -/
def abortId (x : Nat) : Nat := x % 65536
def abortLate (x : Nat) : Bool := decide (65536 ≤ x)

/-- A member receives an abort: the leader's before the commit (R412), or that of a member which has failed after it (R413). One of
the leader's that comes before the member's own launch is noted for it; that of a gang which has ended here with a refusal of its
own is late, and so is any after the commit (assumption 55). -/
def execGangAbort (word : Nat) (s : State) : Host.Outcome State Fault Refusal :=
  s.onControl fun s =>
    let gang := abortId word
    let committed := abortLate word
    match s.gangOf gang with
    | none =>
      if committed then s
      else if s.gangEnded.any (fun e => e.id == gang && e.abortOwed) then
        { s with gangEnded := s.gangEnded.map (fun (e : EndedGang) => if e.id = gang then { e with abortOwed := false } else e) }
      else { s with gangAborts := addOnce s.gangAborts gang }
    | some l => if l.eligible then s.gangBroken l else if committed then s else { s with gangAborts := addOnce s.gangAborts gang }

end Sys2Proof.Machine
end

