-- ==== Sys2Proof/Machine/Collective.lean ====
section
/-! DEFINITION. `COLL` and the ring it runs (spec 08 R210 to R216; 16 R348; 22 R447, R448; 20 R457). -/

namespace Sys2Proof.Machine

/-! ### Elements -/

/-- Words of an element in the reduce pass (R211). -/
def CollOp.regs : CollOp → Nat
  | .stat | .statNorm _ => 3
  | _ => 1

/-- Bytes of a drained element (R214). -/
def CollOp.bytes : CollOp → Nat
  | .sum true | .max true => 2
  | .sum false | .max false => 4
  | .stat => 12
  | .statNorm _ => 16

/-- A triple held in three words. -/
def tripleOf (ws : List Word) : Triple := ⟨ws.getD 0 0, ws.getD 1 0, ws.getD 2 0⟩

def Triple.words (t : Triple) : List Word := [t.w, t.mu, t.m2]

/-- The larger of two FP32 values, the canonical NaN when either is a NaN, and +0 above −0 (R212). -/
def collMax (a b : Word) : Word × BitVec 7 :=
  let x := f32v a
  let y := f32v b
  if x.isNan || y.isNan then (0x7FC00000, ({ nv := x.isSig || y.isSig } : Flags).engine)
  else
    match fCompare x y with
    | some .lt => (b, 0)
    | some .gt => (a, 0)
    | _ => (if x.neg then b else a, 0)

/-- One step of the reduce pass on an element (R212). -/
def CollOp.step (op : CollOp) (acc x : List Word) : List Word × BitVec 7 :=
  match op with
  | .sum _ =>
    let (y, f) := sAdd (acc.getD 0 0) (x.getD 0 0)
    ([y], f.engine)
  | .max _ =>
    let (y, f) := collMax (acc.getD 0 0) (x.getD 0 0)
    ([y], f)
  | .stat | .statNorm _ =>
    let (t, f) := (tripleOf acc).merge (tripleOf x)
    (t.words, f.engine)

/-- The element that no member contributed to (R212). -/
def CollOp.absent : CollOp → List Word
  | .sum _ => [0]
  | .max _ => [0xFF800000]
  | .stat | .statNorm _ => Triple.empty.words

/-- A word of a drained element as an engine result of a format: its value, with the NaN row of R416. -/
def drainWord (ovt : Word) (f : FFmt) (w : Word) : Word × BitVec 7 :=
  let (y, g) := rndOvt ovt f (f32v w)
  (BitVec.ofNat 32 y, g)

/-- A result that a drain computes, under the overflow table (R137, R416): its word and its flags. -/
def drainOp (ovt : Word) (y : Exact) : Word × BitVec 7 :=
  let (b, g) := rndOvt ovt .f32 y.1
  (BitVec.ofNat 32 b, y.2.engine ||| g)

/-- The normalisation of a triple at a drain (R135, R214): mean, var and invstd, the two that are computed being results of an
engine, under the overflow table (R137, R416). DESIGN CHOICE: W − 1 and var + ε, which nothing writes, are rounded with RNE
alone, and the sum takes var as it is written (assumption 79). -/
def Triple.drainNormal (t : Triple) (ovt eps : Word) (sample : Bool) : List Word × BitVec 7 :=
  if t.isEmpty then ([emptyResult, emptyResult, emptyResult], 0)
  else
    let (n, f) := if sample then sSub t.w 0x3F800000 else (t.w, {})
    let (mean, g1) := if (f32v t.mu).isNan then drainWord ovt .f32 t.mu else (t.mu, 0)
    let (var, g2) := drainOp ovt (fDiv (f32v t.m2) (f32v n))
    let (x, f') := sAdd var eps
    let (inv, g3) := drainOp ovt (fRsq (f32v x))
    ([mean, var, inv], (f.or f').engine ||| g1 ||| g2 ||| g3)

/-- The drain of an element (R214, R416, R111): its words, its low bytes being what is written, and the flags. -/
def CollOp.drain (op : CollOp) (ovt eps : Word) (acc : List Word) : List Word × BitVec 7 :=
  let words (f : FFmt) : List Word × BitVec 7 :=
    let ys := acc.map (drainWord ovt f)
    (ys.map (fun y => y.1), ys.foldl (fun r y => r ||| y.2) 0)
  match op with
  | .sum true | .max true => words .bf16
  | .sum false | .max false | .stat => words .f32
  | .statNorm sample =>
    let t := tripleOf acc
    let (ws, f) := t.drainNormal ovt eps sample
    let (w, g) := if t.isEmpty then (0, 0) else drainWord ovt .f32 t.w
    (w :: ws, f ||| g)

/-- Elements of a chunk: as many as its payload holds in either pass (assumption 24). -/
def CollRound.perChunk (r : CollRound) (lines : Nat) : Nat :=
  max 1 (128 * lines / max (4 * CollOp.regs r.op) (CollOp.bytes r.op))

/-! ### The descriptor (R210) -/

/-- The fields of a descriptor that the ring uses. -/
structure CollDesc where
  nmem : Nat
  pos : Nat
  prev : Nat
  next : Nat
  slots : Dword
  nslots : Dword
  log2s : Nat
  chunk : Nat
  noteAddr : Dword
  deriving DecidableEq, Repr

def collDescOf (d : List Byte) : CollDesc :=
  ⟨fieldOf d 0 2, fieldOf d 2 2, fieldOf d 4 2, fieldOf d 6 2, BitVec.ofNat 64 (fieldOf d 8 8),
    BitVec.ofNat 64 (fieldOf d 0x10 8), fieldOf d 0x18 1, fieldOf d 0x19 1, BitVec.ofNat 64 (fieldOf d 0x40 8)⟩

/-- Bytes of a slot. -/
def CollDesc.slotBytes (d : CollDesc) : Nat := 128 * (d.chunk + 1)

/-- An address in the member's own slot region. -/
def CollDesc.holds (d : CollDesc) (a : Dword) : Bool :=
  decide (d.slots.toNat ≤ a.toNat ∧ a.toNat < d.slots.toNat + d.slotBytes * 2 ^ d.log2s)

/-- Every line of a chunk has been written (R190). -/
def ChunkIn.whole (c : ChunkIn) : Bool := (List.range (Chunk.lines c.chunk)).all c.got.contains

/-- The fields are in range and the reserved ones zero (R452). -/
def collDescOk (d : List Byte) : Bool :=
  let c := collDescOf d
  decide (2 ≤ c.nmem ∧ c.nmem ≤ 1024 ∧ c.pos < c.nmem ∧ 1 ≤ c.log2s ∧ c.log2s ≤ 8 ∧ 1 ≤ c.chunk ∧ c.chunk ≤ 64) &&
    fieldOf d 0x1A 6 == 0 && fieldOf d 0x50 48 == 0

/-- The descriptor of a round as memory holds it now. -/
def State.collDesc (s : State) (r : CollRound) : CollDesc :=
  match s.ctxRead s.blk.ctx r.desc 128 with
  | .ok d => { collDescOf d with nmem := r.nmem, pos := r.pos }
  | .error _ => ⟨r.nmem, r.pos, 0, 0, 0, 0, 1, 1, 0⟩

/-! ### Rounds of a block -/

/-- Changes the `i`-th round of the present block. -/
def State.modColl (s : State) (i : Nat) (f : CollRound → CollRound) : State :=
  s.modBlk (fun b => { b with colls := b.colls.modify i f })

/-- Every group of the block has issued. -/
def Block.allIssued (b : Block) (r : CollRound) : Bool := b.groups.all (fun g => r.issued.contains g.num)

/-- Elements and chunks of a round. -/
def Block.collElems (b : Block) (r : CollRound) : Nat := b.groups.length * 96 * (r.rc / CollOp.regs r.op)

def Block.collChunks (b : Block) (r : CollRound) (d : CollDesc) : Nat :=
  (b.collElems r + r.perChunk d.chunk - 1) / r.perChunk d.chunk

/-- The elements of chunk `k`. -/
def Block.chunkElems (b : Block) (r : CollRound) (d : CollDesc) (k : Nat) : List Nat :=
  let n := r.perChunk d.chunk
  (List.range (min n (b.collElems r - k * n))).map (fun i => k * n + i)

/-- The member's part of a round ends without an arrival (R448): its communication group takes one fault. -/
def State.failColl (s : State) (i : Nat) (f : AsyncFault) : State :=
  (s.modColl i (fun r => { r with failed := true })).modGrp (fun g => g.async f)

/-- A write of one of the member's own words, none when it fails (R448). It counts as from outside the launch, as other members
decide when it comes (R230 type 4; assumption 25). -/
def State.collWord (s : State) (r : CollRound) (off v : Nat) : Option State :=
  let t := State.ctxWrite { s with cur := { s.cur with who := none } } s.blk.ctx (r.desc + BitVec.ofNat 64 off) (leBytes v 8)
  t.toOption.map (fun t => { t with cur := s.cur })

/-- The fault of an own word. -/
def State.collWordFault (s : State) (r : CollRound) (off : Nat) : AsyncFault :=
  let va := r.desc + BitVec.ofNat 64 off
  match s.ctxCheck s.blk.ctx va 8 with
  | .error e => ⟨e.code, e.hi, r.org, some (e.addr.getD va), e.phys, e.info0, e.info1, s.time⟩
  | .ok _ => ⟨0x50, 0, r.org, some va, false, 0, 0, s.time⟩

/-- A word of the descriptor, none when it cannot be read. -/
def State.collRead (s : State) (r : CollRound) (off : Nat) : Option Nat :=
  (s.ctxNat s.blk.ctx (r.desc + BitVec.ofNat 64 off) 8).toOption

/-- Raises a word by `n` and hands on its new value, a write that a `WAITM` sees (R318); the round fails when that cannot be
done. -/
def State.collRaise (s : State) (i : Nat) (r : CollRound) (off n : Nat) (k : State → Nat → State) : State :=
  let s := s.asksCtx s.blk.ctx (r.desc + BitVec.ofNat 64 off) 8
  match s.collRead r off with
  | none => s.failColl i (s.collWordFault r off)
  | some v =>
    match s.collWord r off ((v + n) % 2 ^ 64) with
    | none => s.failColl i (s.collWordFault r off)
    | some t => k t.poll ((v + n) % 2 ^ 64)

/-- Sends a chunk, one write a line, or a notice in the name of the communication group (R35, R190, R213): its F rises
for it. -/
def State.sendTile (s : State) (r : CollRound) (peer : Nat) (bodies : List PktBody) : State :=
  let n := s.grp.fabs.foldl (fun m o => max m o.seq) (2 ^ 50) + 1
  let o : FabOp :=
    { s.fabOp (.tile r.desc) (List.range bodies.length) none false PField.zero with seq := n, org := r.org }
  ((bodies.mapIdx (fun i b => (i, b))).foldl (fun t x =>
    t.placeReq n { peer := peer, lanes := [(x.1, 0)], ready := true, addr := PktBody.addr x.2, body := x.2 })
      ((s.count 0x0F 1).modGrp (fun g => { g with fabs := g.fabs ++ [o] }))).finishFab n

/-- A slot of the member's own region has been consumed: HEAD rises, and PREV is told (R213). -/
def State.consumeSlot (s : State) (i : Nat) (r : CollRound) (d : CollDesc) (k : State → State) : State :=
  s.collRaise i r 0x30 1 (fun t head =>
    k (t.sendTile r d.prev [.notice d.noteAddr (BitVec.ofNat 64 head)]))

/-! ### The steps of a round -/

/-- Element `e` after this member's step, from the partial that came in. -/
def CollRound.reduceElem (r : CollRound) (part : Option (List Word)) (e : Nat) : Option (List Word) × BitVec 7 :=
  let own : Option (List Word) := if r.contrib.any (fun x => x.1 == e) then some (Tbl.get [] r.contrib e) else none
  match part, own with
  | none, x => (x, 0)
  | some p, none => (some p, 0)
  | some p, some x =>
    let (y, f) := CollOp.step r.op p x
    (some y, f)

/-- This member's step of the reduce pass on a chunk: `parts` are the partials that came in. -/
def CollRound.reduceChunk (r : CollRound) (k : Nat) (es : List Nat) (parts : List (Option (List Word))) (f : BitVec 7) :
    CollRound :=
  let ys := es.mapIdx (fun i e => (e, r.reduceElem (parts.getD i none) e))
  { r with
    reduced := ys.foldl (fun t y => match y.2.1 with
      | some w => Tbl.insert t y.1 w
      | none => t) r.reduced
    redFlags := Tbl.set 0 r.redFlags k (ys.foldl (fun f y => f ||| y.2.2) f)
    redIn := r.redIn + 1 }

/-- The element of the reduced table, if present. -/
def CollRound.partial_ (r : CollRound) (e : Nat) : Option (List Word) :=
  if r.reduced.any (fun x => x.1 == e) then some (Tbl.get [] r.reduced e) else none

/-- Writes a chunk of the drained result to the destination (R214). -/
def State.writeChunk (s : State) (r : CollRound) (es : List Nat) (ws : List (List Word)) : State :=
  s.modBlk (fun b => (es.zip ws).foldl (fun b x =>
    b.spadWrite (r.dst + CollOp.bytes r.op * x.1) ((wordBytes x.2).take (CollOp.bytes r.op))) b)

/-- A chunk of the result stands at this member: written, and ready to be passed on. -/
def State.takeResult (s : State) (i : Nat) (r : CollRound) (k : Nat) (es : List Nat) (ws : List (List Word)) (f : BitVec 7) :
    State :=
  (s.writeChunk r es ws).modColl i (fun r =>
    { r with result := (es.zip ws).foldl (fun t x => Tbl.insert t x.1 x.2) r.result
             gatFlags := Tbl.set 0 r.gatFlags k f
             gatIn := r.gatIn + 1 })

/-- The last position drains the next chunk of the reduce pass (R214). -/
def State.drainNext (s : State) (i : Nat) (r : CollRound) (d : CollDesc) : State :=
  let k := r.gatIn
  let es := s.blk.chunkElems r d k
  let ys := es.map (fun e => CollOp.drain r.op r.ovt r.eps ((r.partial_ e).getD (CollOp.absent r.op)))
  s.takeResult i r k es (ys.map (fun y => y.1)) (ys.foldl (fun f y => f ||| y.2) (Tbl.get 0 r.redFlags k))

/-- Sends the next chunk of a pass to NEXT while its region has room (R213); none when it has not. -/
def State.sendNext (s : State) (i : Nat) (r : CollRound) (d : CollDesc) (gather : Bool) : Option State :=
  match s.collRead r 0x20, s.collRead r 0x28 with
  | some tail, some seen =>
    if (tail + 2 ^ 64 - seen) % 2 ^ 64 < 2 ^ d.log2s then
      let k := if gather then r.gatOut else r.redOut
      let es := s.blk.chunkElems r d k
      let c : Chunk :=
        { round := r.round, gather := gather, index := k,
          flags := Tbl.get 0 (if gather then r.gatFlags else r.redFlags) k,
          width := if gather then CollOp.bytes r.op else 4 * CollOp.regs r.op,
          elems := es.map (fun e => if gather then some (Tbl.get [] r.result e) else r.partial_ e) }
      let addr := d.nslots + BitVec.ofNat 64 (d.slotBytes * (tail % 2 ^ d.log2s))
      let s := s.asksCtx s.blk.ctx (r.desc + 0x20) 16
      let sent := (s.modColl i (fun r =>
        if gather then { r with gatOut := r.gatOut + 1 } else { r with redOut := r.redOut + 1 })).sendTile
          r d.next ((List.range (Chunk.lines c)).map (.chunk addr c))
      some (sent.collRaise i r 0x20 1 (fun t _ => t))
    else none
  | none, _ => some (s.failColl i (s.collWordFault r 0x20))
  | _, none => some (s.failColl i (s.collWordFault r 0x28))

/-- The bytes of the result at the destination. -/
def Block.collBytes (b : Block) (r : CollRound) : Nat := b.collElems r * CollOp.bytes r.op

/-- The issue number of the communication group's `COLL` of a round. -/
def Group.collIssue (g : Group) (r : CollRound) : Nat :=
  (g.fabs.find? (fun o => o.kind == .coll r.desc && !o.done)).elim g.issues (fun o => o.seq)

/-- The chunks of both passes that a member sends in a round of `n` chunks (R212). -/
def CollRound.sends (r : CollRound) (n : Nat) : Nat :=
  (if r.pos + 1 ≠ r.nmem then n else 0) + (if r.pos + 2 ≠ r.nmem then n else 0)

/-- The chunks of both passes that a member takes out of its slots in a round of `n` chunks, `red` of them of the reduce pass;
each is acknowledged by a notice (R213). -/
def CollRound.takes (r : CollRound) (n red : Nat) : Nat :=
  (if r.pos + 1 ≠ r.nmem then n else 0) + if r.pos = 0 then 0 else red

/-- Record logs what the other members sent: the drained result, the flags, and how many chunks of the reduce pass came in,
under the descriptor's address (R230; assumption 25). -/
def State.collInput (s : State) (r : CollRound) (f : BitVec 7) : State :=
  let red := if r.timedOut then r.redEnd else s.blk.collChunks r (s.collDesc r)
  let bytes := Memory.bytes s.blk.spm r.dst (s.blk.collBytes r) ++ leBytes f.toNat 1 ++ leBytes red 4
  (s.loadInput r.org (s.grp.collIssue r) r.desc.toNat (2 ^ bytes.length - 1) bytes).2

/-- Where the log of a launch names a late chunk: a number that is no address, of a virtual one or of a home. -/
def lateKey (desc : Dword) : Nat := (desc ^^^ 0x4000000000000048#64).toNat

/-- Record logs a late chunk that the block takes, at the communication group's next issue (R230, R447; assumption 25). -/
def State.lateInput (s : State) (r : CollRound) : State :=
  if s.replaying then s else s.logEntry s.blk.ref.launch 4 s.point (loadEntry (lateKey r.desc) 0 [])

/-- The round is over at this member: one arrival with the flags of every chunk, ROUND, and F of every group (R215). -/
def State.finishColl (s : State) (i : Nat) (r : CollRound) : State :=
  s.collRaise i r 0x38 1 (fun t _ =>
    let f := r.gatFlags.foldl (fun f x => f ||| x.2) 0
    let t := if t.replaying then t else t.collInput r f
    let t := (t.modColl i (fun r => { r with finished := true })).engineArrive (some r.obj) f r.org
    t.modBlk (fun b => { b with groups := b.groups.map (fun g =>
      ({ g with fabs := g.fabs.map (fun o => if o.kind = .coll r.desc then { o with done := true } else o) } : Group).retireAll) }))

/-- The chunks that stand in the member's region, oldest first. -/
def State.chunkFor (s : State) (d : CollDesc) : Option ChunkIn :=
  s.chunks.find? (fun c => c.ctx == s.blk.ctx && c.whole && d.holds c.addr)

/-- Takes a chunk out of its slot. -/
def State.dropChunk (s : State) (c : ChunkIn) : State := { s with chunks := s.chunks.erase c }

/-- A chunk of a round that is over here, or of a reduce pass that its timeout closed before the chunk came (R447). -/
def CollRound.late (r : CollRound) (c : Chunk) : Bool :=
  decide (c.round < r.round) ||
    (c.round == r.round && (r.finished || r.failed || (!c.gather && r.timedOut && decide (r.redEnd ≤ c.index))))

/-- How many chunks of a round's reduce pass have arrived: those taken, and those that stand whole in their slots (R216). -/
def State.collArrived (s : State) (r : CollRound) : Nat :=
  let d := s.collDesc r
  r.redIn + (s.chunks.filter (fun c => c.ctx == s.blk.ctx && c.whole && d.holds c.addr && c.chunk.round == r.round &&
    !c.chunk.gather && decide (r.redIn ≤ c.chunk.index))).length

/-- One step that round `i` of the present block can take now, its communication group seated; none when it waits. -/
def State.collStep (s : State) (i : Nat) (r : CollRound) : Option State :=
  let b := s.blk
  let d := s.collDesc r
  let last := r.nmem - 1
  let n := b.collChunks r d
  let older := (b.colls.take i).any (fun q => q.desc == r.desc && !q.failed &&
    (decide (q.redOut < b.collChunks q d ∧ q.pos ≠ last) ||
      (decide (q.gatOut < b.collChunks q d) && q.pos + 1 != last)))
  if r.failed || !b.allIssued r || s.replaying then none
  else
    match (s.job b.job).down with
    | some rk => if r.finished then none else some (s.failColl i (s.downFault r.org rk))
    | none =>
      -- what the communication group would send waits for room in F (R155)
      let room := decide (s.grp.counter .f < 63)
      if room && !older && r.pos ≠ last && decide (r.redOut < r.redIn) && (s.sendNext i r d false).isSome then
        s.sendNext i r d false
      else if room && !older && r.pos + 1 ≠ last && decide (r.gatOut < r.gatIn) && (s.sendNext i r d true).isSome then
        s.sendNext i r d true
      else if r.pos = last ∧ r.gatIn < r.redIn then some (s.drainNext i r d)
      else if !r.finished && decide (n ≤ r.gatIn) then some (s.finishColl i r)
      else if r.pos = 0 ∧ r.redIn < n then
        some (s.modColl i (fun r => r.reduceChunk r.redIn (b.chunkElems r d r.redIn) [] 0))
      else if r.timedOut && decide (r.redEnd ≤ r.redIn ∧ r.redIn < n) then
        some (s.modColl i (fun r => r.reduceChunk r.redIn (b.chunkElems r d r.redIn) [] flagPartial))
      else
        match if room then s.chunkFor d else none with
        | none => none
        | some c =>
          let t := s.dropChunk c
          if r.late c.chunk then
            some ((t.lateInput r).collRaise i r 0x48 1 (fun t _ => t.consumeSlot i r d id))
          else if c.chunk.round ≠ r.round then none
          else
            let es := b.chunkElems r d c.chunk.index
            if c.chunk.gather then
              some (t.consumeSlot i r d (fun t =>
                t.takeResult i r c.chunk.index es (c.chunk.elems.map (fun x => x.getD [])) c.chunk.flags))
            else
              some (t.consumeSlot i r d (fun t =>
                t.modColl i (fun r => r.reduceChunk c.chunk.index es c.chunk.elems c.chunk.flags)))

/-- Steps of the present block's rounds while any can be taken, at most `k`. -/
def State.collRun (s : State) : Nat → State
  | 0 => s
  | k + 1 =>
    match (s.blk.colls.mapIdx (fun i r => (i, r))).findSome? (fun x => s.collStep x.1 x.2) with
    | none => s
    | some t => t.collRun k

/-- More steps than the rounds of a block can take before they wait. -/
def Block.collFuel (b : Block) : Nat :=
  b.colls.foldl (fun n r => n + 6 * b.collElems r + 16) 64

/-- Lets the rounds of block `i` go on, its communication group seated. -/
def State.collAdvance (s : State) (i : Nat) : State :=
  let b := s.blocks.getD i Block.nil
  match b.commg with
  | none => s
  | some j => if b.colls.isEmpty then s else s.within i j (fun t => t.collRun b.collFuel)

/-! ### Chunks that come when the block has gone (R447) -/

/-- Raises a word of a descriptor that no block works on; nothing happens when that cannot be done. -/
def State.ringRaise (s : State) (x : Ring) (off : Nat) : State :=
  let va := x.desc + BitVec.ofNat 64 off
  let s := s.asksCtx x.ctx va 8
  match s.ctxNat x.ctx va 8 with
  | .error _ => s
  | .ok v => ((s.ctxWrite x.ctx va (leBytes ((v + 1) % 2 ^ 64) 8)).toOption).getD s

/-- A slot-release notice that no group sends. -/
def State.ringNotice (s : State) (x : Ring) (d : CollDesc) : State :=
  match s.ctxNat x.ctx (x.desc + 0x30) 8, s.unreachable x.job d.prev with
  | .ok head, none =>
    let iso := s.isolated
    { s with reqs := s.reqs ++
        [⟨⟨s.rank, d.prev, 0, x.job, if iso then s.ctxKey x.ctx else 0, if iso then s.ctxClass x.ctx else 0, 0,
            .notice d.noteAddr (BitVec.ofNat 64 head)⟩, ⟨⟨⟨64, 0⟩, 0⟩, 0⟩, 0, [], true, false, 0, 0⟩] }
  | _, _ => s

/-- A late chunk in a ring that no resident block works on is discarded: LATE and HEAD rise, and PREV is told. -/
def State.ringStep (s : State) (x : Ring) : State :=
  if s.blocks.any (fun b => b.ctx == x.ctx && b.colls.any (fun r => r.desc == x.desc)) then s
  else
    match s.ctxRead x.ctx x.desc 128 with
    | .error _ => s
    | .ok bytes =>
      let d := collDescOf bytes
      match s.chunks.find? (fun c => c.ctx == x.ctx && c.whole && d.holds c.addr &&
          decide (c.chunk.round < fieldOf bytes 0x38 8)) with
      | none => s
      | some c => ((((s.asksCtx x.ctx x.desc 128).dropChunk c).ringRaise x 0x48).ringRaise x 0x30).ringNotice x d

/-- Lets every block's rounds go on, and takes what is late from the rings of blocks that have gone. -/
def State.collAdvanceAll (s : State) : State :=
  let t := (List.range s.blocks.length).foldl (fun t i => t.collAdvance i) s
  t.rings.foldl (fun t x => t.chunks.foldl (fun u _ => u.ringStep x) t) t

/-! ### COLL (R348, R457) -/

/-- The operands of a `COLL`. -/
structure CollArgs where
  rc : Nat
  timeout : Nat
  eps : Word
  dst : Nat
  obj : Nat
  desc : Dword
  deriving DecidableEq, Repr

def State.collArgs (s : State) (op : CollOp) (d b c e : Opnd) : CollArgs :=
  let g := s.grp
  let ctl := g.readN e 0 0
  { rc := ctl.toNat % 16, timeout := ctl.toNat / 2 ^ 16,
    eps := match op with
      | .statNorm _ => g.readN e 1 0
      | _ => 0,
    dst := (g.once d).toNat, obj := (g.once c).toNat, desc := g.once64 b }

/-- The register count is one of the operation's. -/
def CollOp.rcOk (op : CollOp) (rc : Nat) : Bool :=
  match op with
  | .stat | .statNorm _ => rc == 3 || rc == 6
  | _ => decide (1 ≤ rc ∧ rc ≤ 8)

/-- The round that the block's groups are issuing into, by index. -/
def Block.currentColl (b : Block) : Option (Nat × CollRound) :=
  ((b.colls.mapIdx (fun i r => (i, r))).filter (fun x => !b.allIssued x.2 && !x.2.failed)).getLast?

/-- Whether a `COLL` agrees with the first of its round (R448). -/
def CollRound.agrees (r : CollRound) (op : CollOp) (x : CollArgs) : Bool :=
  r.op == op && r.rc == x.rc && r.dst == x.dst && r.obj == x.obj && r.desc == x.desc && r.timeout == x.timeout &&
    r.eps == x.eps

/-- A slot region can be read and written. -/
def State.regionCheck (s : State) (d : CollDesc) : Except FaultInfo Unit :=
  if d.slots.toNat % 128 ≠ 0 ∧ signOk d.slots then .error { code := 0x12, addr := some d.slots }
  else
    let n := 128 * (min d.chunk 64 + 1) * 2 ^ min d.log2s 8
    match s.translRange s.core s.blk.ctx .read d.slots n with
    | .error e => .error e
    | .ok _ => s.translRange s.core s.blk.ctx .write d.slots n

/-- The checks of `COLL` in the order of R457. -/
def State.collCheck (s : State) (op : CollOp) (a : Opnd) (e c : Opnd) (x : CollArgs) : Except FaultInfo (List Byte) :=
  let b := s.blk
  let ctl := s.grp.readN e 0 0
  let n := b.groups.length * 96 * (x.rc / CollOp.regs op) * CollOp.bytes op
  if b.commg.isNone then .error (operandFault 7)
  else if ctl &&& ~~~(0xFFFF000F#32) != 0 then .error (operandFault 4)
  else if !CollOp.rcOk op x.rc || decide (128 < regNum a + x.rc) then .error (operandFault 1)
  else
    match b.spadCheck b.linePinned true (if CollOp.bytes op = 2 then 2 else 4) x.dst n with
    | some f => .error f
    | none =>
      match s.objAt c with
      | .error f => .error f
      | .ok _ =>
        match s.transl s.core b.ctx .read 128 x.desc, s.transl s.core b.ctx .write 128 x.desc with
        | .error f, _ => .error f
        | _, .error f => .error f
        | .ok (pa, _), .ok _ =>
          let d := Memory.bytes s.mem pa 128
          match s.regionCheck (collDescOf d) with
          | .error f => .error f
          | .ok _ =>
            if !collDescOk d then .error (operandFault 2)
            else
              match b.currentColl with
              | some (_, r) =>
                if r.agrees op x && !r.issued.contains s.grp.num then
                  (if s.badAt pa 128 then .error (eccFault pa) else .ok d)
                else .error (operandFault 7)
              | none =>
                if b.colls.any (fun r => r.desc == x.desc && !r.finished && !r.failed) then .error (operandFault 7)
                else if s.badAt pa 128 then .error (eccFault pa)
                else .ok d

/-- The elements that the present group contributes (R211). -/
def State.collContrib (s : State) (h : Hdr) (op : CollOp) (a : Opnd) (rc : Nat) : List (Nat × List Word) :=
  let g := s.grp
  let w := CollOp.regs op
  let t := rc / w
  (s.xs h).flatMap (fun l => (List.range t).map (fun j =>
    ((g.num * 96 + l) * t + j, (List.range w).map (fun i => g.readN a (w * j + i) l))))

/-- In replay no chunk travels: the log gives the destination, the flags and the chunks that came in, which are free where it has
no entry; TAIL and HEAD rise as the round's chunks raised them, its requests count, and the arrival is made (R231; assumption
25). -/
def State.replayColl (s : State) (i : Nat) (r : CollRound) : State :=
  let n := s.blk.collBytes r
  let (bytes, t) := s.loadInput r.org (s.grp.collIssue r) r.desc.toNat 0 ((List.range (n + 5)).map (Config.freeByte s.free))
  let t := { t with free := t.free + 1 }.modBlk (fun b => b.spadWrite r.dst (bytes.take n))
  let k := t.blk.collChunks r (t.collDesc r)
  let takes := r.takes k (leNat (bytes.drop (n + 1)))
  t.collRaise i r 0x20 (r.sends k) (fun t _ => t.collRaise i r 0x30 takes (fun t _ =>
    (t.count 0x0F (r.sends k + takes)).finishColl i { r with gatFlags := [(0, BitVec.ofNat 7 (leNat ((bytes.drop n).take 1)))] }))

/-- A late chunk that a replayed log names for the next issue of a block's communication group: block, group and round by
index, and the launch with the place of the entry. -/
def State.dueLate (s : State) : Option (Nat × Nat × Nat × Launch × Nat) :=
  (s.blocks.mapIdx (fun i b => (i, b))).findSome? (fun (i, b) =>
    match s.replayOf b, b.commg with
    | some x, some j =>
      let g := b.groups.getD j Group.nil
      (b.colls.mapIdx (fun k r => (k, r))).findSome? (fun (k, r) =>
        match s.findLoad x (pointOf b.ref.block g.num g.issues) (lateKey r.desc) with
        | .entry off _ _ _ => some (i, j, k, x, off)
        | _ => none)
    | _, _ => none)

/-- The late chunk of a replayed log: LATE and HEAD rise, and the notice counts (R231, R447; assumption 25). -/
def State.replayLate (s : State) (e : Nat × Nat × Nat × Launch × Nat) : State :=
  s.within e.1 e.2.1 (fun t =>
    match t.blk.colls[e.2.2.1]? with
    | none => t
    | some r => (t.takeLog e.2.2.2.1 e.2.2.2.2).collRaise e.2.2.1 r 0x48 1 (fun t _ =>
        t.collRaise e.2.2.1 r 0x30 1 (fun t _ => t.count 0x0F 1)))

/-- A round that stays when a new one opens on descriptor `d`: one of another descriptor, or one that has chunks of either
pass still to send on. -/
def CollRound.keeps (d : Dword) (r : CollRound) : Bool := r.desc != d || r.toSend

/-- `COLL` hands its group's contribution to the current round, or opens one. DESIGN CHOICE: of the several `COLL`s of a block
R216 does not say whose issue starts T: the model counts T from the first group's of the round, and closes the pass no earlier
than all groups have issued (assumption 82). -/
def execColl (h : Hdr) (op_ : CollOp) (d a b c e : Opnd) (s : State) : Host.Outcome State Fault Refusal :=
  let x := s.collArgs op_ d b c e
  if s.blk.restartable then s.failStep (protFault none 1)
  else if s.grp.hmaskr.getLsbD 1 then s.failStep (protFault none 2)
  else if (s.xs h).isEmpty then s.done h
  else s.unheld .f fun s =>
    if s.grp.fabHeld then .next (s.waitFor .fence)
    else
      match s.collCheck op_ a e c x with
      | .error f => s.failOnce h f
      | .ok bytes => s.roomFor .f fun s =>
        let s := s.asksCtx s.blk.ctx x.desc 128
        let t :=
          match s.blk.currentColl with
          | some _ => s
          | none =>
            let f := collDescOf bytes
            let fresh : CollRound :=
              { op := op_, rc := x.rc, dst := x.dst, obj := x.obj, desc := x.desc, timeout := x.timeout, eps := x.eps,
                 ovt := (s.ctx s.blk.ctx).ovt, since := s.time, nmem := f.nmem, pos := f.pos, round := fieldOf bytes 0x38 8, issued := [],
                 contrib := [], reduced := [], result := [], redFlags := [], gatFlags := [], redIn := 0, redOut := 0,
                 gatIn := 0, gatOut := 0, timedOut := false, redEnd := 0, finished := false, failed := false, org := s.origin }
            s.modBlk (fun blk => { blk with colls := blk.colls.filter (CollRound.keeps x.desc) ++ [fresh] })
        let i := (t.blk.currentColl.map (fun y => y.1)).getD 0
        let o := t.fabOp (.coll x.desc) [] none false PField.zero
        let u := (t.modColl i (fun r =>
          { r with issued := r.issued ++ [t.grp.num]
                   contrib := (t.collContrib h op_ a x.rc).foldl (fun m y => Tbl.insert m y.1 y.2) r.contrib })).modGrp
            (fun g => { g with fabs := g.fabs ++ [o] })
        let v :=
          match u.blk.colls[i]? with
          | none => u
          | some r =>
            if u.replaying then
              (if u.blk.allIssued r then u.within u.cur.blk (u.blk.commg.getD u.cur.grp) (fun w => w.replayColl i r) else u)
            else u.collAdvance u.cur.blk
        v.done h

/-! ### Timeout (R216) -/

/-- The reduce-pass waits of a block that have passed T microseconds are closed: the chunks that have not arrived are absent,
those that stand in their slots are still taken (R216). -/
def execCollTimeout (b : BlockRef) (s : State) : Host.Outcome State Fault Refusal :=
  match s.seatBlk b with
  | none => .next s
  | some t =>
    let due (r : CollRound) : Bool :=
      r.timeout != 0 && r.pos != 0 && !r.finished && !r.failed && t.blk.allIssued r && decide (1000 * r.timeout ≤ t.time - r.since) &&
        !r.timedOut && decide (t.collArrived r < t.blk.collChunks r (t.collDesc r))
    let u := t.modBlk (fun x => { x with colls := x.colls.map (fun (r : CollRound) =>
      if due r then { r with timedOut := true, redEnd := t.collArrived r } else r) })
    .next { u.collAdvance u.cur.blk with cur := s.cur }

end Sys2Proof.Machine
end

