-- ==== Sys2Proof/Machine/FloatOps.lean ====
section
/-! DEFINITION. Floating-point arithmetic, class 0x3 (spec 13 R284 to R290). -/

namespace Sys2Proof.Machine

/-- A source that is uniform at the width of a float type. -/
def Group.isUF (g : Group) (t : FTy) (o : Opnd) : Bool := if t.isF64 then g.isU64 o else g.isU o

/-- The end of a float instruction: the flags of the lanes of X(g) are raised (R31, R100, R286). -/
def State.raiseFin (s : State) (h : Hdr) (t : State) (fl : Nat → Flags) : Host.Outcome State Fault Refusal :=
  (t.raise (orFlags (s.xs h) fl)).done h

/-- Writes one rounded result per element of the destination (R112, R286). `r e l` is element `e` of lane
`l`. -/
def State.floatOut (s : State) (h : Hdr) (ft : FTy) (d : Opnd) (uniform : Bool) (r : Nat → Nat → Rnd) :
    Host.Outcome State Fault Refusal :=
  let fl (l : Nat) : Flags := if ft.packed then (r 0 l).flags.or (r 1 l).flags else (r 0 l).flags
  if ft.isF64 then
    s.raiseFin h (s.write64 (s.lane h) d (fun l => BitVec.ofNat 64 (r 0 l).bits) uniform) fl
  else
    let val (l : Nat) : Word :=
      BitVec.ofNat 32 ((r 0 l).bits + if ft.packed then 2 ^ 16 * (r 1 l).bits else 0)
    s.raiseFin h (s.write (s.lane h) d val (tagU uniform val)) fl

/-- The frame of R286 in the mode and under the SAT bit of a float type. -/
def Group.frameF (g : Group) (dm : DMod) (ft : FTy) (y : Exact) : Rnd :=
  Machine.frame (fmtOf ft) (g.fmode ft) (g.fsat ft) dm.scale dm.clamp y

/-- An operation on one float source. -/
def State.float1 (s : State) (h : Hdr) (m : Mods) (dm : DMod) (ft : FTy) (d a : Opnd)
    (f : RMode → FVal → Exact) : Host.Outcome State Fault Refusal :=
  let g := s.grp
  s.floatOut h ft d (g.isUF ft a) (fun e l => g.frameF dm ft (f (g.fmode ft) (g.flt ft (m.a a) e l)))

/-- An operation on two float sources. -/
def State.float2 (s : State) (h : Hdr) (m : Mods) (dm : DMod) (ft : FTy) (d a b : Opnd)
    (f : RMode → FVal → FVal → Exact) : Host.Outcome State Fault Refusal :=
  let g := s.grp
  s.floatOut h ft d (g.isUF ft a && g.isUF ft b) (fun e l =>
    g.frameF dm ft (f (g.fmode ft) (g.flt ft (m.a a) e l) (g.flt ft (m.b b) e l)))

def execFadd (h : Hdr) (m : Mods) (dm : DMod) (ft : FTy) (d a b : Opnd) (s : State) :
    Host.Outcome State Fault Refusal :=
  s.float2 h m dm ft d a b fAdd

def execFsub (h : Hdr) (m : Mods) (dm : DMod) (ft : FTy) (d a b : Opnd) (s : State) :
    Host.Outcome State Fault Refusal :=
  s.float2 h m dm ft d a b (fun mode x y => fAdd mode x y.negate)

def execFmul (h : Hdr) (m : Mods) (dm : DMod) (ft : FTy) (d a b : Opnd) (s : State) :
    Host.Outcome State Fault Refusal :=
  s.float2 h m dm ft d a b (fun _ => fMul)

def execFfma (h : Hdr) (m : Mods) (dm : DMod) (ft : FTy) (d a b c : Opnd) (s : State) :
    Host.Outcome State Fault Refusal :=
  let g := s.grp
  s.floatOut h ft d (g.isUF ft a && g.isUF ft b && g.isUF ft c) (fun e l =>
    g.frameF dm ft (fFma (g.fmode ft) (g.flt ft (m.a a) e l) (g.flt ft (m.b b) e l) (g.flt ft (m.c c) e l)))

def execFmin (h : Hdr) (m : Mods) (dm : DMod) (ft : FTy) (d a b : Opnd) (s : State) :
    Host.Outcome State Fault Refusal :=
  s.float2 h m dm ft d a b (fun _ => fMinMax false)

def execFmax (h : Hdr) (m : Mods) (dm : DMod) (ft : FTy) (d a b : Opnd) (s : State) :
    Host.Outcome State Fault Refusal :=
  s.float2 h m dm ft d a b (fun _ => fMinMax true)

/-- The mode of `FRND` (R289). -/
def rndSel (cur : RMode) : RndSel → RMode
  | .cur => cur
  | .rne => .rne
  | .rz => .rz
  | .ru => .ru
  | .rd => .rd

def execFrnd (h : Hdr) (m : Mods) (dm : DMod) (rm : RndSel) (ft : FTy) (d a : Opnd) (s : State) :
    Host.Outcome State Fault Refusal :=
  s.float1 h m dm ft d a (fun mode => fRound (rndSel mode rm))

def execFclass (h : Hdr) (m : Mods) (ft : FTy) (d a : Opnd) (s : State) : Host.Outcome State Fault Refusal :=
  let g := s.grp
  let one (e l : Nat) : Nat := 2 ^ classBit (fmtOf ft) (g.fbits ft (m.a a) e l)
  let val (l : Nat) : Word := BitVec.ofNat 32 (one 0 l + if ft.packed then 2 ^ 16 * one 1 l else 0)
  s.laneWise h d val (tagU (g.isUF ft a) val)

/-- The shift of `FSCALE`, cut to a range beyond which every result is the same. -/
def scaleAmount (k : Word) : Int := max (-4096) (min 4096 k.toInt)

def execFscale (h : Hdr) (m : Mods) (dm : DMod) (ft : FTy) (d a b : Opnd) (s : State) :
    Host.Outcome State Fault Refusal :=
  let g := s.grp
  s.floatOut h ft d (g.isUF ft a && g.isU b) (fun e l =>
    let x := g.flt ft (m.a a) e l
    g.frameF dm ft (x.scale (scaleAmount (g.word (m.b b) l)), { nv := x.isSig }))

/-- DESIGN CHOICE: the manual gives no order to the sum of three: the products are added first, so that opposite infinite products
raise NV also where C is a quiet NaN (R287; assumption 35). -/
def execFdot2 (h : Hdr) (m : Mods) (dm : DMod) (ft : FTy) (d a b c : Opnd) (s : State) :
    Host.Outcome State Fault Refusal :=
  let g := s.grp
  let mode := g.fmode .f32
  s.floatOut h .f32 d (g.isU a && g.isU b && g.isU c) (fun _ l =>
    let p (e : Nat) : Exact := fMul (g.flt ft (m.a a) e l) (g.flt ft (m.b b) e l)
    let q := fAdd mode (p 0).1 (p 1).1
    let r := fAdd mode q.1 (g.flt .f32 (m.c c) 0 l)
    g.frameF dm .f32 (r.1, (((p 0).2.or (p 1).2).or q.2).or r.2))

end Sys2Proof.Machine
end

