-- ==== Sys2Proof/Machine/Convert.lean ====
section
/-! DEFINITION. Conversions and special functions, class 0x4 (spec 13 R291 to R297). -/

namespace Sys2Proof.Machine

/-- A value converted to a float type: its own frame (R292). -/
def Group.convert (g : Group) (dm : DMod) (dft : FTy) (v : FVal) : Rnd := g.frameF dm dft (v, { nv := v.isSig })

def execFcvt (h : Hdr) (m : Mods) (dm : DMod) (hi : Bool) (dft sft : FTy) (d a : Opnd) (s : State) :
    Host.Outcome State Fault Refusal :=
  let g := s.grp
  let pick : Nat := if hi then 1 else 0
  s.floatOut h dft d (g.isUF sft a) (fun e l =>
    match dft.packed, sft.packed with
    | true, false => if e = pick then g.convert dm dft (g.flt sft (m.a a) 0 l) else ⟨0, {}⟩
    | false, true => g.convert dm dft (g.flt sft (m.a a) pick l)
    | _, _ => g.convert dm dft (g.flt sft (m.a a) e l))

/-- Element `e` of an integer source of `I2F` (R293). -/
def Group.intElem (g : Group) (t : ITy) (x : Src) (e l : Nat) : Int :=
  ITy.rd t (intModT t x.neg x.abs (g.read x.o l >>> (16 * e)))

def execI2f (h : Hdr) (m : Mods) (dm : DMod) (dft : FTy) (it : ITy) (d a : Opnd) (s : State) :
    Host.Outcome State Fault Refusal :=
  let g := s.grp
  s.floatOut h dft d (g.isU a) (fun e l =>
    let n := g.intElem it (m.a a) e l
    g.convert dm dft (.fin (decide (n < 0)) n.natAbs 0))

def execF2i (h : Hdr) (m : Mods) (scale : BitVec 3) (it : ITy) (sft : FTy) (d a : Opnd) (s : State) :
    Host.Outcome State Fault Refusal :=
  let g := s.grp
  let one (e l : Nat) : Int × Flags := toIntFmt g.gmr it ((g.flt sft (m.a a) e l).scale (scaleOf scale))
  let val (l : Nat) : Word :=
    if sft.packed then BitVec.ofInt 16 (one 1 l).1 ++ BitVec.ofInt 16 (one 0 l).1 else ITy.put it (one 0 l).1
  s.raiseFin h (s.write (s.lane h) d val (tagU (g.isUF sft a) val))
    (fun l => if sft.packed then (one 0 l).2.or (one 1 l).2 else (one 0 l).2)

def execPackh (h : Hdr) (m : Mods) (dm : DMod) (ft : FTy) (d a b : Opnd) (s : State) :
    Host.Outcome State Fault Refusal :=
  let g := s.grp
  s.floatOut h ft d (g.isU a && g.isU b) (fun e l =>
    g.convert dm ft (g.flt .f32 (if e = 0 then m.a a else m.b b) 0 l))

def execFrcp (h : Hdr) (m : Mods) (dm : DMod) (ft : FTy) (d a : Opnd) (s : State) : Host.Outcome State Fault Refusal :=
  s.float1 h m dm ft d a (fun _ => fRcp)

def execFrsq (h : Hdr) (m : Mods) (dm : DMod) (ft : FTy) (d a : Opnd) (s : State) : Host.Outcome State Fault Refusal :=
  s.float1 h m dm ft d a (fun _ => fRsq)

def execFsqrt (h : Hdr) (m : Mods) (dm : DMod) (ft : FTy) (d a : Opnd) (s : State) : Host.Outcome State Fault Refusal :=
  s.float1 h m dm ft d a (fun _ => fSqrt)

def execFexp2 (h : Hdr) (m : Mods) (dm : DMod) (ft : FTy) (d a : Opnd) (s : State) : Host.Outcome State Fault Refusal :=
  s.float1 h m dm ft d a (fun _ => fExp2)

def execFlog2 (h : Hdr) (m : Mods) (dm : DMod) (ft : FTy) (d a : Opnd) (s : State) : Host.Outcome State Fault Refusal :=
  s.float1 h m dm ft d a (fun _ => fLog2)

def execFsin (h : Hdr) (m : Mods) (dm : DMod) (ft : FTy) (d a : Opnd) (s : State) : Host.Outcome State Fault Refusal :=
  s.float1 h m dm ft d a (fun _ => fSin)

def execFcos (h : Hdr) (m : Mods) (dm : DMod) (ft : FTy) (d a : Opnd) (s : State) : Host.Outcome State Fault Refusal :=
  s.float1 h m dm ft d a (fun _ => fCos)

def execFtanh (h : Hdr) (m : Mods) (dm : DMod) (ft : FTy) (d a : Opnd) (s : State) : Host.Outcome State Fault Refusal :=
  s.float1 h m dm ft d a (fun _ => fTanh)

def execFdiv (h : Hdr) (m : Mods) (dm : DMod) (ft : FTy) (d a b : Opnd) (s : State) :
    Host.Outcome State Fault Refusal :=
  s.float2 h m dm ft d a b (fun _ => fDiv)

end Sys2Proof.Machine
end

