-- ==== Sys2Proof/Machine/Receive.lean ====
section
/-! DEFINITION. The receiving side of the fabric, and the responses that come back (spec 08 R187 to R198, R202, R205,
R213; 22 R438, R440, R446; note (m) of R19). -/

namespace Sys2Proof.Machine

/-! ### Admission (R197, R198, R440) -/

/-- An entry of the key table: its 64 bytes. -/
def State.keyEntry (s : State) (i : Nat) : List Byte := Memory.bytes s.mem (s.mgmt.keytab.toNat + 64 * i) 64

/-- The entry that admits a sender's key, looked for among the first `n`. -/
def State.keyFind (s : State) (src : Nat) (key : Dword) : Nat → Option (List Byte)
  | 0 => none
  | n + 1 =>
    match s.keyFind src key n with
    | some e => some e
    | none =>
      let e := s.keyEntry n
      if fieldOf e 8 2 / 2 ^ 15 = 1 ∧ fieldOf e 8 2 % 2 ^ 10 = src ∧ fieldOf e 0 8 = key.toNat then some e else none

/-- Whether bytes lie within one window of an entry. -/
def inWindow (e : List Byte) (addrs : List Nat) : Bool :=
  (List.range 3).any (fun i =>
    let base := fieldOf e (0x10 + 16 * i) 8
    let size := fieldOf e (0x18 + 16 * i) 8
    size != 0 && addrs.all (fun a => decide (base ≤ a ∧ a < base + size)))

/-- The context of a tenant and a job (assumption 26): that of a live launch, else the lowest valid one of the
tenant. -/
def State.targetCtx (s : State) (tenant : Option Nat) (job : Nat) : Nat :=
  let fits (c : Nat) : Bool := tenant.all (fun t => s.ctxTenant c == t)
  match s.launches.find? (fun l => l.job == job && fits l.ctx) with
  | some l => l.ctx
  | none =>
    if tenant.isNone then 0
    else ((List.range 256).find? (fun c => s.ctxValid c && fits c)).getD 0

/-- The permission bit that a kind of request needs, and the reason of a request that lacks it. -/
def PktBody.perm : PktBody → Nat × Nat
  | .read _ _ => (0, 2)
  | .write _ => (1, 2)
  | .atomic .. => (2, 2)
  | .message .. => (3, 2)
  | .chunk .. | .notice _ _ => (4, 6)

/-- The bytes that a request addresses; a message addresses none. -/
def PktBody.addrs : PktBody → List Nat
  | .read a n => (List.range n).map (fun i => a.toNat + i)
  | .write cells => cells.map (fun c => c.1.toNat)
  | .atomic _ ty a _ _ _ => (List.range (ATy.bytes ty)).map (fun i => a.toNat + i)
  | .message _ _ _ => []
  | .chunk a c k => (List.range (Chunk.lineBytes c k)).map (fun i => a.toNat + 128 * k + i)
  | .notice a _ => (List.range 8).map (fun i => a.toNat + i)

/-- An admitted request: the target context, and the tenant and job it may address. -/
structure Admit where
  ctx : Nat
  tenant : Option Nat
  job : Nat
  deriving DecidableEq, Repr

/-- The key check: the target, or the reason of the refusal. With isolation off no key is checked (note (m)). -/
def State.admission (s : State) (p : Packet) : Except Nat Admit :=
  if !s.isolated then .ok ⟨s.targetCtx none p.job, none, p.job⟩
  else
    match s.keyFind p.src p.key 4096 with
    | none => .error 1
    | some e =>
      let (bit, why) := PktBody.perm p.body
      if fieldOf e 0x0E 2 / 2 ^ bit % 2 = 0 then .error why
      else if !(PktBody.addrs p.body).isEmpty && !inWindow e (PktBody.addrs p.body) then .error 3
      else .ok ⟨s.targetCtx (some (fieldOf e 0x0A 2)) (fieldOf e 0x0C 1), some (fieldOf e 0x0A 2), fieldOf e 0x0C 1⟩

/-! ### Performing at the home -/

/-- The physical addresses of virtual ones used in a context; none when one cannot be used. -/
def State.pasOf (s : State) (ctx : Nat) (u : Use) : List Nat → Option (List Nat)
  | [] => some []
  | a :: as =>
    match s.transl devCore ctx u 1 (BitVec.ofNat 64 a), s.pasOf ctx u as with
    | .ok (pa, _), some pas => some (pa :: pas)
    | _, _ => none

/-- A failing protected word that a write of these bytes does not replace whole (R387). -/
def State.keepsBad (s : State) (pas : List Nat) : Bool := !(s.partBad pas).isEmpty

/-- Stores bytes at their homes. -/
def State.storeAt (s : State) (pas : List Nat) (bs : List Byte) : State := s.storeCells (pas.zip bs)

/-- The slot of a message (R202); what lies beyond its payload is undefined. -/
def messageSlot (src : Nat) (tag : Word) (payload : List Word) (k : Nat) : List Byte :=
  let b := leBytes src 2 ++ leBytes payload.length 1 ++ leBytes 0 1 ++ leBytes tag.toNat 4 ++ wordBytes payload
  b ++ (List.range (128 - b.length)).map (Config.freeByte k)

/-- The header of a slot (R213) and its payload, whose form the manual leaves to the device: free bytes (assumption
24). -/
def Chunk.bytes (c : Chunk) (k : Nat) : List Byte :=
  leBytes c.round 8 ++ leBytes (if c.gather then 1 else 0) 4 ++ leBytes c.index 4 ++ leBytes c.flags.toNat 4 ++
    List.replicate 108 0 ++ (List.range (Chunk.size c - 128)).map (Config.freeByte k)

/-- The bytes of line `j` of a chunk. -/
def Chunk.line (c : Chunk) (j k : Nat) : List Byte := ((Chunk.bytes c k).drop (128 * j)).take (Chunk.lineBytes c j)

/-- A line of a chunk stands in its slot: with the others of the chunk, in place of what stood there before. -/
def addLine (cs : List ChunkIn) (ctx : Nat) (a : Dword) (c : Chunk) (k : Nat) : List ChunkIn :=
  if cs.any (fun x => x.ctx == ctx && x.addr == a && x.chunk == c) then
    cs.map (fun x => if x.ctx = ctx ∧ x.addr = a ∧ x.chunk = c then { x with got := addOnce x.got k } else x)
  else cs.filter (fun x => !(x.ctx == ctx && x.addr == a)) ++ [⟨ctx, a, c, [k]⟩]

/-- A block that has bound an inbox and can take messages of a tenant and a job. -/
def State.inboxOf (s : State) (x : Admit) (n : Nat) : Option (Nat × Inbox) :=
  ((s.blocks ++ s.saved.map (fun y => y.blk)).filterMap (fun b =>
    match b.inbox with
    | some i => if i.num = n ∧ b.job = x.job ∧ x.tenant.all (fun t => b.tenant == t) then some (b.ctx, i) else none
    | none => none)).head?

/-- The reason for which a message cannot be delivered: translation or protection (R440), or an uncorrectable error
(R446), for which the model has the number 7. -/
def deliveryReason (e : FaultInfo) : Nat := if e.code = 0x50 then 7 else 4

/-- A message stands in an inbox: its context, the inbox's descriptor, its place, and the port that it came through (R13). -/
def State.noteMsg (s : State) (m : MsgIn) : State :=
  { s with msgs := s.msgs.filter (fun (x : MsgIn) => !(x.ctx == m.ctx && x.desc == m.desc && x.index == m.index)) ++ [m] }

/-- The device reads the words of a bound inbox's descriptor before it delivers a message (R202, R217). -/
def State.asksInbox (s : State) (x : Admit) (n : Nat) : State :=
  match s.inboxOf x n with
  | none => s
  | some (ctx, i) => (s.asksCtx ctx i.desc 9).asksCtx ctx (i.desc + 0x10) 0x10

/-- Delivers a message that came through a port (R202): the slot, then TAIL. -/
def State.deliverMsg (s : State) (x : Admit) (src port n : Nat) (tag : Word) (payload : List Word) : Except Nat State :=
  match s.inboxOf x n with
  | none => .error 5
  | some (ctx, i) =>
    match s.ctxNat ctx i.desc 8, s.ctxNat ctx (i.desc + 8) 1, s.ctxNat ctx (i.desc + 0x10) 8, s.ctxNat ctx (i.desc + 0x18) 8 with
    | .ok ring, .ok lg, .ok tail, .ok head =>
      if (tail + 2 ^ 64 - head) % 2 ^ 64 = 2 ^ lg then .error 5
      else
        let va := BitVec.ofNat 64 (ring + 128 * (tail % 2 ^ lg))
        match s.ctxWrite ctx va (messageSlot src tag payload s.free), s.ctxCheck ctx (i.desc + 0x10) 8 with
        | .ok t, .ok _ =>
          .ok ({ t.ctxStore ctx (i.desc + 0x10) (leBytes ((tail + 1) % 2 ^ 64) 8) with free := t.free + 1 }.noteMsg
            ⟨ctx, i.desc, tail, port⟩)
        | .error e, _ | _, .error e => .error (deliveryReason e)
    | .error e, _, _, _ | _, .error e, _, _ | _, _, .error e, _ | _, _, _, .error e => .error (deliveryReason e)

/-- The walks of a request's addresses ask the host for what they read of its memory (R217). -/
def State.asksAddrs (s : State) (ctx : Nat) (as : List Nat) : State :=
  (as.map (fun a => a / 4096)).eraseDups.foldl (fun t k =>
    t.asksWalk devCore ctx (BitVec.ofNat 64 ((as.find? (fun a => a / 4096 == k)).getD 0))) s

/-- What performing a request at its home gives: the state and the response. Reason 7 stands for an uncorrectable error
(R446); it is the model's number. -/
def State.performReq (s : State) (p : Packet) (x : Admit) : State × Resp :=
  let s := s.asksAddrs x.ctx (PktBody.addrs p.body)
  let ecc : State × Resp := (s, .refused 7)
  match p.body with
  | .read _ _ =>
    match s.pasOf x.ctx .read (PktBody.addrs p.body) with
    | none => (s, .refused 4)
    | some pas =>
      if pas.any (fun pa => s.badMem.contains (pa / 8)) then ecc
      else (s.asksHost (pas.headD 0) pas.length, .read (pas.map (Memory.byte s.mem)))
  | .write cells =>
    match s.pasOf x.ctx .write (PktBody.addrs p.body) with
    | none => (s, .refused 4)
    | some pas => if s.keepsBad pas then ecc else (s.storeAt pas (cells.map (fun c => c.2)), .write)
  | .atomic op ty _ data cmp returns =>
    match s.pasOf x.ctx .atomic (PktBody.addrs p.body) with
    | none => (s, .refused 4)
    | some pas =>
      if pas.any (fun pa => s.badMem.contains (pa / 8)) then ecc
      else
        let old := leNat (pas.map (Memory.byte s.mem))
        (if atomWrites op ty old cmp.toNat then s.storeAt pas (leBytes (atomNew op ty old data.toNat) (ATy.bytes ty)) else s,
          if returns then .atomic (BitVec.ofNat 64 old) else .write)
  | .message n tag payload =>
    let s := s.asksInbox x n
    match s.deliverMsg x p.src p.port n tag payload with
    | .error e => (s, .refused e)
    | .ok t => (t, .write)
  | .chunk a c k =>
    match s.pasOf x.ctx .write (PktBody.addrs p.body) with
    | none => (s, .refused 4)
    | some pas =>
      if s.keepsBad pas then ecc
      else
        let t := s.storeAt pas (Chunk.line c k s.free)
        ({ t with free := t.free + 1, chunks := addLine t.chunks x.ctx a c k }, .write)
  | .notice _ head =>
    match s.pasOf x.ctx .write (PktBody.addrs p.body) with
    | none => (s, .refused 4)
    | some pas => if s.keepsBad pas then ecc else (s.storeAt pas (leBytes head.toNat 8), .write)

/-- The response to a request goes back to its sender through the port that the request came in by, which may have to
carry traffic again first (R223); one of this device's own rank stays inside (R193). -/
def State.respond (s : State) (p : Packet) (r : Resp) : State :=
  let o := Out.response p.src p.seq r
  if p.src = s.rank then { s with loopResp := s.loopResp ++ [(p.seq, r)] }
  else if s.portCarries p.port then s.emit o
  else { s with heldq := s.heldq ++ [⟨p.src, some p.port, none, o⟩] }

/-- A refusal is counted at the port that received the request (R440); one of the own rank came by no port (R193). -/
def State.countRefusal (s : State) (p : Packet) : State :=
  if p.src = s.rank then s else s.setPort p.port { s.port p.port with refusals := (s.port p.port).refusals + 1 }

/-- The failure of this member's own slot region that a write of PREV met (R448): translation, protection, or an error
at its home. -/
def State.slotFault (s : State) (ctx : Nat) : List Nat → FaultInfo
  | [] => { code := 0x50 }
  | a :: as =>
    match s.transl devCore ctx .write 1 (BitVec.ofNat 64 a) with
    | .error e => e
    | .ok (pa, _) =>
      if s.badMem.contains (pa / 8) then { code := 0x50, addr := some (BitVec.ofNat 64 a) } else s.slotFault ctx as

/-- A write of a slot of this member's own region has failed: its part of the round ends (R448). -/
def State.slotFailed (s : State) (ctx : Nat) (p : Packet) : State :=
  match p.body with
  | .chunk a _ _ =>
    let e := s.slotFault ctx (PktBody.addrs p.body)
    (List.range s.blocks.length).foldl (fun t i =>
      let b := t.blocks.getD i Block.nil
      match b.commg with
      | some j =>
        if b.ctx = ctx ∧ !b.colls.isEmpty then
          t.within i j (fun u =>
            match (u.blk.colls.mapIdx (fun k r => (k, r))).find? (fun x =>
                !x.2.failed && !x.2.finished && (u.collDesc x.2).holds a) with
            | some (k, r) => u.failColl k ⟨e.code, e.hi, r.org, e.addr, e.phys, e.info0, e.info1, u.time⟩
            | none => u)
        else t
      | none => t) s
  | _ => s

/-- The highest sequence of a sender that has performed (R437). -/
def State.notePerf (s : State) (p : Packet) : State := s.setPeer p.src { s.peer p.src with perf := p.seq }

/-- The next request of a sender is admitted, performs, is counted and answered (R195, R205, R440, R446). A message
counts at its `MDONE`. -/
def State.takeReq (s : State) (p : Packet) : State :=
  match s.admission p with
  | .error e => (s.countRefusal p).respond p (.refused e)
  | .ok x =>
    let who := if p.src = s.rank then
        (s.reqs.find? (fun r => r.left && r.pkt == p)).map (fun r => r.owner.block.launch)
      else none
    let (t, r) := { s with cur := { s.cur with who := who } }.performReq p x
    let t := { t with cur := s.cur }
    match r with
    | .refused e =>
      let t := if e = 4 ∨ e = 7 then t.slotFailed x.ctx p else t
      if e = 7 then ((t.consumeReq p).notePerf p).respond p r else (t.countRefusal p).respond p r
    | _ =>
      let counted := match p.body with
        | .message .. => false
        | _ => true
      ((if counted then t.consumeReq p else t).notePerf p).respond p r

/-- Requests of a sender that stood early perform in sequence (R193), each a write of its own to a `WAITM` (R318). -/
def State.drainEarly (s : State) (src : Nat) : Nat → State
  | 0 => s
  | k + 1 =>
    let x := s.peer src
    match x.early.find? (fun p => p.seq == x.rxSeq) with
    | none => s
    | some p =>
      ((s.setPeer src { x with rxSeq := x.rxSeq + 1, early := x.early.filter (fun y => y.seq != p.seq) }).poll.takeReq p).drainEarly
        src k

/-- A request of this rank that was turned back and has not been answered yet. -/
def State.turnedBack (s : State) (p : Packet) : Bool :=
  s.reqs.any (fun r => r.left && r.pkt == p) && !s.loopResp.any (fun x => x.1 == p.seq)

/-- A request can have come in by its port: one of the own rank by the way back inside the package, any other by a port
that carries traffic (R193, R223). -/
def State.cameIn (s : State) (p : Packet) : Bool := if p.src = s.rank then s.turnedBack p else s.portCarries p.port

/-- A request arrives: late ones are discarded uncounted, early ones are held, and the next in sequence performs, and with it
those that it held back (R193, R437). DESIGN CHOICE: one for another rank, which R193 does not let the device forward, is
dropped, with no response and no count (assumption 81). -/
def State.receive (s : State) (p : Packet) : State :=
  let x := s.peer p.src
  if p.dst ≠ s.rank ∨ !s.cameIn p ∨ p.seq < x.discard ∨ p.seq < x.rxSeq then s
  else if x.rxSeq < p.seq then
    if x.early.any (fun y => y.seq == p.seq) then s else s.setPeer p.src { x with early := x.early ++ [p] }
  else (((s.setPeer p.src { x with rxSeq := x.rxSeq + 1 }).takeReq p).drainEarly p.src x.early.length).collAdvanceAll

/-- The event of one kind of request; a packet of another kind is not that event. -/
def State.onPacket (s : State) (p : Packet) (kind : PktBody → Bool) : Host.Outcome State Fault Refusal :=
  .next (if kind p.body then s.receive p else s)

def execRemoteReadRequest (p : Packet) (s : State) : Host.Outcome State Fault Refusal :=
  s.onPacket p (fun b => match b with
    | .read _ _ => true
    | _ => false)

def execRemoteWriteRequest (p : Packet) (s : State) : Host.Outcome State Fault Refusal :=
  s.onPacket p (fun b => match b with
    | .write _ => true
    | _ => false)

def execRemoteAtomicRequest (p : Packet) (s : State) : Host.Outcome State Fault Refusal :=
  s.onPacket p (fun b => match b with
    | .atomic .. => true
    | _ => false)

def execMessageDelivery (p : Packet) (s : State) : Host.Outcome State Fault Refusal :=
  s.onPacket p (fun b => match b with
    | .message .. => true
    | _ => false)

/-- A member receives a chunk: its slot is written, and the round goes on (R212, R213). -/
def execCollChunkArrival (p : Packet) (s : State) : Host.Outcome State Fault Refusal :=
  s.onPacket p (fun b => match b with
    | .chunk .. => true
    | _ => false)

/-- A slot-release notice raises SEENHEAD, and chunks that waited for a slot leave (R213). -/
def execSlotReleaseNotice (p : Packet) (s : State) : Host.Outcome State Fault Refusal :=
  s.onPacket p (fun b => match b with
    | .notice _ _ => true
    | _ => false)

/-! ### Responses (R187, R195, R196, R438, R440) -/

/-- A request that has left and stands unanswered. -/
def State.reqFor (s : State) (peer seq : Nat) : Option Req :=
  s.reqs.find? (fun r => r.left && r.pkt.dst == peer && r.pkt.seq == seq)

/-- A response of this device's own rank must be the one that stands inside; any other comes in by a port. -/
def State.respStands (s : State) (peer seq : Nat) (r : Resp) : Bool :=
  if peer = s.rank then s.loopResp.contains (seq, r) else s.linked

/-- The request is settled: it leaves the DFI, and its operation changes as `f` says and ends when all have. -/
def State.settleReq (s : State) (r : Req) (f : FabOp → FabOp) (log : State → State) : State :=
  let t := { s with
    reqs := s.reqs.filter (fun (x : Req) => !(x.pkt.dst == r.pkt.dst && x.left && x.pkt.seq == r.pkt.seq))
    loopResp := if r.pkt.dst = s.rank then s.loopResp.filter (fun x => x.1 != r.pkt.seq) else s.loopResp }
  match t.find r.owner with
  | none => t
  | some (i, j) => t.within i j (fun u => ((log u).modGrp (fun g => g.modFab r.op f)).finishFab r.op)

/-- The lanes of a request are no longer open. -/
def FabOp.close (o : FabOp) (r : Req) : FabOp :=
  { o with open_ := o.open_.filter (fun l => !r.lanes.any (fun x => x.1 == l)) }

/-- A settled request that returned a value for each of its lanes. -/
def State.ackValues (s : State) (r : Req) (val : Nat × Nat → Nat) (n : Nat → Nat) : State :=
  let o := (s.find r.owner).bind (fun ij => ((s.blocks.getD ij.1 Block.nil).groups.getD ij.2 Group.nil).fab? r.op)
  let size := match o.map (fun o => o.kind) with
    | some (.rld sz) => sz.bytes
    | some (.ratom ty) => ATy.bytes ty
    | _ => 0
  let vals := r.lanes.map (fun x => (x.1, val x % 2 ^ (8 * n size)))
  let base := (PktBody.addr r.pkt.body).toNat
  s.settleReq r (fun o => { o.close r with got := o.got ++ vals })
    (fun u => (r.lanes.zip vals).foldl (fun u v => u.logRemote r.op (base + v.1.2) (leBytes v.2.2 size)) u)

def execReadResponse (peer seq : Nat) (bytes : List Byte) (s : State) : Host.Outcome State Fault Refusal :=
  match s.reqFor peer seq with
  | none => .next s
  | some r =>
    match r.pkt.body with
    | .read _ _ =>
      if !s.respStands peer seq (.read bytes) then .next s
      else .next (s.ackValues r (fun x => leNat (bytes.drop x.2)) id).collAdvanceAll
    | _ => .next s

/-- A write completion that answers no request answers a control packet (R190), the oldest on its way to the peer. Once that to
an abort has come, the peer has no word on the aborted gang under way: the two travel in order (assumption 55). -/
def State.controlAnswered (s : State) (r : Nat) : State :=
  let x := s.peer r
  if x.ctl = 0 then s
  else
    { s.setPeer r { x with ctl := x.ctl - 1 } with
      gangEnded := s.gangEnded.map (fun (e : EndedGang) => { e with owed := e.owed.filterMap (fun (m : Nat × Nat) =>
        if m.1 ≠ r then some m else if m.2 ≤ 1 then none else some (m.1, m.2 - 1)) }) }

/-- A write completion acknowledges a request that returns no value (R187). -/
def execWriteCompletion (peer seq : Nat) (s : State) : Host.Outcome State Fault Refusal :=
  match s.reqFor peer seq with
  | none => .next (s.controlAnswered peer)
  | some r =>
    match r.pkt.body with
    | .read _ _ | .atomic _ _ _ _ _ true => .next s
    | _ => if !s.respStands peer seq .write then .next s else .next (s.settleReq r (fun o => o.close r) id).collAdvanceAll

def execAtomicResponse (peer seq : Nat) (old : Dword) (s : State) : Host.Outcome State Fault Refusal :=
  match s.reqFor peer seq with
  | none => .next s
  | some r =>
    match r.pkt.body with
    | .atomic _ _ _ _ _ true =>
      if !s.respStands peer seq (.atomic old) then .next s else .next (s.ackValues r (fun _ => old.toNat) id).collAdvanceAll
    | _ => .next s

/-- Resolves a request as failed (R438, R440, R446). -/
def State.failReq (s : State) (r : Req) (code : BitVec 8) (detail : Nat) (performed : Bool) : State :=
  s.settleReq r (fun o =>
    { o.close r with fails := o.fails ++
        [s.failOf (r.lanes.map (fun x => x.1)) code detail r.pkt.dst r.pkt.seq (PktBody.addr r.pkt.body) performed] }) id

/-- A refusal raises C(j) here; an uncorrectable error at the target, which counted there, does not (R440, R446). -/
def execRefusalResponse (peer seq reason : Nat) (s : State) : Host.Outcome State Fault Refusal :=
  match s.reqFor peer seq with
  | none => .next s
  | some r =>
    if !s.respStands peer seq (.refused reason) then .next s
    else if reason = 7 then .next (s.failReq r 0x50 0 false).collAdvanceAll
    else .next ((s.consumeReq r.pkt).failReq r 0x30 reason false).collAdvanceAll

end Sys2Proof.Machine
end

