-- ==== Sys2Proof/Machine/Delivery.lean ====
section
/-! DEFINITION. What reaches a group at an instruction boundary: a message interrupt and an asynchronous fault (spec 02
R47, R48; 09 R230, R231; 19 R376; 20 R459; 22 R448). -/

namespace Sys2Proof.Machine

/-! ### Handler entry (R47) -/

/-- Where the oldest unfinished message of the bound inbox stands, with HEAD and TAIL (R201, R202). -/
def State.oldestSlot (s : State) : Option (Dword × Nat × Nat) :=
  match s.blk.inbox with
  | none => none
  | some x =>
    let c := s.blk.ctx
    match s.ctxNat c x.desc 8, s.ctxNat c (x.desc + 8) 1, s.ctxNat c (x.desc + 0x10) 8, s.ctxNat c (x.desc + 0x18) 8 with
    | .ok ring, .ok lg, .ok tail, .ok head => some (BitVec.ofNat 64 (ring + 128 * (head % 2 ^ lg)), head, tail)
    | _, _, _, _ => none

/-- Record logs the slot at handler entry; replay puts the log's message into the slot, and stands it in the inbox
unless it stands there already (R230 type 3, R231). -/
def State.messageInput (s : State) : State :=
  match s.oldestSlot, s.blk.inbox with
  | some (va, head, tail), some x =>
    match s.replay 3 with
    | .live =>
      if (s.launch? s.blk.ref.launch).any (fun l => l.mode == 1) then
        (s.asksCtx s.blk.ctx va 128).logInput 3 ((s.ctxRead s.blk.ctx va 128).toOption.getD [])
      else s
    | .input p t =>
      let t := t.ctxStore t.blk.ctx va p
      if tail = head then t.ctxStore t.blk.ctx (x.desc + 0x10) (leBytes ((tail + 1) % 2 ^ 64) 8) else t
    | .diverged d => s.replayHalt s.boundary s.grp.issues d
  | _, _ => s

/-- At an entry the device reads TAIL and HEAD of the bound inbox (R47, R202), with requests where the descriptor lies in the
host's memory (R217; assumption 53). -/
def State.asksEntry (s : State) : State :=
  match s.blk.inbox with
  | none => s
  | some x => s.asksCtx s.blk.ctx (x.desc + 0x10) 16

/-- The entry to the seated group's handler: checked first, and none when the check fails (R459). -/
def State.messageEntry (s : State) : State :=
  match s.checkTarget true s.handlerPc with
  | some e => s.entryFailed s.boundary e 0
  | none => (s.asksEntry.messageInput.modGrp (fun g => { g with trec0 := g.trec0 &&& ~~~(0x100#32) })).enterHandler

/-- A waiting message interrupts its handler group at an instruction boundary (R47). -/
def execHandlerEntry (g : GroupRef) (s : State) : Host.Outcome State Fault Refusal :=
  s.atGroup g (fun t =>
    if t.handlerDue t.blk t.grp && t.grp.active.isSome && t.mayIssue then t.messageEntry else t)

/-! ### Asynchronous faults (R376) -/

/-- When the fault of a failed round is delivered, F of every group's `COLL` of it returns (R448). -/
def Block.releaseColl (b : Block) (org : Origin) : Block :=
  let ds := (b.colls.filter (fun r => r.failed && r.org == org)).map (fun r => r.desc)
  { b with groups := b.groups.map (fun g =>
      ({ g with fabs := g.fabs.map (fun o =>
          match o.kind with
          | .coll d => if ds.contains d then { o with done := true } else o
          | _ => o) } : Group).retireAll) }

/-- The fault that an asynchronous one gives. -/
def AsyncFault.info (f : AsyncFault) : FaultInfo :=
  { code := f.code, hi := f.hi, addr := f.addr, phys := f.phys, info0 := f.info0, info1 := f.info1,
    time := some f.time }

/-- The group's next asynchronous fault is reported at a boundary without a latch-only value, with IMPREC set. -/
def execAsyncFaultDelivery (g : GroupRef) (s : State) : Host.Outcome State Fault Refusal :=
  s.atGroup g (fun t =>
    if t.grp.latchOnly != 0 || t.blk.halted || t.grp.active.isNone then t
    else
      match t.grp.asyncs with
      | [] => t
      | f :: fs =>
        let u := (t.modGrp (fun g => { g with asyncs := fs })).modBlk (fun b => b.releaseColl f.org)
        u.takeFault f.org true f.info)

end Sys2Proof.Machine
end

