-- ==== Sys2Proof/Machine/Settle.lean ====
section
/-! DEFINITION. The settle wave (spec 08 R207 to R209; 22 R438, R442, R445). Counts are raised in steps of their own, so a
step that reads them takes a snapshot. -/

namespace Sys2Proof.Machine

/-- I and, for the wave's purposes, C + L of a job on this device (R207, R438). -/
def State.snapshot (s : State) (j : Nat) : Nat × Nat :=
  let x := s.job j
  (x.i, x.c + x.l)

/-- The token of a wave reaches this device: a `QUIET` that issues from now on records a later wave. -/
def State.tokenHere (s : State) (j k : Nat) : State := s.setJob j { s.job j with arrived := k + 1 }

/-- The member after a rank in ascending order. -/
def State.nextMember (s : State) (j r : Nat) : Option Nat := (s.members j).find? (fun m => decide (r < m))

/-- A `QUIET` of the job that the settled wave covers is complete (R209). -/
def FabOp.settledBy (o : FabOp) (k : Nat) : FabOp :=
  match o.kind with
  | .quiet w0 settled => { o with kind := .quiet w0 (settled || decide (w0 + 1 ≤ k)) }
  | _ => o

/-- settled(k) reaches this device: the `QUIET`s that it covers complete, and one that it does not cover is told to the
leader again. -/
def State.settledHere (s : State) (j k : Nat) : State :=
  let x := s.job j
  let t := (s.setJob j { x with wave := max x.wave k })
  let t := { t with blocks := t.blocks.map (fun (b : Block) =>
    if b.job = j then
      { b with groups := b.groups.map (fun g => { g with fabs := g.fabs.map (fun o => o.settledBy k) }) }
    else b) }
  if t.quietPending j && x.down.isNone then t.sendNotice j else t

/-- The token has returned: equal totals twice, with I equal to C, settle the wave (R208). -/
def State.tokenBack (s : State) (j k si sc : Nat) : State :=
  let x := s.job j
  if x.prev = some (si, sc) ∧ si = sc then
    let t := s.setJob j { x with tokenOut := false, prev := none, noticed := false }
    (((t.members j).filter (· != t.rank)).foldl (fun t m => t.control m (.settled j k)) t).settledHere j k
  else s.setJob j { x with tokenOut := false, prev := some (si, sc) }

/-- The leader learns that a member has a pending `QUIET` (R208). -/
def execQuietNotice (job : Nat) (s : State) : Host.Outcome State Fault Refusal :=
  s.onControl fun s =>
    if s.leader job = s.rank ∧ (s.job job).down.isNone then s.setJob job { s.job job with noticed := true } else s

/-- The leader starts the next wave once the settle period has passed since the last one started. -/
def execSettleWaveStart (job : Nat) (s : State) : Host.Outcome State Fault Refusal :=
  let x := s.job job
  let due := match x.waveStart with
    | none => true
    | some t => decide (s.settlePeriod job ≤ s.time - t)
  if !s.member job s.rank || s.leader job != s.rank || !x.noticed || x.tokenOut || x.down.isSome || !due then .next s
  else
    let k := x.nextWave
    let c := s.snapshot job
    let t := (s.setJob job { x with nextWave := k + 1, tokenOut := true, waveStart := some s.time }).tokenHere job k
    match t.nextMember job t.rank with
    | some m => .next (t.control m (.token job k c.1 c.2))
    | none => .next (t.tokenBack job k c.1 c.2)

/-- A member adds its snapshot to the token and passes it to the next member, the last one to the leader. Where a member
is down the token goes no further (R445). -/
def execSettleToken (job wave si sc : Nat) (s : State) : Host.Outcome State Fault Refusal :=
  s.onControl fun s =>
    if !s.member job s.rank || s.leader job == s.rank || (s.job job).down.isSome then s
    else
      let c := s.snapshot job
      let t := s.tokenHere job wave
      t.control ((t.nextMember job t.rank).getD (t.leader job)) (.token job wave (si + c.1) (sc + c.2))

/-- The token of the wave under way returns to the leader. -/
def execSettleTokenReturn (job wave si sc : Nat) (s : State) : Host.Outcome State Fault Refusal :=
  s.onControl fun s =>
    let x := s.job job
    if s.leader job == s.rank && x.tokenOut && wave + 1 == x.nextWave && x.down.isNone then s.tokenBack job wave si sc else s

/-- A member receives settled(k) (R209). -/
def execSettledReceipt (job wave : Nat) (s : State) : Host.Outcome State Fault Refusal :=
  s.onControl fun s => s.settledHere job wave

end Sys2Proof.Machine
end

