-- ==== Sys2Proof/Machine/Link.lean ====
section
/-! DEFINITION. How requests leave a port, how those that stay unacknowledged are settled, and peers that are down (spec 08
R190 to R193, R199, R205; 22 R437, R438, R441 to R445). -/

namespace Sys2Proof.Machine

/-! ### Peers -/

/-- Requests to a peer that have left and stand unacknowledged, in sequence order. -/
def State.unacked (s : State) (r : Nat) : List Req :=
  sortBy (fun x y => decide (x.pkt.seq < y.pkt.seq)) (s.reqs.filter (fun x => x.left && x.pkt.dst == r))

/-- Requests to a peer that have not left. -/
def State.unsent (s : State) (r : Nat) : List Req := s.reqs.filter (fun x => !x.left && x.pkt.dst == r)

/-- A request that has not left is resolved: its peer is unreachable (R444). -/
def State.failUnsent (s : State) (q : Req) (detail : Nat) : State :=
  let t := { s with reqs := s.reqs.erase q }
  match t.find q.owner with
  | none => t
  | some (i, j) => t.within i j (fun u => (u.modGrp (fun g => g.modFab q.op (fun o =>
      { o.close q with fails := o.fails ++
          [s.failOf (q.lanes.map (fun x => x.1)) 0x32 detail q.pkt.dst 0 (PktBody.addr q.pkt.body) false] }))).finishFab q.op)

/-! ### A member down (R445) -/

/-- Every pending `QUIET` of a job on this device raises PEER_DOWN. -/
def State.failQuiets (s : State) (r : Nat) (g : Group) : Group :=
  let pending (o : FabOp) : Bool := match o.kind with
    | .quiet _ settled => !settled && !o.done
    | _ => false
  let fs := g.fabs.filter pending
  ({ g with fabs := g.fabs.filter (fun o => !pending o)
            asyncs := g.asyncs ++ fs.map (fun o => s.downFault o.org r) } : Group).retireAll

/-- This device finds, or is told, that a member of a job is down: waves stop, `QUIET`s fail, gang launches and
collectives of the job break. -/
def State.jobDown (s : State) (j r : Nat) : State :=
  let x := s.job j
  let t := s.setJob j { x with down := x.down <|> some r, tokenOut := false, noticed := false }
  let t := { t with blocks := t.blocks.map (fun (b : Block) =>
    if b.job = j then { b with groups := b.groups.map (t.failQuiets r) } else b) }
  let t := (t.launches.filter (fun l => l.isGang && l.job == j && l.eligible)).foldl (fun t l => t.gangBroken l) t
  t.collAdvanceAll

/-- A peer is found down (R444): its unacknowledged requests count as lost, every request to it is resolved, and each
job that includes it is told. -/
def State.peerDown (s : State) (r : Nat) : State :=
  let t := s.setPeer r { s.peer r with down := true, settling := none, query := none }
  let t := (t.unacked r).foldl (fun t q => (t.loseReq q.pkt).failReq q 0x32 1 false) t
  let t := (t.unsent r).foldl (fun t q => t.failUnsent q 1) t
  ((List.range 256).filter (fun j => t.member j r)).foldl (fun t j =>
    (((t.members j).filter (· != t.rank)).foldl (fun t m => t.control m (.down j r)) t).jobDown j r) t

/-- A member is told that another is down. -/
def execDownNotice (job rank : Nat) (s : State) : Host.Outcome State Fault Refusal :=
  s.onControl fun s => s.jobDown job rank

/-! ### Settling unacknowledged requests (R437) -/

/-- Sends the query once the port carries traffic. -/
def State.tryQuery (s : State) (r : Nat) : State :=
  let x := s.peer r
  if x.settling.isSome && x.query.isNone && s.peerCarries r then
    (s.setPeer r { x with query := some ⟨x.txSeq, 1, s.time⟩ }).control r (.query x.txSeq)
  else s

/-- Starts to settle the requests to a peer: those that have not left are held (`State.mayLeave`). Whether any stands
unacknowledged makes no difference: a peer with control packets alone is queried too, and may be found down. -/
def State.startSettle (s : State) (r : Nat) : State :=
  let x := s.peer r
  if r = s.rank ∨ x.settling.isSome ∨ x.down then s
  else (s.setPeer r { x with settling := some s.time }).tryQuery r

/-- The data-link layer sends a flit again: it is delivered and counted once (R190). -/
def execLinkReplay (port : Nat) (s : State) : Host.Outcome State Fault Refusal :=
  .next (s.setPort port { s.port port with replays := (s.port port).replays + 1 })

/-- Replay on a peer's port is exhausted: the requests of every peer behind it are settled. -/
def execReplayExhausted (peer : Nat) (s : State) : Host.Outcome State Fault Refusal :=
  let n := s.portOf peer
  if !(s.peer peer).map.getLsbD 31 then .next s
  else
    let t := s.setPort n { s.port n with exhausted := (s.port n).exhausted + 1 }
    .next (((List.range 1024).filter (fun r => (t.peer r).map.getLsbD 31 && t.portOf r == n)).foldl State.startSettle t)

/-- A request to a peer has passed ACKTO unacknowledged. -/
def execAckTimeout (peer : Nat) (s : State) : Host.Outcome State Fault Refusal :=
  if (s.unacked peer).any (fun q => decide (1000 * s.mgmt.ackto < s.time - q.sentAt)) then .next (s.startSettle peer)
  else .next s

/-- The port has not carried traffic within LINKTO: the peer is down. -/
def execLinkWaitTimeout (peer : Nat) (s : State) : Host.Outcome State Fault Refusal :=
  let x := s.peer peer
  match x.settling, x.query with
  | some t, none => .next (if 1000000 * s.mgmt.linkto ≤ s.time - t then s.peerDown peer else s)
  | _, _ => .next s

/-- An unanswered query is sent again, twice at most, ACKTO apart; then the peer is down. -/
def execQueryResend (peer : Nat) (s : State) : Host.Outcome State Fault Refusal :=
  let x := s.peer peer
  match x.query with
  | none => .next s
  | some q =>
    if s.time - q.at_ < 1000 * s.mgmt.ackto then .next s
    else if q.sends < 3 then
      .next ((s.setPeer peer { x with query := some { q with sends := q.sends + 1, at_ := s.time } }).control
        peer (.query q.n))
    else .next (s.peerDown peer)

/-- A query of a peer: the reply names the highest sequence that has performed, and later arrivals below `n` are
discarded. -/
def execPeerQuery (peer n : Nat) (s : State) : Host.Outcome State Fault Refusal :=
  s.onControl fun s =>
    let x := s.peer peer
    let t := s.setPeer peer { x with
      rxSeq := max x.rxSeq n, discard := max x.discard n, early := x.early.filter (fun p => decide (n ≤ p.seq)) }
    ((t.control peer (.reply x.perf)).drainEarly peer x.early.length).collAdvanceAll

/-- A request whose acknowledgement carries a value. -/
def PktBody.returns : PktBody → Bool
  | .read _ _ => true
  | .atomic _ _ _ _ _ r => r
  | _ => false

/-- One unacknowledged request in the light of a reply. -/
def State.settleOne (s : State) (q : Req) (r : Nat) : State :=
  if q.pkt.seq ≤ r then
    if PktBody.returns q.pkt.body then s.failReq q 0x31 0 true else s.settleReq q (fun o => o.close q) id
  else (s.loseReq q.pkt).failReq q 0x31 0 false

/-- The reply acknowledges or resolves every unacknowledged request, and the held ones may leave. -/
def execPeerQueryReply (peer r : Nat) (s : State) : Host.Outcome State Fault Refusal :=
  s.onControl fun s =>
    if (s.peer peer).query.isNone then s
    else
      let t := (s.unacked peer).foldl (fun t q => t.settleOne q r) s
      (t.setPeer peer { t.peer peer with settling := none, query := none }).collAdvanceAll

/-! ### The arbiter (R199, R205) -/

/-- A request leaves its DFI by a port: it takes the next sequence number of its peer and raises I(j) (R193, R205). -/
def State.leave (s : State) (q : Req) (port : Nat) : State :=
  let x := s.peer q.pkt.dst
  let p := { q.pkt with seq := x.txSeq, port := port }
  let y := s.job p.job
  let t := s.setPeer p.dst { x with txSeq := x.txSeq + 1 }
  let t := { (if PktBody.counts p.body then t.setJob p.job { y with inj := y.inj.raise (dfiOf port) } else t) with
    reqs := s.reqs.map (fun (r : Req) => if r = q then { r with pkt := p, left := true, sentAt := s.time } else r) }
  if p.dst = s.rank then t else t.emit (.request p)

/-- A request that could leave now: its bytes stand ready, no earlier request of its group to the same peer waits, and
the peer is neither being settled nor changing its port (R187, R437, R443). -/
def State.mayLeave (s : State) (q : Req) : Bool :=
  let x := s.peer q.pkt.dst
  !q.left && q.ready && (q.pkt.dst == s.rank || (x.settling.isNone && x.oldPort.isNone)) &&
    s.reqs.find? (fun r => !r.left && r.owner == q.owner && r.pkt.dst == q.pkt.dst) == some q

/-- The transaction-layer flits that a request takes: a header flit, and its data in whole flits (R190, R199). -/
def Packet.flits (p : Packet) : Nat :=
  let n := match p.body with
    | .read _ _ => 0
    | .write cells => cells.length
    | .atomic .. => 16
    | .message _ _ payload => 8 + 4 * payload.length
    | .chunk _ c k => Chunk.lineBytes c k
    | .notice _ _ => 8
  1 + (n + 63) / 64

/-- Requests of a class that could leave through a port. -/
def State.offered (s : State) (port cls : Nat) : List Req :=
  s.reqs.filter (fun q => s.mayLeave q && q.pkt.dst != s.rank && q.pkt.cls == cls && (s.peer q.pkt.dst).map.getLsbD 31 &&
    s.portOf q.pkt.dst == port)

/-- Control packets that wait at a port, those of the gang protocol among them (R190, R441). -/
def State.heldFor (s : State) (port : Nat) : List Held :=
  s.heldq.filter (fun h => h.port.isNone && s.heldPort h == some port)

/-- A class has a flit to send through a port. -/
def State.classWaits (s : State) (port cls : Nat) : Bool :=
  !(s.offered port cls).isEmpty

/-- A packet that waited leaves; a control packet is answered with a write completion (R190). -/
def State.letGo (s : State) (h : Held) : State :=
  let t := { s with heldq := s.heldq.erase h }.emit h.pkt
  match h.pkt with
  | .control d _ | .gang _ d _ => t.setPeer d { t.peer d with ctl := (t.peer d).ctl + 1 }
  | _ => t

/-- The next flit of a class goes out: one of its first request, which leaves with its last. -/
def State.sendFlit (s : State) (port cls : Nat) : State :=
  match s.offered port cls with
  | q :: _ =>
    let r := { q with flits := q.flits + 1 }
    let t := { s with reqs := s.reqs.map (fun x => if x = q then r else x) }
    if r.flits < Packet.flits q.pkt then t else t.leave r port
  | [] => s

/-- A class sends whole flits while its deficit covers them, and with nothing left to send it forfeits the deficit. -/
def State.sendClass (s : State) (port cls : Nat) : Nat → Nat → State × Nat
  | 0, d => (s, d)
  | k + 1, d =>
    if !s.classWaits port cls then (s, 0)
    else if d < 64 then (s, d)
    else (s.sendFlit port cls).sendClass port cls k (d - 64)

/-- A peer whose map entry has changed takes the new port once the old one's requests are settled (R443). -/
def State.changePort (s : State) (r : Nat) : State :=
  if (s.peer r).oldPort.isSome && (s.unacked r).isEmpty then s.setPeer r { s.peer r with oldPort := none } else s

/-- Responses that wait for a port leave once it carries traffic. -/
def State.letResponses (s : State) (port : Nat) : State :=
  (s.heldq.filter (fun h => h.port == some port)).foldl State.letGo s

/-- A control packet may go: one flit of 64 bytes in any microsecond (R199, R441). -/
def State.controlDue (s : State) (port : Nat) : Bool :=
  match (s.port port).ctlAt with
  | none => true
  | some t => decide (1000 ≤ s.time - t)

/-- The classes' turns: the next one in ascending order that has something to send. -/
def State.classTurn (s : State) (port : Nat) : State :=
  let p := s.port port
  let order := (List.range 16).map (fun i => (p.turn + i) % 16)
  match order.find? (s.classWaits port) with
  | none => s.setPort port { p with deficits := [] }
  | some c =>
    let skipped := order.takeWhile (· != c)
    let d := Tbl.get 0 p.deficits c + 64 * Tbl.get 1 p.weights c
    let (t, left) := s.sendClass port c (d / 64 + 1) d
    let ds := skipped.foldl (fun ds x => Tbl.set 0 ds x 0) p.deficits
    t.setPort port { t.port port with deficits := Tbl.set 0 ds c left, turn := (c + 1) % 16 }

/-- A turn of a port's deficit round robin (R199), or of the way back inside the package. A control packet goes ahead of
every class. -/
def execArbiterTurn (port : Nat) (s : State) : Host.Outcome State Fault Refusal :=
  if port = loopPort then
    match s.reqs.find? (fun q => s.mayLeave q && q.pkt.dst == s.rank) with
    | none => .next s
    | some q => .next (s.leave q loopPort)
  else if !s.portCarries port then .next s
  else
    let s := ((s.peers.map (fun x => x.1)).foldl State.changePort s).letResponses port
    match s.heldFor port with
    | h :: _ =>
      if s.controlDue port then .next ((s.letGo h).setPort port { s.port port with ctlAt := some s.time })
      else .next (s.classTurn port)
    | [] => .next (s.classTurn port)

end Sys2Proof.Machine
end

