-- ==== Sys2Proof/Machine/Window.lean ====
section
/-! DEFINITION. The registers of the management window (spec 09 R217 to R228, R460, R461; 19 R384, R386, R388, R389; 20
R407; 22 R428, R439, R441, R443, R444). -/

namespace Sys2Proof.Machine

/-! ### Reading -/

/-- DEVID, and REV of the production stepping (R460). -/
def devId : Nat := 0x0A106E57
def devRev : Nat := 0xB0

/-- The MODE byte of a port as it reads (R223). -/
def Port.modeByte (p : Port) : Byte :=
  (p.mode &&& 0x27) ||| (if p.trained then 8 else 0) ||| (if p.voxgo then 16 else 0)

/-- A word of the control page (R218, R226, R384, R388, R428). JOB[7:0] of the repair register, which R428 leaves undefined
after reset (R4), reads as zero, as the write-only rest of it (assumption 7). -/
def State.ctlRead (s : State) : Nat → Word
  | 0x00 => halfOf s.mgmt.ctxtab.toNat 0
  | 0x04 => halfOf s.mgmt.ctxtab.toNat 1
  | 0x08 => halfOf s.mgmt.jobtab.toNat 0
  | 0x0C => halfOf s.mgmt.jobtab.toNat 1
  | 0x10 => halfOf s.mgmt.keytab.toNat 0
  | 0x14 => halfOf s.mgmt.keytab.toNat 1
  | 0x1C => s.mgmt.preq
  | 0x20 => s.mgmt.teniso
  | 0x24 => BitVec.ofNat 32 s.mgmt.powercap
  | 0x30 => halfOf s.mgmt.resynca.toNat 0
  | 0x34 => halfOf s.mgmt.resynca.toNat 1
  | 0x38 => if s.mgmt.resyncDone then 0x40000000 else 0
  | 0x3C => BitVec.ofNat 32 s.mgmt.ackto
  | 0x44 => BitVec.ofNat 32 s.mgmt.feto
  | 0x48 => BitVec.ofNat 32 s.mgmt.linkto
  | 0x50 => halfOf s.mgmt.hladdr.toNat 0
  | 0x54 => halfOf s.mgmt.hladdr.toNat 1
  | 0x58 => s.mgmt.hlctl
  | 0x5C => s.mgmt.hlseq
  | _ => 0

/-- A word of a queue's block (R219). -/
def Queue.read (q : Queue) (o : Nat) : Word :=
  match o with
  | 0x00 => q.ctl
  | 0x04 => q.msi
  | 0x08 => q.nextSeq
  | 0x0C => q.doneSeq
  | 0x10 => halfOf q.cring.toNat 0
  | 0x14 => halfOf q.cring.toNat 1
  | 0x18 => halfOf q.cword.toNat 0
  | 0x1C => halfOf q.cword.toNat 1
  | _ => if 0x20 ≤ o ∧ o < 0x40 then BitVec.ofNat 32 (q.grant.toNat / 2 ^ (8 * (o - 0x20))) else 0

/-- A telemetry word (R228, R386). -/
def Platform.read (p : Platform) (o : Nat) : Nat :=
  if o = 0 then p.sensors.package
  else if o < 0x18 then p.sensors.consumers.getD (o / 4 - 1) 0
  else if o = 0x18 then p.clock
  else if o = 0x1C then p.sensors.junction
  else if o = 0x20 then p.sensors.inlet
  else if o = 0x24 then p.gate % 32 + (if p.above then 2 ^ 31 else 0)
  else if 0x100 ≤ o ∧ o < 0x118 then Tbl.get 0 p.corrected ((o - 0x100) / 4)
  else 0

/-- A byte of the window's byte tables: core maps, port blocks and the MSI-X table. -/
def State.tableByte (s : State) (off : Nat) : Byte :=
  if 0x20000 ≤ off ∧ off < 0x20400 then
    if off % 256 < 160 then Tbl.get 0 s.mgmt.coreMap (off - 0x20000) else 0
  else if 0x31000 ≤ off ∧ off < 0x32000 then
    let p := s.port ((off - 0x31000) / 32)
    if off % 32 < 16 then BitVec.ofNat 8 (Tbl.get 1 p.weights (off % 32)) else if off % 32 = 16 then p.modeByte else 0
  else s.msixByte (off - 0x40000)

/-- Whether an offset lies in one of the byte tables. -/
def inTable (off : Nat) : Bool :=
  decide (0x20000 ≤ off ∧ off < 0x20400 ∨ 0x31000 ≤ off ∧ off < 0x32000 ∨ 0x40000 ≤ off ∧ off < 0x48000)

/-- A word of the window; offsets that the map omits read zero (R6). -/
def State.windowWord (s : State) (off : Nat) : Word :=
  if inTable off then BitVec.ofNat 32 (leNat ((List.range 4).map (fun i => s.tableByte (off + i))))
  else if off < 0x1000 then
    match off with
    | 0x0 => BitVec.ofNat 32 devId
    | 0x4 => BitVec.ofNat 32 devRev
    | 0x8 => s.mgmt.status
    | 0xC => BitVec.ofNat 32 s.mgmt.rank
    | _ => 0
  else if off < 0x2000 then s.ctlRead (off - 0x1000)
  else if 0x10000 ≤ off ∧ off < 0x12000 then (s.queue ((off - 0x10000) / 128)).read (off % 128)
  else if 0x20400 ≤ off ∧ off < 0x20480 then
    BitVec.ofNat 32 ((Tbl.get fusesDefault s.fuses ((off - 0x20400) / 32)).toNat / 2 ^ (8 * (off % 32)))
  else if 0x30000 ≤ off ∧ off < 0x31000 then (s.peer ((off - 0x30000) / 4)).map
  else if 0x48000 ≤ off ∧ off < 0x48100 then
    BitVec.ofNat 32 (leNat ((List.range 4).map (fun i =>
      (List.range 8).foldl (fun (b : Byte) k =>
        if Tbl.get false s.mgmt.msixPending (8 * (off - 0x48000 + i) + k) then b ||| (1#8 <<< k) else b) 0)))
  else if 0x50000 ≤ off ∧ off < 0x51000 then BitVec.ofNat 32 (s.plat.read (off - 0x50000))
  else 0

/-- A byte of the window. -/
def State.windowByte (s : State) (off : Nat) : Byte :=
  BitVec.ofNat 8 ((s.windowWord (off / 4 * 4)).toNat / 2 ^ (8 * (off % 4)))

/-! ### Registers that only store -/

/-- Replaces one half of a register of 64 bits. -/
def setHalf (v : Dword) (k : Nat) (w : Word) : Dword :=
  if k = 0 then v.extractLsb' 32 32 ++ w else w ++ v.extractLsb' 0 32

/-- Changes the management registers. -/
def State.modMgmt (s : State) (f : Mgmt → Mgmt) : State := { s with mgmt := f s.mgmt }

/-- JOBRESET (R192, R223): the job's counters and wave number go to zero. -/
def State.jobReset (s : State) (w : Word) : State := s.setJob (w.toNat % 256) Job.reset

/-- The repair register (R428, R439). -/
def State.repair (s : State) (w : Word) : State :=
  let j := w.toNat % 256
  let x := s.job j
  if w.getLsbD 31 then
    s.setJob j { x with inj := (List.range 4).foldl (fun t d => Tbl.set 0 t d (Tbl.get 0 x.inj d - Tbl.get 0 x.lost d)) [],
                        lost := [] }
  else s

/-- A write of HLCTL (R226): GO starts a host launch unless one is under way; without GO the fields are stored.
DESIGN CHOICE: such a write while DONE is clear changes nothing (assumption 73). -/
def State.hlWrite (s : State) (w : Word) : State :=
  if s.mgmt.hlctl &&& hlDone = 0 then s
  else if w.getLsbD 31 then (s.modMgmt (fun m => { m with hlctl := w &&& 0xFF3F })).tryHostLaunch
  else s.modMgmt (fun m => { m with hlctl := (m.hlctl &&& (hlDone ||| hlErr)) ||| (w &&& 0xFF3F) })

/-- The package's limit (R16, R228): POWERCAP, which sets it within 2,000 W to 4,200 W (assumption 50). -/
def State.powerLimit (s : State) : Nat := min 4200 (max 2000 s.mgmt.powercap)

/-- The package draws above its limit. -/
def State.packageOver (s : State) : Bool := decide (1000 * s.powerLimit < s.plat.sensors.package)

/-- The flag of telemetry: the package draws above its limit at 500 MHz with r = 1. -/
def State.noteAbove (s : State) : State :=
  { s with plat := { s.plat with above := s.plat.clock == 500 && s.plat.gate == 1 && s.packageOver } }

/-- POWERCAP[12:0] (R228). -/
def State.powercapWrite (s : State) (w : Word) : State :=
  (s.modMgmt (fun m => { m with powercap := w.toNat % 2 ^ 13 })).noteAbove

/-- ACKTO (R428): 0 is stored as 1. -/
def State.acktoWrite (s : State) (w : Word) : State := s.modMgmt (fun m => { m with ackto := max 1 (w.toNat % 2 ^ 16) })

/-- A write of zero clears a counter of corrected errors (R386). -/
def State.eccClear (s : State) (k : Nat) (w : Word) : State :=
  if w = 0 then { s with plat := { s.plat with corrected := Tbl.set 0 s.plat.corrected k 0 } } else s

/-! ### Queue blocks (R219, R407) -/

/-- A write of CTL. While ENABLE is set only ENABLE changes; setting it sets NEXTSEQ and DONESEQ to zero. -/
def Queue.writeCtl (q : Queue) (w : Word) : Queue :=
  if q.enabled then { q with ctl := (q.ctl &&& ~~~(8#32)) ||| (w &&& 8) }
  else
    let x := { q with ctl := w &&& 0xFFFFF03F }
    if w.getLsbD 3 then { x with nextSeq := 0, doneSeq := 0, done := [] } else x

/-- A write of a word of a queue's block. -/
def Queue.write (q : Queue) (o : Nat) (w : Word) : Queue :=
  match o with
  | 0x00 => q.writeCtl w
  | 0x04 => { q with msi := w &&& 0x800007FF }
  | 0x10 => if q.enabled then q else { q with cring := setHalf q.cring 0 w }
  | 0x14 => if q.enabled then q else { q with cring := setHalf q.cring 1 w }
  | 0x18 => if q.enabled then q else { q with cword := setHalf q.cword 0 w }
  | 0x1C => if q.enabled then q else { q with cword := setHalf q.cword 1 w }
  | _ =>
    if 0x20 ≤ o ∧ o < 0x40 then
      let k := 8 * (o - 0x20)
      { q with grant := BitVec.ofNat 256 (q.grant.toNat % 2 ^ k + w.toNat * 2 ^ k + q.grant.toNat / 2 ^ (k + 32) * 2 ^ (k + 32)) }
    else q

def State.queueWrite (s : State) (q o : Nat) (w : Word) : State := s.setQueue q ((s.queue q).write o w)

/-! ### Ports and peers (R223, R441, R443, R444) -/

/-- STATUS bit 3: every enabled port has trained, after step 3 of R227; with no port enabled the bit stays as it is (assumption
50). -/
def State.portStatus (s : State) : State :=
  if s.mgmt.status.getLsbD 2 && s.ports.any (fun x => x.2.mode.getLsbD 5) &&
      s.ports.all (fun x => !x.2.mode.getLsbD 5 || x.2.trained) then
    s.modMgmt (fun m => { m with status := m.status ||| 8 })
  else s

/-- A write of MODE: with EN set the port trains again, with EN clear it goes down. -/
def State.modeWrite (s : State) (port : Nat) (mode : Byte) : State :=
  (s.setPort port { s.port port with mode := mode &&& 0x27, trained := false, voxgo := false }).portStatus

/-- A port's training completes; Voxgo-512 mode is in use only where it was requested (R191). -/
def State.portTrains (s : State) (port : Nat) (voxgo : Bool) : State :=
  let p := s.port port
  if p.mode.getLsbD 5 then
    let t := (s.setPort port { p with trained := true, voxgo := voxgo && p.mode.getLsbD 2 }).portStatus
    ((List.range 1024).filter (fun r => (t.peer r).settling.isSome && t.portOf r == port)).foldl State.tryQuery t
  else s

/-- A class weight of 0 is stored as 1 (R441). -/
def State.weightWrite (s : State) (port cls : Nat) (w : Byte) : State :=
  let p := s.port port
  s.setPort port { p with weights := Tbl.set 1 p.weights cls (max 1 w.toNat) }

/-- A write of a peer's entry (R443, R444): new requests are held until the old port's are settled; an invalid entry
makes the peer unreachable. -/
def State.mapWrite (s : State) (r : Nat) (w : Word) : State :=
  let x := s.peer r
  let new := w &&& 0x8000007F
  let moves := x.map.getLsbD 31 && new != x.map && !(s.unacked r).isEmpty
  let t := s.setPeer r { x with map := new, oldPort := if moves then x.oldPort <|> some (s.portOf r) else x.oldPort }
  if r = s.rank then t
  else if !new.getLsbD 31 then (t.unsent r).foldl (fun t q => t.failUnsent q 2) t
  else t.tryQuery r

/-! ### FAULTCTL (R384) -/

/-- A block that a collective or a failed save keeps resident (R105, R408). -/
def Block.keptResident (b : Block) : Bool :=
  b.stuck || (b.halted && b.groups.any (fun g => g.fabs.any (fun o =>
    match o.kind with
    | .coll _ => !o.done
    | _ => false)))

/-- The launch that FAULTCTL names: the oldest live one of its queue with the sequence number. -/
def State.faultTarget (s : State) (w : Word) : Option Launch :=
  (s.launchesOf (w.toNat / 2 ^ 24 % 64)).find? (fun l => l.ref.seq % 2 ^ 24 == w.toNat % 2 ^ 24)

/-- A context halted by a fault goes on once none of its blocks is held (R383). -/
def State.unhalt (s : State) (c : Nat) : State :=
  if s.blocks.any (fun b => b.ctx == c && b.held) || s.saved.any (fun x => x.blk.ctx == c && x.blk.held) then s
  else s.setCtx c { s.ctx c with halted := false }

/-- ACTION 1: every held block of the launch may be dispatched again; one kept resident resumes in place. -/
def State.releaseHeld (s : State) (l : Launch) : State :=
  let mine (b : Block) : Bool := b.ref.launch == l.ref && b.held
  if s.blocks.any mine || s.saved.any (fun x => mine x.blk) then
    let t := { s with
      blocks := s.blocks.map (fun (b : Block) =>
        if mine b then
          if b.keptResident then { b with held := false, stuck := false, halted := false, halting := none }
          else { b with held := false }
        else b)
      saved := s.saved.map (fun (x : Saved) => if mine x.blk then { x with blk := { x.blk with held := false } } else x) }
    t.unhalt l.ctx
  else s

/-- ACTION 2: the launch is ended. A gang launch that has not committed tells its leader, as a refused one does
(R412). -/
def State.endLaunch (s : State) (l : Launch) : State :=
  let t := if l.isGang && (l.gang == .idle || l.gang == .reserved || l.gang == .withdrawing) then s.gangRefused l else s
  let t := { t with
    saved := t.saved.filter (fun (x : Saved) => x.blk.ref.launch != l.ref)
    blocks := t.blocks.map (fun (b : Block) =>
      if b.ref.launch = l.ref then
        { t.askHalt .ended b with stuck := false, held := false }
      else b) }
  let t := (t.noteStatus l.ref 0xFF).modLaunch l.ref (fun x =>
    { x with stopped := true, eligible := true, waiting := [], again := []
             gang := if x.gang = .committed ∨ x.gang = .broken then x.gang else .aborted })
  t.unhalt l.ctx

/-- A write of FAULTCTL. -/
def State.faultWrite (s : State) (w : Word) : State :=
  match s.faultTarget w with
  | none => s
  | some l =>
    match w.toNat / 2 ^ 30 with
    | 1 => s.releaseHeld l
    | 2 => s.endLaunch l
    | _ => s

/-! ### RESYNC (R388, R389) -/

/-- One bit of the CRC-32C remainder, reflected. -/
def crcBit (c : Word) : Word := if c.getLsbD 0 then (c >>> 1) ^^^ 0x82F63B78 else c >>> 1

/-- CRC-32C of bytes. -/
def crc32c (bs : List Byte) : Word :=
  ~~~(bs.foldl (fun c b => (List.range 8).foldl (fun c _ => crcBit c) (c ^^^ b.setWidth 32)) 0xFFFFFFFF#32)

/-- A digest of a table in memory. -/
def State.digest (s : State) (a : Dword) (n : Nat) : Nat := (crc32c (Memory.bytes s.mem a.toNat n)).toNat

/-- Pads bytes with zeros to a length. -/
def padTo (n : Nat) (bs : List Byte) : List Byte := bs ++ List.replicate (n - bs.length) 0

/-- The header of the summary. -/
def State.resyncHeader (s : State) : List Byte :=
  padTo 256 (
    [0x4E595352, devId, devRev, s.rank, s.mgmt.status.toNat].flatMap (fun x => leBytes x 4) ++ leBytes s.time 8 ++
    ([s.mgmt.teniso.toNat, s.mgmt.powercap, s.plat.clock, s.digest s.mgmt.ctxtab 32768, s.digest s.mgmt.keytab 262144,
      s.digest s.mgmt.jobtab 65536] ++ (List.range 6).map (Tbl.get 0 s.plat.corrected)).flatMap (fun x => leBytes x 4))

/-- Held blocks of which a condition holds, resident and saved. -/
def State.heldCount (s : State) (p : Block → Bool) : Nat :=
  ((s.blocks ++ s.saved.map (fun x => x.blk)).filter (fun b => b.held && p b)).length

/-- The entry of a queue. -/
def State.resyncQueue (s : State) (q : Nat) : List Byte :=
  let ls := s.launchesOf q
  padTo 64 ((List.range 8).flatMap (fun i => leBytes ((s.queue q).read (4 * i)).toNat 4) ++
    leBytes ls.length 4 ++ leBytes ((ls.head?.map (fun l => l.ref.seq)).getD 0) 4 ++
    leBytes (s.heldCount (fun b => b.ref.launch.queue == q)) 4)

/-- The entry of a job. -/
def State.resyncJob (s : State) (j : Nat) : List Byte :=
  let x := s.job j
  [x.i, x.c, x.l, x.wave].flatMap (fun v => leBytes v 8)

/-- The entry of a context. -/
def State.resyncCtx (s : State) (c : Nat) : List Byte :=
  let q := s.faultQ c
  let word (off : Nat) : Nat :=
    if s.ctxValid c && q != 0 then ((s.ctxNat c (q + BitVec.ofNat 64 off) 8).toOption).getD 0 else 0
  leBytes (word 0x10) 8 ++ leBytes (word 0x20) 8 ++ leBytes (s.blocks.filter (fun b => b.ctx == c)).length 4 ++
    leBytes (s.heldCount (fun b => b.ctx == c)) 4 ++ leBytes (if (s.ctx c).halted then 1 else 0) 4 ++ leBytes (s.ctx c).lost 4

/-- The entry of a port. -/
def State.resyncPort (s : State) (n : Nat) : List Byte :=
  let p := s.port n
  leBytes p.modeByte.toNat 4 ++ leBytes p.replays 4 ++ leBytes p.exhausted 4 ++ leBytes p.refusals 4

/-- Entry `k` of the summary with its offset (R389): the header, 64 queues, 256 jobs, 256 contexts, 128 ports. -/
def State.resyncEntry (s : State) (k : Nat) : Nat × List Byte :=
  if k = 0 then (0, s.resyncHeader)
  else if k < 65 then (256 + 64 * (k - 1), s.resyncQueue (k - 1))
  else if k < 321 then (4352 + 32 * (k - 65), s.resyncJob (k - 65))
  else if k < 577 then (12544 + 32 * (k - 321), s.resyncCtx (k - 321))
  else (20736 + 16 * (k - 577), s.resyncPort (k - 577))

/-- Entries of the summary. -/
def resyncEntries : Nat := 705

/-- A write of RESYNC starts the command unless one is under way (R388). -/
def State.resyncWrite (s : State) (w : Word) : State :=
  if w.getLsbD 31 && s.mgmt.resync.isNone then
    s.modMgmt (fun m => { m with resync := some (m.resynca.toNat, 0), resyncDone := false })
  else s

/-- The command takes its next entry and writes it at its home, each entry at a time of its own (R390); with the last the
summary has performed. -/
def State.resyncStep (s : State) : State :=
  match s.mgmt.resync with
  | none => s
  | some (base, k) =>
    let e := s.resyncEntry k
    let t := s.homeWrite (base + e.1) e.2
    if k + 1 < resyncEntries then t.modMgmt (fun m => { m with resync := some (base, k + 1) })
    else t.modMgmt (fun m => { m with resync := none, resyncDone := true })

/-! ### Writing the window -/

/-- A write of a word of the control page. -/
def State.ctlWrite (s : State) (o : Nat) (w : Word) : State :=
  match o with
  | 0x00 => s.modMgmt (fun m => { m with ctxtab := setHalf m.ctxtab 0 w })
  | 0x04 => s.modMgmt (fun m => { m with ctxtab := setHalf m.ctxtab 1 w })
  | 0x08 => s.modMgmt (fun m => { m with jobtab := setHalf m.jobtab 0 w })
  | 0x0C => s.modMgmt (fun m => { m with jobtab := setHalf m.jobtab 1 w })
  | 0x10 => s.modMgmt (fun m => { m with keytab := setHalf m.keytab 0 w })
  | 0x14 => s.modMgmt (fun m => { m with keytab := setHalf m.keytab 1 w })
  | 0x18 => s.jobReset w
  | 0x1C => s.preqWrite w
  | 0x20 => s.modMgmt (fun m => { m with teniso := w &&& 1 })
  | 0x24 => s.powercapWrite w
  | 0x28 => s.faultWrite w
  | 0x30 => s.modMgmt (fun m => { m with resynca := setHalf m.resynca 0 w })
  | 0x34 => s.modMgmt (fun m => { m with resynca := setHalf m.resynca 1 w })
  | 0x38 => s.resyncWrite w
  | 0x3C => s.acktoWrite w
  | 0x40 => s.repair w
  | 0x44 => s.modMgmt (fun m => { m with feto := w.toNat % 2 ^ 24 })
  | 0x48 => s.modMgmt (fun m => { m with linkto := w.toNat % 2 ^ 16 })
  | 0x50 => s.modMgmt (fun m => { m with hladdr := setHalf m.hladdr 0 w })
  | 0x54 => s.modMgmt (fun m => { m with hladdr := setHalf m.hladdr 1 w })
  | 0x58 => s.hlWrite w
  | _ => s

/-- A write of a byte of the byte tables. An entry of the MSI-X table that is no longer masked sends what stands
pending (R220; assumption 9). -/
def State.tableWrite (s : State) (off : Nat) (b : Byte) : State :=
  if 0x20000 ≤ off ∧ off < 0x20400 then
    if off % 256 < 160 then s.modMgmt (fun m => { m with coreMap := Tbl.set 0 m.coreMap (off - 0x20000) b }) else s
  else if 0x31000 ≤ off ∧ off < 0x32000 then
    let port := (off - 0x31000) / 32
    if off % 32 < 16 then s.weightWrite port (off % 32) b else if off % 32 = 16 then s.modeWrite port b else s
  else
    let t := s.modMgmt (fun m => { m with msixTable := Memory.setByte m.msixTable (off - 0x40000) (b ^^^ msixInit (off - 0x40000)) })
    let v := (off - 0x40000) / 16
    if off % 16 = 12 ∧ !b.getLsbD 0 ∧ Tbl.get false t.mgmt.msixPending v then
      (t.modMgmt (fun m => { m with msixPending := Tbl.set false m.msixPending v false })).emit (.msi v)
    else t

/-- A write of a word of the rest of the window; a read-only or reserved offset keeps nothing. -/
def State.wordWrite (s : State) (off : Nat) (w : Word) : State :=
  if off = 0xC then s.modMgmt (fun m => { m with rank := w.toNat % 1024 })
  else if 0x1000 ≤ off ∧ off < 0x2000 then s.ctlWrite (off - 0x1000) w
  else if 0x10000 ≤ off ∧ off < 0x12000 then s.queueWrite ((off - 0x10000) / 128) (off % 128) w
  else if 0x30000 ≤ off ∧ off < 0x31000 then s.mapWrite ((off - 0x30000) / 4) w
  else if 0x50100 ≤ off ∧ off < 0x50118 then s.eccClear ((off - 0x50100) / 4) w
  else s

/-- A word with some of its bytes replaced by those of a write at `off`. -/
def mergeWord (old : Word) (base off : Nat) (bytes : List Byte) : Word :=
  BitVec.ofNat 32 (leNat ((List.range 4).map (fun i =>
    if off ≤ base + i then (bytes[base + i - off]?).getD (BitVec.ofNat 8 (old.toNat / 2 ^ (8 * i)))
    else BitVec.ofNat 8 (old.toNat / 2 ^ (8 * i)))))

/-- A write of bytes into the window. -/
def State.windowWrite (s : State) (off : Nat) (bytes : List Byte) : State :=
  if inTable off then (bytes.mapIdx (fun i b => (off + i, b))).foldl (fun t x => t.tableWrite x.1 x.2) s
  else
    (List.range ((off % 4 + bytes.length + 3) / 4)).foldl (fun t i =>
      let base := off / 4 * 4 + 4 * i
      t.wordWrite base (mergeWord (t.windowWord base) base off bytes)) s

end Sys2Proof.Machine
end

