-- ==== Sys2Proof/Machine/Platform.lean ====
section
/-! DEFINITION. What the host, system software and the management controller do to the device (spec 01 R17; 03 R59; 09 R217
to R228, R461; 19 R384 to R388). -/

namespace Sys2Proof.Machine

/-! ### The host port (R59, R217) -/

/-- Where BAR0 stands in the host addresses of the model, above BAR2's 1 TiB. -/
def bar0 : Nat := 2 ^ 40

/-- Bytes of HBM4, as BAR2 maps it. -/
def hbmBytes : Nat := 0xC000000000

/-- A write of the host at the homes. A failing word that it would change in part keeps its bits, and the failure, which
has no consumer, is noted (R387). -/
def State.hostStore (s : State) (pa : Nat) (bytes : List Byte) : State :=
  let cells := cellsFrom pa bytes
  (s.storeCells cells).noteEcc (s.partBad (cells.map (fun c => c.1)))

/-- A host write through BAR2 performs at its homes in the order of arrival; one through BAR0 writes the management
window. -/
def execHostWrite (addr : Nat) (bytes : List Byte) (s : State) : Host.Outcome State Fault Refusal :=
  if addr + bytes.length ≤ hbmBytes then .next (s.hostStore addr bytes)
  else if bar0 ≤ addr ∧ addr + bytes.length ≤ bar0 + 2 ^ 26 then .next (s.windowWrite (addr - bar0) bytes)
  else .fault .hostReserved

/-- Bytes that the host reads; those of a word that fails its check are undefined. -/
def State.hostBytes (s : State) (pa n : Nat) : List Byte :=
  (List.range n).map (fun i =>
    if s.badMem.contains ((pa + i) / 8) then Config.freeByte s.free i else Memory.byte s.mem (pa + i))

/-- A host read is served at the homes, or from the management window. -/
def execHostRead (addr len : Nat) (s : State) : Host.Outcome State Fault Refusal :=
  if addr + len ≤ hbmBytes then .next { s.emit (.hostData (s.hostBytes addr len)) with free := s.free + 1 }
  else if bar0 ≤ addr ∧ addr + len ≤ bar0 + 2 ^ 26 then
    .next (s.emit (.hostData ((List.range len).map (fun i => s.windowByte (addr - bar0 + i)))))
  else .fault .hostReserved

/-! ### Writes of the management window -/

def execPreqGo (w : BitVec 32) (s : State) : Host.Outcome State Fault Refusal := .next (s.preqWrite (w ||| 0x80000000))

/-- A write of PREQ with HOLD and GO clear releases the hold of the context it names (R225). -/
def execPreqHoldRelease (w : BitVec 32) (s : State) : Host.Outcome State Fault Refusal := .next (s.preqWrite (w &&& 0x3FFFFFFF))

def execHostLaunch (w : BitVec 32) (s : State) : Host.Outcome State Fault Refusal := .next (s.hlWrite (w ||| 0x80000000))

def execJobreset (w : BitVec 32) (s : State) : Host.Outcome State Fault Refusal := .next (s.jobReset w)

/-- ACTION 1 of FAULTCTL, whatever [31:30] of `w` holds. -/
def execFaultctlRelease (w : BitVec 32) (s : State) : Host.Outcome State Fault Refusal :=
  .next (s.faultWrite ((w &&& 0x3FFFFFFF) ||| 0x40000000))

/-- ACTION 2 of FAULTCTL, whatever [31:30] of `w` holds. -/
def execFaultctlEnd (w : BitVec 32) (s : State) : Host.Outcome State Fault Refusal :=
  .next (s.faultWrite ((w &&& 0x3FFFFFFF) ||| 0x80000000))

/-- The RESYNC command starts (R388); its entries follow in turns of their own. -/
def execResync (w : BitVec 32) (s : State) : Host.Outcome State Fault Refusal := .next (s.resyncWrite w)

def execJobRepair (w : BitVec 32) (s : State) : Host.Outcome State Fault Refusal := .next (s.repair w)

def execPortEnable (port : Nat) (mode : Byte) (s : State) : Host.Outcome State Fault Refusal :=
  .next (s.modeWrite port (mode ||| 0x20))

def execPortDisable (port : Nat) (mode : Byte) (s : State) : Host.Outcome State Fault Refusal :=
  .next (s.modeWrite port (mode &&& ~~~(0x20#8)))

def execPortTrained (port : Nat) (voxgo : Bool) (s : State) : Host.Outcome State Fault Refusal :=
  .next (s.portTrains port voxgo)

def execQueueEnable (q : Nat) (w : BitVec 32) (s : State) : Host.Outcome State Fault Refusal :=
  .next (s.queueWrite q 0 (w ||| 8))

def execQueueDisable (q : Nat) (w : BitVec 32) (s : State) : Host.Outcome State Fault Refusal :=
  .next (s.queueWrite q 0 (w &&& ~~~(8#32)))

def execPeerMapWrite (rank : Nat) (w : BitVec 32) (s : State) : Host.Outcome State Fault Refusal := .next (s.mapWrite rank w)

def execAcktoWrite (w : BitVec 32) (s : State) : Host.Outcome State Fault Refusal := .next (s.acktoWrite w)

def execPortWeightWrite (port cls : Nat) (w : Byte) (s : State) : Host.Outcome State Fault Refusal :=
  .next (s.weightWrite port cls w)

def execEccCounterClear (k : Nat) (w : BitVec 32) (s : State) : Host.Outcome State Fault Refusal := .next (s.eccClear k w)

def execPowercapWrite (w : BitVec 32) (s : State) : Host.Outcome State Fault Refusal := .next (s.powercapWrite w)

/-- A write of 1, 2, 4 or 8 bytes at an offset of the window. -/
def execMgmtRegisterWrite (off size : Nat) (value : Dword) (s : State) : Host.Outcome State Fault Refusal :=
  .next (s.windowWrite off (leBytes value.toNat size))

/-! ### Bring-up (R227) -/

/-- The enabled physical cores of a die in ascending order. -/
def State.enabledCores (s : State) (d : Nat) : List Nat := (List.range 168).filter (Tbl.get fusesDefault s.fuses d).getLsbD

/-- The logical core maps as the management controller writes them (R461). -/
def State.freshMaps (s : State) : Tbl Byte :=
  (List.range 4).foldl (fun t d =>
    (((s.enabledCores d).take 160).mapIdx (fun c p => (c, p))).foldl (fun t x =>
      Tbl.set 0 t (256 * d + x.1) (BitVec.ofNat 8 x.2)) t) []

/-- Device reset and step 1 of bring-up: every register at its reset value, TIME at zero, the core maps written. What
memory holds is not written until it is trained. -/
def execDeviceReset (s : State) : Host.Outcome State Fault Refusal :=
  .next { State.reset with
    agenda := s.agenda
    mem := s.mem
    badMem := s.badMem
    fuses := s.fuses
    out := s.out
    free := s.free
    mgmt := { Mgmt.reset with status := 1, coreMap := s.freshMaps } }

/-- Sets a bit of STATUS whose step starts only after the one before. -/
def State.bootStep (s : State) (bit : Nat) (f : State → State) : State :=
  if s.mgmt.status.getLsbD (bit - 1) && !s.mgmt.status.getLsbD bit then
    (f s).modMgmt (fun m => { m with status := m.status ||| (1#32 <<< bit) })
  else s

/-- Step 2: the host port trains. -/
def execPcieLinkTrained (s : State) : Host.Outcome State Fault Refusal := .next (s.bootStep 1 id)

/-- Step 3: HBM4 is trained and written with zeros. -/
def execHbmTrained (s : State) : Host.Outcome State Fault Refusal :=
  .next (s.bootStep 2 (fun t => { t with
    mem := t.mem.filter (fun x => !inHbm x.1), badMem := t.badMem.filter (fun w => !inHbm (8 * w)) }))

/-! ### Clock and issue gate (R17, R228) -/

/-- The allotments of R16 in mW, in the order of its table: cores, HBM4, SerDes, mesh and L2, host port and management. -/
def allotments : List Nat := [2300000, 640000, 420000, 480000, 360000]

/-- A consumer draws above its allotment. The controller throttles neither HBM4 nor the fabric ports nor the host port
(R228), so only the cores, and the mesh and L2, count (assumption 50). -/
def overAllotted (x : Sensors) : Bool :=
  [0, 3].any (fun k => decide (allotments.getD k 0 < x.consumers.getD k 0))

/-- The projected core draw or a consumer exceeds its allotment, or the package its limit (R16, R17, R228). -/
def State.overDraw (s : State) : Bool :=
  let x := s.plat.sensors
  decide (2300000 < x.coreDraw) || overAllotted x || s.packageOver

/-- A junction exceeds 95 °C. -/
def hot (x : Sensors) : Bool := decide (950 < x.junction)

/-- At 105 °C no core issues; r rises from 0 again once every junction has fallen to 100 °C (R228). -/
def thermalGate (r : Nat) (x : Sensors) : Nat :=
  if 1050 ≤ x.junction then 0 else if r = 0 ∧ x.junction ≤ 1000 then 1 else r

/-- The controller takes its readings, and acts by `f` on the clock and the gate; whatever it does, no core issues at
105 °C. -/
def State.sense (s : State) (x : Sensors) (f : State → Platform) : State :=
  let t := { s with plat := { s.plat with sensors := x } }
  let p := f t
  let r := if s.plat.gate = 0 ∨ 1050 ≤ x.junction then thermalGate s.plat.gate x else p.gate
  { t with plat := { p with gate := r } }.noteAbove

/-- One step of 25 MHz down, or up again once the draw and the temperature allow, within 500 to 850 MHz. -/
def execClockStep (x : Sensors) (s : State) : Host.Outcome State Fault Refusal :=
  .next (s.sense x (fun t =>
    let c := t.plat.clock
    { t.plat with clock :=
        if t.overDraw || hot x then max 500 (c - 25) else if t.plat.gate = 16 then min 850 (c + 25) else c }))

/-- At 500 MHz the gate r steps down while the package exceeds its limit or a junction 95 °C, and up again in the same
steps. -/
def execIssueGateStep (x : Sensors) (s : State) : Host.Outcome State Fault Refusal :=
  .next (s.sense x (fun t =>
    let r := t.plat.gate
    { t.plat with gate :=
        if t.packageOver || hot x then (if t.plat.clock = 500 then max 1 (r - 1) else r) else min 16 (r + 1) }))

/-- The controller looks at the junctions alone (R228). -/
def execThermalIssueStop (x : Sensors) (s : State) : Host.Outcome State Fault Refusal := .next (s.sense x (fun t => t.plat))

end Sys2Proof.Machine
end

