-- ==== Sys2Proof/Machine/Stats.lean ====
section
/-! DEFINITION. Statistics instructions, class 0x5 (spec 13 R298 to R301, arithmetic of 05 R132 to R136). -/

namespace Sys2Proof.Machine

/-- The first register of a triple. -/
def tripleReg : Opnd → Nat
  | .v n => n.toNat
  | _ => 0

/-- The triple of a lane. -/
def Group.triple (g : Group) (o : Opnd) (l : Nat) : Triple :=
  ⟨g.readN o 0 l, g.readN o 1 l, g.readN o 2 l⟩

/-- Whether the three registers of a triple are U. -/
def Group.isU3 (g : Group) (o : Opnd) : Bool :=
  (List.range 3).all (fun i => g.isU (.v (BitVec.ofNat 7 (tripleReg o + i))))

/-- An FP32 operand of class 0x5. -/
def Group.f32 (g : Group) (x : Src) (l : Nat) : Word := BitVec.ofNat 32 (g.fbits .f32 x 0 l)

/-- Writes a triple in some lanes; its first two words fill lt0 (R89). -/
def State.write3 (s : State) (lanes : Nat → Bool) (d : Opnd) (v : Nat → Triple) (uniform : Bool) : State :=
  let n := tripleReg d
  let w (l : Nat) : Word := (v l).w
  let mu (l : Nat) : Word := (v l).mu
  let m2 (l : Nat) : Word := (v l).m2
  (s.modGrp (fun g =>
    ((g.setV n ((g.vreg n).write lanes w (tagU uniform w))).setV (n + 1)
      ((g.vreg (n + 1)).write lanes mu (tagU uniform mu))).setV (n + 2)
        ((g.vreg (n + 2)).write lanes m2 (tagU uniform m2)))).latch lanes w (some mu)

/-- A lane-wise statistics instruction (R299). -/
def State.stat (s : State) (h : Hdr) (d : Opnd) (uniform : Bool) (f : Nat → Triple × Flags) :
    Host.Outcome State Fault Refusal :=
  s.raiseFin h (s.write3 (s.lane h) d (fun l => (f l).1) uniform) (fun l => (f l).2)

/-- The canonical empty triple in place of an empty one. -/
def Triple.canon (t : Triple) : Triple := if t.isEmpty then Triple.empty else t

def execStclr (h : Hdr) (d : Opnd) (s : State) : Host.Outcome State Fault Refusal :=
  s.stat h d true (fun _ => (Triple.empty, {}))

def execStupd (h : Hdr) (m : Mods) (d a x : Opnd) (s : State) : Host.Outcome State Fault Refusal :=
  let g := s.grp
  s.stat h d (g.isU3 a && g.isU x) (fun l => (g.triple a l).canon.update (g.f32 (m.b x) l))

def execStwupd (h : Hdr) (m : Mods) (d a x w : Opnd) (s : State) : Host.Outcome State Fault Refusal :=
  let g := s.grp
  s.stat h d (g.isU3 a && g.isU x && g.isU w) (fun l =>
    (g.triple a l).canon.weighted (g.f32 (m.b x) l) (g.f32 (m.c w) l))

def execStmrg (h : Hdr) (d a b : Opnd) (s : State) : Host.Outcome State Fault Refusal :=
  let g := s.grp
  s.stat h d (g.isU3 a && g.isU3 b) (fun l => (g.triple a l).merge (g.triple b l))

def execStnrm (h : Hdr) (m : Mods) (smp : Bool) (d a eps : Opnd) (s : State) : Host.Outcome State Fault Refusal :=
  let g := s.grp
  s.stat h d (g.isU3 a && g.isU eps) (fun l => (g.triple a l).normalise (g.f32 (m.b eps) l) smp)

/-- Merges neighbours of a list, the flags gathered. -/
def mergePairs : List Triple → List Triple × Flags
  | a :: b :: t =>
    let (x, f) := a.merge b
    let (r, fr) := mergePairs t
    (x :: r, f.or fr)
  | l => (l, {})

/-- `k` rounds of `mergePairs`. -/
def mergeTree : Nat → List Triple → List Triple × Flags
  | 0, l => (l, {})
  | k + 1, l =>
    let (r, f) := mergePairs l
    let (r', f') := mergeTree k r
    (r', f.or f')

/-- The triples of R300: a lane outside X(g) is empty. -/
def State.statLane (s : State) (h : Hdr) (a : Opnd) (l : Nat) : Triple :=
  if s.xlane h l then s.grp.triple a l else Triple.empty

/-- The fixed tree of `STRED`. -/
def State.statTree (s : State) (h : Hdr) (a : Opnd) : Triple × Flags :=
  let beat (b : Nat) : Triple × Flags :=
    let (r, f) := mergeTree 5 ((List.range 32).map (fun i => s.statLane h a (32 * b + i)))
    (r.headD Triple.empty, f)
  let (t0, f0) := beat 0
  let (t1, f1) := beat 1
  let (t2, f2) := beat 2
  let (u, f3) := t0.merge t1
  let (r, f4) := u.merge t2
  (r, [f0, f1, f2, f3, f4].foldl Flags.or {})

/-- DESIGN CHOICE: with X(g) empty and helper lanes alone executing, R300 does not say whether the scalars are written: the
model writes the canonical empty triple, as `STRED` is no group-wide instruction of R270 (assumption 78). -/
def execStred (h : Hdr) (d a : Opnd) (s : State) : Host.Outcome State Fault Refusal :=
  let (r, f) := s.statTree h a
  let t :=
    match d with
    | .s n =>
      if (s.lanes h).isEmpty then s
      else s.modGrp (fun g => ((g.setS n.toNat r.w).setS (n.toNat + 1) r.mu).setS (n.toNat + 2) r.m2)
    | d => s.write3 (s.xlane h) d (fun _ => r) true
  (t.raise f).done h

/-- The merge of a quad (R300). -/
def State.statQuad (s : State) (h : Hdr) (a : Opnd) (q : Nat) : Triple × Flags :=
  let (r, f) := mergeTree 2 ((List.range 4).map (fun i => s.statLane h a (4 * q + i)))
  (r.headD Triple.empty, f)

def execStqred (h : Hdr) (d a : Opnd) (s : State) : Host.Outcome State Fault Refusal :=
  let t := s.write3 (s.xlane h) d (fun l => (s.statQuad h a (l / 4)).1) false
  (t.raise (orFlags (List.range 24) (fun q => (s.statQuad h a q).2))).done h

end Sys2Proof.Machine
end

