-- ==== Sys2Proof/Machine/Dispatch.lean ====
section
/-! DEFINITION. One arm for each constructor of `Instr`: the meaning it calls. -/

namespace Sys2Proof.Machine

/-- Executes an instruction or an event of the device. -/
def exec (i : Instr) (s : State) : Host.Outcome State Fault Refusal :=
  match i with
  | .iadd h m t sat d a b => Sys2Proof.Machine.execIadd h m t sat d a b s
  | .isub h m t sat d a b => Sys2Proof.Machine.execIsub h m t sat d a b s
  | .iadd3 h m t sat d a b c => Sys2Proof.Machine.execIadd3 h m t sat d a b c s
  | .iaddc h m d a b pc pe => Sys2Proof.Machine.execIaddc h m d a b pc pe s
  | .isubb h m d a b pc pe => Sys2Proof.Machine.execIsubb h m d a b pc pe s
  | .imul h m t sat d a b => Sys2Proof.Machine.execImul h m t sat d a b s
  | .imulh h m t d a b => Sys2Proof.Machine.execImulh h m t d a b s
  | .imad h m t sat d a b c => Sys2Proof.Machine.execImad h m t sat d a b c s
  | .imadw h m t d a b c => Sys2Proof.Machine.execImadw h m t d a b c s
  | .imin h m t d a b => Sys2Proof.Machine.execImin h m t d a b s
  | .imax h m t d a b => Sys2Proof.Machine.execImax h m t d a b s
  | .iabs h m t sat d a => Sys2Proof.Machine.execIabs h m t sat d a s
  | .isad h m t d a b c => Sys2Proof.Machine.execIsad h m t d a b c s
  | .idot4 h m t sat d a b c => Sys2Proof.Machine.execIdot4 h m t sat d a b c s
  | .lea h m t k d a b => Sys2Proof.Machine.execLea h m t k d a b s
  | .iadd64 h m d a b => Sys2Proof.Machine.execIadd64 h m d a b s
  | .isub64 h m d a b => Sys2Proof.Machine.execIsub64 h m d a b s
  | .mov h m w64 d a => Sys2Proof.Machine.execMov h m w64 d a s
  | .movi h w64 d imm => Sys2Proof.Machine.execMovi h w64 d imm s
  | .and h d a b => Sys2Proof.Machine.execAnd h d a b s
  | .or h d a b => Sys2Proof.Machine.execOr h d a b s
  | .xor h d a b => Sys2Proof.Machine.execXor h d a b s
  | .andn h d a b => Sys2Proof.Machine.execAndn h d a b s
  | .lop3 h lut d a b c => Sys2Proof.Machine.execLop3 h lut d a b c s
  | .shl h w64 d a b => Sys2Proof.Machine.execShl h w64 d a b s
  | .shr h w64 d a b => Sys2Proof.Machine.execShr h w64 d a b s
  | .sar h w64 d a b => Sys2Proof.Machine.execSar h w64 d a b s
  | .fshl h d a b c => Sys2Proof.Machine.execFshl h d a b c s
  | .fshr h d a b c => Sys2Proof.Machine.execFshr h d a b c s
  | .rotl h d a b => Sys2Proof.Machine.execRotl h d a b s
  | .bfe h t d a b c => Sys2Proof.Machine.execBfe h t d a b c s
  | .bfi h d a b c e => Sys2Proof.Machine.execBfi h d a b c e s
  | .brev h d a => Sys2Proof.Machine.execBrev h d a s
  | .popc h d a => Sys2Proof.Machine.execPopc h d a s
  | .clz h d a => Sys2Proof.Machine.execClz h d a s
  | .ctz h d a => Sys2Proof.Machine.execCtz h d a s
  | .prmt h d a b c => Sys2Proof.Machine.execPrmt h d a b c s
  | .icmp h m cond t pd a b pq => Sys2Proof.Machine.execIcmp h m cond t pd a b pq s
  | .fcmp h m cond ft pd a b pq => Sys2Proof.Machine.execFcmp h m cond ft pd a b pq s
  | .sel h m d a b pq => Sys2Proof.Machine.execSel h m d a b pq s
  | .pset h lut pd pa pb pc => Sys2Proof.Machine.execPset h lut pd pa pb pc s
  | .pmovs h d pa => Sys2Proof.Machine.execPmovs h d pa s
  | .pmovp h m pd a => Sys2Proof.Machine.execPmovp h m pd a s
  | .qxchg h op_ d a => Sys2Proof.Machine.execQxchg h op_ d a s
  | .qbcst h k d a => Sys2Proof.Machine.execQbcst h k d a s
  | .qhelp h on => Sys2Proof.Machine.execQhelp h on s
  | .shfl h op_ d a b => Sys2Proof.Machine.execShfl h op_ d a b s
  | .vote h form pa => Sys2Proof.Machine.execVote h form pa s
  | .redg h op_ t d a => Sys2Proof.Machine.execRedg h op_ t d a s
  | .scang h op_ ex t d a => Sys2Proof.Machine.execScang h op_ ex t d a s
  | .zscan h f d a sc => Sys2Proof.Machine.execZscan h f d a sc s
  | .rdlane h d a b => Sys2Proof.Machine.execRdlane h d a b s
  | .wrlane h d a b => Sys2Proof.Machine.execWrlane h d a b s
  | .bra h soff => Sys2Proof.Machine.execBra h soff s
  | .brx h a => Sys2Proof.Machine.execBrx h a s
  | .call h link soff => Sys2Proof.Machine.execCall h link soff s
  | .callx h link a => Sys2Proof.Machine.execCallx h link a s
  | .ret h a => Sys2Proof.Machine.execRet h a s
  | .regang h a => Sys2Proof.Machine.execRegang h a s
  | .exit h => Sys2Proof.Machine.execExit h s
  | .yield h => Sys2Proof.Machine.execYield h s
  | .nop h => Sys2Proof.Machine.execNop h s
  | .trap h n => Sys2Proof.Machine.execTrap h n s
  | .bar h sc a => Sys2Proof.Machine.execBar h sc a s
  | .bara h sc a => Sys2Proof.Machine.execBara h sc a s
  | .barw h sc a => Sys2Proof.Machine.execBarw h sc a s
  | .hret h => Sys2Proof.Machine.execHret h s
  | .hset h a b c => Sys2Proof.Machine.execHset h a b c s
  | .hmask h set => Sys2Proof.Machine.execHmask h set s
  | .fadd h m dm ft d a b => Sys2Proof.Machine.execFadd h m dm ft d a b s
  | .fsub h m dm ft d a b => Sys2Proof.Machine.execFsub h m dm ft d a b s
  | .fmul h m dm ft d a b => Sys2Proof.Machine.execFmul h m dm ft d a b s
  | .ffma h m dm ft d a b c => Sys2Proof.Machine.execFfma h m dm ft d a b c s
  | .fmin h m dm ft d a b => Sys2Proof.Machine.execFmin h m dm ft d a b s
  | .fmax h m dm ft d a b => Sys2Proof.Machine.execFmax h m dm ft d a b s
  | .frnd h m dm rm ft d a => Sys2Proof.Machine.execFrnd h m dm rm ft d a s
  | .fclass h m ft d a => Sys2Proof.Machine.execFclass h m ft d a s
  | .fscale h m dm ft d a b => Sys2Proof.Machine.execFscale h m dm ft d a b s
  | .fdot2 h m dm ft d a b c => Sys2Proof.Machine.execFdot2 h m dm ft d a b c s
  | .fcvt h m dm hi dft sft d a => Sys2Proof.Machine.execFcvt h m dm hi dft sft d a s
  | .i2f h m dm dft it d a => Sys2Proof.Machine.execI2f h m dm dft it d a s
  | .f2i h m scale it sft d a => Sys2Proof.Machine.execF2i h m scale it sft d a s
  | .packh h m dm ft d a b => Sys2Proof.Machine.execPackh h m dm ft d a b s
  | .frcp h m dm ft d a => Sys2Proof.Machine.execFrcp h m dm ft d a s
  | .frsq h m dm ft d a => Sys2Proof.Machine.execFrsq h m dm ft d a s
  | .fsqrt h m dm ft d a => Sys2Proof.Machine.execFsqrt h m dm ft d a s
  | .fexp2 h m dm ft d a => Sys2Proof.Machine.execFexp2 h m dm ft d a s
  | .flog2 h m dm ft d a => Sys2Proof.Machine.execFlog2 h m dm ft d a s
  | .fsin h m dm ft d a => Sys2Proof.Machine.execFsin h m dm ft d a s
  | .fcos h m dm ft d a => Sys2Proof.Machine.execFcos h m dm ft d a s
  | .ftanh h m dm ft d a => Sys2Proof.Machine.execFtanh h m dm ft d a s
  | .fdiv h m dm ft d a b => Sys2Proof.Machine.execFdiv h m dm ft d a b s
  | .stclr h d => Sys2Proof.Machine.execStclr h d s
  | .stupd h m d a x => Sys2Proof.Machine.execStupd h m d a x s
  | .stwupd h m d a x w => Sys2Proof.Machine.execStwupd h m d a x w s
  | .stmrg h d a b => Sys2Proof.Machine.execStmrg h d a b s
  | .stnrm h m smp d a eps => Sys2Proof.Machine.execStnrm h m smp d a eps s
  | .stred h d a => Sys2Proof.Machine.execStred h d a s
  | .stqred h d a => Sys2Proof.Machine.execStqred h d a s
  | .ld h hint ord sz d a b off => Sys2Proof.Machine.execLd h hint ord sz d a b off s
  | .st h hint ord sz d a b off => Sys2Proof.Machine.execSt h hint ord sz d a b off s
  | .stm h hint d a b off => Sys2Proof.Machine.execStm h hint d a b off s
  | .sld h hint ord sz d a b off => Sys2Proof.Machine.execSld h hint ord sz d a b off s
  | .sst h hint ord sz d a b off => Sys2Proof.Machine.execSst h hint ord sz d a b off s
  | .atom h hint ord op_ d a b c e => Sys2Proof.Machine.execAtom h hint ord op_ d a b c e s
  | .red h hint ord op_ a b e => Sys2Proof.Machine.execRed h hint ord op_ a b e s
  | .pref h hint l2 a b off => Sys2Proof.Machine.execPref h hint l2 a b off s
  | .cctl h hint op_ a b off => Sys2Proof.Machine.execCctl h hint op_ a b off s
  | .fence h hint kind sc => Sys2Proof.Machine.execFence h hint kind sc s
  | .fencex h hint pa pb => Sys2Proof.Machine.execFencex h hint pa pb s
  | .lds h hint sz d a b off => Sys2Proof.Machine.execLds h hint sz d a b off s
  | .sts h hint sz d a b off => Sys2Proof.Machine.execSts h hint sz d a b off s
  | .atoms h hint op_ d a b c e => Sys2Proof.Machine.execAtoms h hint op_ d a b c e s
  | .sete h hint a b off => Sys2Proof.Machine.execSete h hint a b off s
  | .setf h hint a b off => Sys2Proof.Machine.execSetf h hint a b off s
  | .tstf h hint d a b off => Sys2Proof.Machine.execTstf h hint d a b off s
  | .dec h hint delta d a b c ps => Sys2Proof.Machine.execDec h hint delta d a b c ps s
  | .cpy h hint sz ss ds d a c e => Sys2Proof.Machine.execCpy h hint sz ss ds d a c e s
  | .cpyt h hint w ss ds d a b c e => Sys2Proof.Machine.execCpyt h hint w ss ds d a b c e s
  | .cpyc h hint sz ss ds d a c e => Sys2Proof.Machine.execCpyc h hint sz ss ds d a c e s
  | .ldct h hint sp a e => Sys2Proof.Machine.execLdct h hint sp a e s
  | .waitc h hint path a => Sys2Proof.Machine.execWaitc h hint path a s
  | .rdc h hint path d => Sys2Proof.Machine.execRdc h hint path d s
  | .waitm h hint cond w64 d a b => Sys2Proof.Machine.execWaitm h hint cond w64 d a b s
  | .abinit h hint a b => Sys2Proof.Machine.execAbinit h hint a b s
  | .abarr h hint a b c => Sys2Proof.Machine.execAbarr h hint a b c s
  | .abwait h hint a b => Sys2Proof.Machine.execAbwait h hint a b s
  | .abflg h hint d a => Sys2Proof.Machine.execAbflg h hint d a s
  | .mmq h body cap d a b c e => Sys2Proof.Machine.execMmq h body cap d a b c e s
  | .mmf h fp16 d a b c e => Sys2Proof.Machine.execMmf h fp16 d a b c e s
  | .mmd h d a b c e => Sys2Proof.Machine.execMmd h d a b c e s
  | .tenc h body cap sp d a b e => Sys2Proof.Machine.execTenc h body cap sp d a b e s
  | .tdec h body cap d b e => Sys2Proof.Machine.execTdec h body cap d b e s
  | .tpin h body cap b c e => Sys2Proof.Machine.execTpin h body cap b c e s
  | .tunpin h b e => Sys2Proof.Machine.execTunpin h b e s
  | .mxcfg h a => Sys2Proof.Machine.execMxcfg h a s
  | .tzero h d c e => Sys2Proof.Machine.execTzero h d c e s
  | .tcvt h fmt d a c e => Sys2Proof.Machine.execTcvt h fmt d a c e s
  | .ldcbk h a e => Sys2Proof.Machine.execLdcbk h a e s
  | .rld h stat sz d a b ps => Sys2Proof.Machine.execRld h stat sz d a b ps s
  | .rst h stat sz d a b ps => Sys2Proof.Machine.execRst h stat sz d a b ps s
  | .ratom h stat ty op_ d a b c ps => Sys2Proof.Machine.execRatom h stat ty op_ d a b c ps s
  | .rcpy h stat spad sz d a b c ps => Sys2Proof.Machine.execRcpy h stat spad sz d a b c ps s
  | .msend h stat spad d a b c ps => Sys2Proof.Machine.execMsend h stat spad d a b c ps s
  | .mdone h => Sys2Proof.Machine.execMdone h s
  | .quiet h => Sys2Proof.Machine.execQuiet h s
  | .qstat h sel d => Sys2Proof.Machine.execQstat h sel d s
  | .coll h op_ d a b c e => Sys2Proof.Machine.execColl h op_ d a b c e s
  | .rfence h => Sys2Proof.Machine.execRfence h s
  | .csrr h d csr => Sys2Proof.Machine.execCsrr h d csr s
  | .csrw h d a csr => Sys2Proof.Machine.execCsrw h d a csr s
  | .csrs h d a csr => Sys2Proof.Machine.execCsrs h d a csr s
  | .csrc h d a csr => Sys2Proof.Machine.execCsrc h d a csr s
  | .launch h d a b => Sys2Proof.Machine.execLaunch h d a b s
  | .sysc h n => Sys2Proof.Machine.execSysc h n s
  | .ldovt h a => Sys2Proof.Machine.execLdovt h a s
  | .tlbinv h sc a b => Sys2Proof.Machine.execTlbinv h sc a b s
  | .eret h => Sys2Proof.Machine.execEret h s
  | .halt h hold a => Sys2Proof.Machine.execHalt h hold a s
  | .invalidSlotIssue => Sys2Proof.Machine.execInvalidSlotIssue s
  | .illegalInstructionIssue w => Sys2Proof.Machine.execIllegalInstructionIssue w s
  | .loadReturn g seq => Sys2Proof.Machine.execLoadReturn g seq s
  | .storePerform g => Sys2Proof.Machine.execStorePerform g s
  | .atomicPerform g => Sys2Proof.Machine.execAtomicPerform g s
  | .pageWalkComplete c ctx va => Sys2Proof.Machine.execPageWalkComplete c ctx va s
  | .l1Eviction c line => Sys2Proof.Machine.execL1Eviction c line s
  | .l2Eviction line => Sys2Proof.Machine.execL2Eviction line s
  | .feReaderRelease b line => Sys2Proof.Machine.execFeReaderRelease b line s
  | .copyCompletion g seq => Sys2Proof.Machine.execCopyCompletion g seq s
  | .matrixTileStep c => Sys2Proof.Machine.execMatrixTileStep c s
  | .scratchpadResultLanding g seq => Sys2Proof.Machine.execScratchpadResultLanding g seq s
  | .groupRetire g => Sys2Proof.Machine.execGroupRetire g s
  | .launchEligible l => Sys2Proof.Machine.execLaunchEligible l s
  | .blockDispatch die => Sys2Proof.Machine.execBlockDispatch die s
  | .launchCompletion l => Sys2Proof.Machine.execLaunchCompletion l s
  | .preemptionTrigger b => Sys2Proof.Machine.execPreemptionTrigger b s
  | .blockHalt b => Sys2Proof.Machine.execBlockHalt b s
  | .blockSave b => Sys2Proof.Machine.execBlockSave b s
  | .haltTimeout b => Sys2Proof.Machine.execHaltTimeout b s
  | .handlerEntry g => Sys2Proof.Machine.execHandlerEntry g s
  | .asyncFaultDelivery g => Sys2Proof.Machine.execAsyncFaultDelivery g s
  | .eccAsyncFailure addr => Sys2Proof.Machine.execEccAsyncFailure addr s
  | .feTimeout g => Sys2Proof.Machine.execFeTimeout g s
  | .remoteReadRequest p => Sys2Proof.Machine.execRemoteReadRequest p s
  | .remoteWriteRequest p => Sys2Proof.Machine.execRemoteWriteRequest p s
  | .remoteAtomicRequest p => Sys2Proof.Machine.execRemoteAtomicRequest p s
  | .messageDelivery p => Sys2Proof.Machine.execMessageDelivery p s
  | .readResponse peer seq bytes => Sys2Proof.Machine.execReadResponse peer seq bytes s
  | .writeCompletion peer seq => Sys2Proof.Machine.execWriteCompletion peer seq s
  | .atomicResponse peer seq old => Sys2Proof.Machine.execAtomicResponse peer seq old s
  | .refusalResponse peer seq reason => Sys2Proof.Machine.execRefusalResponse peer seq reason s
  | .quietNotice job => Sys2Proof.Machine.execQuietNotice job s
  | .settleWaveStart job => Sys2Proof.Machine.execSettleWaveStart job s
  | .settleToken job wave si sc => Sys2Proof.Machine.execSettleToken job wave si sc s
  | .settleTokenReturn job wave si sc => Sys2Proof.Machine.execSettleTokenReturn job wave si sc s
  | .settledReceipt job wave => Sys2Proof.Machine.execSettledReceipt job wave s
  | .linkReplay port => Sys2Proof.Machine.execLinkReplay port s
  | .replayExhausted peer => Sys2Proof.Machine.execReplayExhausted peer s
  | .ackTimeout peer => Sys2Proof.Machine.execAckTimeout peer s
  | .linkWaitTimeout peer => Sys2Proof.Machine.execLinkWaitTimeout peer s
  | .queryResend peer => Sys2Proof.Machine.execQueryResend peer s
  | .peerQuery peer n => Sys2Proof.Machine.execPeerQuery peer n s
  | .peerQueryReply peer r => Sys2Proof.Machine.execPeerQueryReply peer r s
  | .downNotice job rank => Sys2Proof.Machine.execDownNotice job rank s
  | .collChunkArrival p => Sys2Proof.Machine.execCollChunkArrival p s
  | .slotReleaseNotice p => Sys2Proof.Machine.execSlotReleaseNotice p s
  | .collTimeout b => Sys2Proof.Machine.execCollTimeout b s
  | .gangReserveAck gang rank => Sys2Proof.Machine.execGangReserveAck gang rank s
  | .gangCommit gang => Sys2Proof.Machine.execGangCommit gang s
  | .gangWithdraw l => Sys2Proof.Machine.execGangWithdraw l s
  | .gangWithdrawRequest gang rank => Sys2Proof.Machine.execGangWithdrawRequest gang rank s
  | .gangRelease gang => Sys2Proof.Machine.execGangRelease gang s
  | .gangRefusal gang rank => Sys2Proof.Machine.execGangRefusal gang rank s
  | .gangAbort gang => Sys2Proof.Machine.execGangAbort gang s
  | .arbiterTurn port => Sys2Proof.Machine.execArbiterTurn port s
  | .hostWrite addr bytes => Sys2Proof.Machine.execHostWrite addr bytes s
  | .hostRead addr len => Sys2Proof.Machine.execHostRead addr len s
  | .preqGo w => Sys2Proof.Machine.execPreqGo w s
  | .preqHoldRelease w => Sys2Proof.Machine.execPreqHoldRelease w s
  | .hostLaunch w => Sys2Proof.Machine.execHostLaunch w s
  | .jobreset w => Sys2Proof.Machine.execJobreset w s
  | .faultctlRelease w => Sys2Proof.Machine.execFaultctlRelease w s
  | .faultctlEnd w => Sys2Proof.Machine.execFaultctlEnd w s
  | .resync w => Sys2Proof.Machine.execResync w s
  | .jobRepair w => Sys2Proof.Machine.execJobRepair w s
  | .portEnable port mode => Sys2Proof.Machine.execPortEnable port mode s
  | .portDisable port mode => Sys2Proof.Machine.execPortDisable port mode s
  | .portTrained port voxgo => Sys2Proof.Machine.execPortTrained port voxgo s
  | .queueEnable q w => Sys2Proof.Machine.execQueueEnable q w s
  | .queueDisable q w => Sys2Proof.Machine.execQueueDisable q w s
  | .peerMapWrite rank w => Sys2Proof.Machine.execPeerMapWrite rank w s
  | .acktoWrite w => Sys2Proof.Machine.execAcktoWrite w s
  | .portWeightWrite port cls w => Sys2Proof.Machine.execPortWeightWrite port cls w s
  | .eccCounterClear k w => Sys2Proof.Machine.execEccCounterClear k w s
  | .powercapWrite w => Sys2Proof.Machine.execPowercapWrite w s
  | .mgmtRegisterWrite off size value => Sys2Proof.Machine.execMgmtRegisterWrite off size value s
  | .deviceReset => Sys2Proof.Machine.execDeviceReset s
  | .pcieLinkTrained => Sys2Proof.Machine.execPcieLinkTrained s
  | .hbmTrained => Sys2Proof.Machine.execHbmTrained s
  | .clockStep x => Sys2Proof.Machine.execClockStep x s
  | .issueGateStep x => Sys2Proof.Machine.execIssueGateStep x s
  | .thermalIssueStop x => Sys2Proof.Machine.execThermalIssueStop x s

end Sys2Proof.Machine
end

