-- ==== Sys2Proof/Machine/Uses.lean ====
section
/-! DEFINITION. The registers an instruction reads and writes, for the interlock on pending results (spec 03 R76,
R80, R96) and for uncorrectable registers (22 R435). Numbers are those of `Dest.regs`. -/

namespace Sys2Proof.Machine

/-- Numbers of `n` registers from an operand on. -/
def opRegs (o : Opnd) (n : Nat) : List Nat :=
  match o with
  | .v k => (List.range n).map (fun i => k.toNat + i)
  | .s k => (List.range n).map (fun i => 128 + k.toNat + i)
  | .o k => (List.range n).map (fun i => 192 + k.toNat + i)
  | .lt0 => [200]
  | .lt1 => [201]
  | _ => []

/-- The number of a predicate; p7 is no register. -/
def pReg (p : PField) : List Nat := if p.num = 7 then [] else [256 + p.num.toNat]

/-- Predicates that the guards read. -/
def Hdr.regs (h : Hdr) : List Nat :=
  pReg ⟨0, h.g0.neg, h.g0.num⟩ ++ pReg ⟨0, h.g1.neg, h.g1.num⟩

def wd (w64 : Bool) : Nat := if w64 then 2 else 1
def FTy.n (t : FTy) : Nat := wd t.isF64

/-- Reads and writes of the operand fields: (operands read with their counts, operands written, predicates read,
predicates written), and whether the activity mask plays a part, which it does in every class but 0xB (R29, R321). -/
structure Uses where
  h : Option Hdr := none
  rd : List (Opnd × Nat) := []
  wr : List (Opnd × Nat) := []
  prd : List PField := []
  pwr : List PField := []
  mask : Bool := true
  deriving DecidableEq, Repr

/-- The status predicate of a `.S` form. -/
def statP (stat : Bool) (ps : PField) : List PField := if stat then [ps] else []

/-- What an instruction reads and writes. -/
def usesOf : Instr → Uses
  | .iadd h _ _ _ d a b | .isub h _ _ _ d a b | .imul h _ _ _ d a b | .imulh h _ _ d a b
  | .imin h _ _ d a b | .imax h _ _ d a b | .and h d a b | .or h d a b | .xor h d a b | .andn h d a b
  | .rotl h d a b | .packh h _ _ _ d a b | .rdlane h d a b | .wrlane h d a b | .shfl h _ d a b =>
    { h := some h, rd := [(a, 1), (b, 1)], wr := [(d, 1)] }
  | .iadd3 h _ _ _ d a b c | .imad h _ _ _ d a b c | .isad h _ _ d a b c | .idot4 h _ _ _ d a b c
  | .lop3 h _ d a b c | .fshl h d a b c | .fshr h d a b c | .bfe h _ d a b c | .prmt h d a b c
  | .fdot2 h _ _ _ d a b c => { h := some h, rd := [(a, 1), (b, 1), (c, 1)], wr := [(d, 1)] }
  | .iaddc h _ d a b pc pe | .isubb h _ d a b pc pe =>
    { h := some h, rd := [(a, 1), (b, 1)], wr := [(d, 1)], prd := [pc], pwr := [pe] }
  | .imadw h _ _ d a b c => { h := some h, rd := [(a, 1), (b, 1), (c, 2)], wr := [(d, 2)] }
  | .iabs h _ _ _ d a | .brev h d a | .popc h d a | .clz h d a | .ctz h d a | .qxchg h _ d a | .qbcst h _ d a
  | .redg h _ _ d a | .scang h _ _ _ d a => { h := some h, rd := [(a, 1)], wr := [(d, 1)] }
  | .lea h _ _ _ d a b => { h := some h, rd := [(a, 2), (b, 1)], wr := [(d, 2)] }
  | .iadd64 h _ d a b | .isub64 h _ d a b => { h := some h, rd := [(a, 2), (b, 2)], wr := [(d, 2)] }
  | .mov h _ w d a => { h := some h, rd := [(a, wd w)], wr := [(d, wd w)] }
  | .movi h w d _ => { h := some h, wr := [(d, wd w)] }
  | .shl h w d a b | .shr h w d a b | .sar h w d a b =>
    { h := some h, rd := [(a, wd w), (b, 1)], wr := [(d, wd w)] }
  | .bfi h d a b c e => { h := some h, rd := [(a, 1), (b, 1), (c, 1), (e, 1)], wr := [(d, 1)] }
  | .icmp h _ _ _ pd a b pq => { h := some h, rd := [(a, 1), (b, 1)], prd := [pq], pwr := [pd] }
  | .fcmp h _ _ t pd a b pq => { h := some h, rd := [(a, FTy.n t), (b, FTy.n t)], prd := [pq], pwr := [pd] }
  | .sel h _ d a b pq => { h := some h, rd := [(a, 1), (b, 1)], wr := [(d, 1)], prd := [pq] }
  | .pset h _ pd pa pb pc => { h := some h, prd := [pa, pb, pc], pwr := [pd] }
  | .pmovs h d pa => { h := some h, wr := [(d, 3)], prd := [pa] }
  | .pmovp h _ pd a =>
    { h := some h, pwr := [pd], rd := [(a, match a with
      | .s n => if n.toNat ≤ 61 then 3 else 1
      | _ => 1)] }
  | .qhelp h _ | .bra h _ | .exit h | .yield h | .nop h | .trap h _ | .hret h | .hmask h _ | .bar h _ _
  | .bara h _ _ | .barw h _ _ | .fence h _ _ _ | .fencex h _ _ _ | .mdone h | .quiet h | .rfence h | .sysc h _
  | .eret h => { h := some h }
  | .vote h f pa =>
    match f with
    | .some pd | .every pd | .same pd => { h := some h, prd := [pa], pwr := [pd] }
    | .cnt d => { h := some h, prd := [pa], wr := [(d, 1)] }
  | .zscan h _ d a sc => { h := some h, rd := [(a, 1)], wr := [(d, 1), (sc, 1)] }
  | .brx h a | .ret h a => { h := some h, rd := [(a, 2)] }
  | .call h l _ => { h := some h, wr := [(l, 2)] }
  | .callx h l a => { h := some h, rd := [(a, 2)], wr := [(l, 2)] }
  | .regang h a | .ldovt h a | .halt h _ a => { h := some h, rd := [(a, 1)] }
  | .mxcfg h a => { h := some h, rd := [(a, 1)], mask := false }
  | .hset h a b c => { h := some h, rd := [(a, 1), (b, 2), (c, 1)] }
  | .fadd h _ _ t d a b | .fsub h _ _ t d a b | .fmul h _ _ t d a b | .fmin h _ _ t d a b | .fmax h _ _ t d a b
  | .fdiv h _ _ t d a b => { h := some h, rd := [(a, FTy.n t), (b, FTy.n t)], wr := [(d, FTy.n t)] }
  | .ffma h _ _ t d a b c =>
    { h := some h, rd := [(a, FTy.n t), (b, FTy.n t), (c, FTy.n t)], wr := [(d, FTy.n t)] }
  | .frnd h _ _ _ t d a | .frcp h _ _ t d a | .frsq h _ _ t d a | .fsqrt h _ _ t d a | .fexp2 h _ _ t d a
  | .flog2 h _ _ t d a | .fsin h _ _ t d a | .fcos h _ _ t d a | .ftanh h _ _ t d a =>
    { h := some h, rd := [(a, FTy.n t)], wr := [(d, FTy.n t)] }
  | .fclass h _ t d a => { h := some h, rd := [(a, FTy.n t)], wr := [(d, 1)] }
  | .fscale h _ _ t d a b => { h := some h, rd := [(a, FTy.n t), (b, 1)], wr := [(d, FTy.n t)] }
  | .fcvt h _ _ _ dt sf d a => { h := some h, rd := [(a, FTy.n sf)], wr := [(d, FTy.n dt)] }
  | .i2f h _ _ dt _ d a => { h := some h, rd := [(a, 1)], wr := [(d, FTy.n dt)] }
  | .f2i h _ _ _ sf d a => { h := some h, rd := [(a, FTy.n sf)], wr := [(d, 1)] }
  | .stclr h d => { h := some h, wr := [(d, 3)] }
  | .stupd h _ d a x | .stnrm h _ _ d a x => { h := some h, rd := [(a, 3), (x, 1)], wr := [(d, 3)] }
  | .stwupd h _ d a x w => { h := some h, rd := [(a, 3), (x, 1), (w, 1)], wr := [(d, 3)] }
  | .stmrg h d a b => { h := some h, rd := [(a, 3), (b, 3)], wr := [(d, 3)] }
  | .stred h d a | .stqred h d a => { h := some h, rd := [(a, 3)], wr := [(d, 3)] }
  | .ld h _ _ sz d a b _ | .sld h _ _ sz d a b _ => { h := some h, rd := [(a, 2), (b, 1)], wr := [(d, sz.regs)] }
  | .st h _ _ sz d a b _ | .sst h _ _ sz d a b _ => { h := some h, rd := [(d, sz.regs), (a, 2), (b, 1)] }
  | .stm h _ d a b _ => { h := some h, rd := [(d, 2), (a, 2), (b, 1)] }
  | .atom h _ _ op d a b c e =>
    let n := atyBytes e / 4
    { h := some h, rd := [(a, 2), (b, n)] ++ (if op = .cas then [(c, n)] else []), wr := [(d, n)] }
  | .red h _ _ _ a b e => { h := some h, rd := [(a, 2), (b, atyBytes e / 4)] }
  | .pref h _ _ a b _ => { h := some h, rd := [(a, 2), (b, 1)] }
  | .cctl h _ op a b _ => { h := some h, rd := if op = .wb ∨ op = .inv then [(a, 2), (b, 1)] else [] }
  | .lds h _ sz d a b _ => { h := some h, rd := [(a, 1), (b, 1)], wr := [(d, sz.regs)] }
  | .sts h _ sz d a b _ => { h := some h, rd := [(d, sz.regs), (a, 1), (b, 1)] }
  | .atoms h _ op d a b c e =>
    let n := atyBytes e / 4
    { h := some h, rd := [(a, 1), (b, n)] ++ (if op = .cas then [(c, n)] else []), wr := [(d, n)] }
  | .sete h _ a b _ | .setf h _ a b _ => { h := some h, rd := [(a, 1), (b, 1)] }
  | .tstf h _ d a b _ => { h := some h, rd := [(a, 1), (b, 1)], wr := [(d, 1)] }
  | .dec h _ delta d a b c ps =>
    { h := some h, rd := [(a, 1), (c, if d = .zero then 2 else 1)] ++ (if delta then [(b, 1)] else []), wr := [(d, 1), (c, 1)],
      pwr := [ps] }
  | .cpy h _ _ ss ds d a _ e | .cpyc h _ _ ss ds d a _ e =>
    { h := some h, rd := [(d, wd (!ds)), (a, wd (!ss)), (e, 1)] }
  | .cpyt h _ _ ss ds d a b c e => { h := some h, rd := [(d, wd (!ds)), (a, wd (!ss)), (b, 2), (c, 1), (e, 1)] }
  | .ldct h _ sp a e => { h := some h, rd := [(a, wd (!sp)), (e, 1)] }
  | .waitc h _ _ a => { h := some h, rd := [(a, 1)] }
  | .rdc h _ _ d => { h := some h, wr := [(d, 1)] }
  | .waitm h _ _ w d a b => { h := some h, rd := [(a, 2), (b, wd w)], wr := [(d, wd w)] }
  | .abinit h _ a b | .abwait h _ a b => { h := some h, rd := [(a, 1), (b, 1)] }
  | .abarr h _ a b c => { h := some h, rd := [(a, 1), (b, 1), (c, 1)] }
  | .abflg h _ d a => { h := some h, rd := [(a, 1)], wr := [(d, 1)] }
  | .mmq h _ _ d a b c e | .mmf h _ d a b c e | .mmd h d a b c e =>
    { h := some h, rd := [(d, 1), (a, 8), (b, 1), (c, 1), (e, 1)], mask := false }
  | .tenc h _ _ _ d a b e => { h := some h, rd := [(d, 1), (a, 8), (b, 1), (e, 1)], mask := false }
  | .tdec h _ _ d b e => { h := some h, rd := [(b, 1), (e, 1)], wr := [(d, 4)], mask := false }
  | .tpin h _ _ b c e => { h := some h, rd := [(b, 1), (c, 1), (e, 1)], mask := false }
  | .tunpin h b e => { h := some h, rd := [(b, 1), (e, 1)], mask := false }
  | .tzero h d c e => { h := some h, rd := [(d, 1), (c, 1), (e, 1)], mask := false }
  | .tcvt h _ d a c e => { h := some h, rd := [(d, 1), (a, 1), (c, 1), (e, 1)], mask := false }
  | .ldcbk h a e => { h := some h, rd := [(a, 2), (e, 1)], mask := false }
  | .rld h st sz d a b ps => { h := some h, rd := [(a, 2), (b, 1)], wr := [(d, sz.regs)], pwr := statP st ps }
  | .rst h st sz d a b ps => { h := some h, rd := [(d, sz.regs), (a, 2), (b, 1)], pwr := statP st ps }
  | .ratom h st ty op d a b c ps =>
    let n := ty.bytes / 4
    { h := some h, rd := [(a, 2), (b, 1), (c, if op = .cas then 2 * n else n)], wr := [(d, n)], pwr := statP st ps }
  | .rcpy h st sp _ d a b c ps => { h := some h, rd := [(d, 2), (a, wd (!sp)), (b, 1), (c, 1)], pwr := statP st ps }
  | .msend h st sp d a b c ps =>
    { h := some h, rd := [(d, 1), (a, if sp then 1 else 8), (b, 1), (c, 1)], pwr := statP st ps }
  | .qstat h _ d => { h := some h, wr := [(d, 2)] }
  | .coll h _ d a b c e => { h := some h, rd := [(d, 1), (a, 8), (b, 2), (c, 1), (e, 2)] }
  | .csrr h d _ => { h := some h, wr := [(d, 1)] }
  | .csrw h d a _ | .csrs h d a _ | .csrc h d a _ => { h := some h, rd := [(a, 1)], wr := [(d, 1)] }
  | .launch h d a b => { h := some h, rd := [(a, 2), (b, 1)], wr := [(d, 1)] }
  | .tlbinv h sc a b =>
    { h := some h, rd := (if sc = .va then [(a, 2)] else []) ++ (if sc = .all then [] else [(b, 1)]) }
  | .invalidSlotIssue | .illegalInstructionIssue _ | .loadReturn .. | .storePerform _ | .atomicPerform _
  | .pageWalkComplete .. | .l1Eviction .. | .l2Eviction _ | .feReaderRelease .. | .copyCompletion ..
  | .matrixTileStep _ | .scratchpadResultLanding .. | .groupRetire _ | .launchEligible _ | .blockDispatch _
  | .launchCompletion _ | .preemptionTrigger _ | .blockHalt _ | .blockSave _ | .haltTimeout _
  | .handlerEntry _ | .asyncFaultDelivery _ | .eccAsyncFailure _ | .feTimeout _ | .remoteReadRequest _
  | .remoteWriteRequest _ | .remoteAtomicRequest _ | .messageDelivery _ | .readResponse .. | .writeCompletion ..
  | .atomicResponse .. | .refusalResponse .. | .quietNotice _ | .settleWaveStart _ | .settleToken ..
  | .settleTokenReturn .. | .settledReceipt .. | .linkReplay _ | .replayExhausted _ | .ackTimeout _
  | .linkWaitTimeout _ | .queryResend _ | .peerQuery .. | .peerQueryReply .. | .downNotice ..
  | .collChunkArrival _ | .slotReleaseNotice _ | .collTimeout _ | .gangReserveAck .. | .gangCommit _
  | .gangWithdraw _ | .gangWithdrawRequest .. | .gangRelease _ | .gangRefusal .. | .gangAbort _
  | .arbiterTurn _ | .hostWrite .. | .hostRead .. | .preqGo _ | .preqHoldRelease _ | .hostLaunch _
  | .jobreset _ | .faultctlRelease _ | .faultctlEnd _ | .resync _ | .jobRepair _ | .portEnable ..
  | .portDisable .. | .portTrained .. | .queueEnable .. | .queueDisable .. | .peerMapWrite .. | .acktoWrite _
  | .portWeightWrite .. | .eccCounterClear .. | .powercapWrite _ | .mgmtRegisterWrite .. | .deviceReset
  | .pcieLinkTrained | .hbmTrained | .clockStep _ | .issueGateStep _ | .thermalIssueStop _ => {}

/-- Registers that an instruction's operand fields read. -/
def Uses.operands (u : Uses) : List Nat := u.rd.flatMap (fun x => opRegs x.1 x.2) ++ u.prd.flatMap pReg

/-- Registers that an instruction reads to know its lanes: its guards' predicates and the activity mask, but for class 0xB
(R29, R321). -/
def Uses.gates (u : Uses) : List Nat := u.h.elim [] Hdr.regs ++ (if u.h.isSome && u.mask then [189, 190, 191] else [])

/-- Registers an instruction reads. -/
def Uses.reads (u : Uses) : List Nat := u.gates ++ u.operands

/-- Registers an instruction writes. -/
def Uses.writes (u : Uses) : List Nat := u.wr.flatMap (fun x => opRegs x.1 x.2) ++ u.pwr.flatMap pReg

end Sys2Proof.Machine
end

