-- ==== Sys2Proof/Machine/Walks.lean ====
section
/-! DEFINITION. The addresses that an instruction has its core translate, and what comes of that: the walks' requests to the
host (spec 09 R217; 06 R143), and the translations that its accesses use, for which `TLBINV` waits (16 R354). -/

namespace Sys2Proof.Machine

/-- A range of global memory in each of some lanes. -/
def lanesAt (lanes : List Nat) (ea : Nat → Dword) (n : Nat) : List (Dword × Nat) := lanes.map (fun l => (ea l, n))

/-- The global ranges that an instruction names in the virtual addresses of its context (R140). -/
def State.namedRanges (s : State) (i : Instr) : List (Dword × Nat) :=
  let g := s.grp
  let side (spad : Bool) (lanes : List Nat) (o : Opnd) (n : Nat) : List (Dword × Nat) :=
    if spad then [] else lanesAt lanes (g.read64 o) n
  let rows (spad : Bool) (o : Opnd) (stride n k : Nat) : List (Dword × Nat) :=
    if spad then [] else (List.range k).map (fun j => (g.read64 o 0 + BitVec.ofNat 64 (j * stride), n))
  match i with
  | .ld h _ _ sz _ a b off => lanesAt (s.lanes h) (g.ea a b off) sz.bytes
  | .sld h _ _ sz _ a b off => lanesAt ((s.xs h).take 1) (g.ea a b off) sz.bytes
  | .st h _ _ sz _ a b off => lanesAt (s.xs h) (g.ea a b off) sz.bytes
  | .sst h _ _ sz _ a b off => lanesAt ((s.xs h).take 1) (g.ea a b off) sz.bytes
  | .stm h _ _ a b off =>
    (s.xs h).flatMap (fun l => (stmBytes (g.read b l)).map (fun k => (g.ea a .zero off l + BitVec.ofNat 64 k, 1)))
  | .atom h _ _ _ _ a _ _ e | .red h _ _ _ a _ e => lanesAt (s.xs h) (g.read64 a) (atyBytes e)
  | .pref h _ _ a b off => lanesAt (s.lanes h) (g.ea a b off) 1
  | .cctl h _ op a b off => if op = .wb ∨ op = .inv then lanesAt (s.xs h) (g.ea a b off) 1 else []
  | .cpy h _ sz ss ds d a c _ => side ss (s.xs h) a sz.bytes ++ side ds (s.xs h) d (s.cpyKind sz.bytes c).2
  | .cpyc h _ sz ss ds d a _ _ => side ss (s.xs h) a sz.bytes ++ side ds (s.xs h) d (2 * sz.bytes)
  | .cpyt h _ w ss ds d a b c _ =>
    if (s.xs h).isEmpty then []
    else
      let bits := 4 * 2 ^ w.toNat
      let rw := (g.once c).toNat % 2 ^ 16
      let cl := (g.once c).toNat / 2 ^ 16
      if 32768 < rw * cl * bits then []
      else rows ss a (g.readN b 0 0).toNat (cl * bits / 8) rw ++ rows ds d (g.readN b 1 0).toNat (rw * bits / 8) cl
  | .ldct h _ sp a _ => side sp ((s.xs h).take 1) a 512
  | .waitm h _ _ w64 _ a _ => if (s.xs h).isEmpty then [] else [(g.once64 a, if w64 then 8 else 4)]
  | .hset h _ b _ => if (s.lanes h).isEmpty then [] else [(g.once64 b, 64)]
  | .ldcbk _ a _ => [(g.once64 a, 1024)]
  | .rcpy h _ sp xz _ a _ _ _ => side sp (s.xs h) a xz.bytes
  | .mdone h => if (s.xs h).isEmpty then [] else s.blk.inbox.toList.map (fun x => (x.desc + 0x10, 16))
  | .coll h _ _ _ b _ _ => if (s.xs h).isEmpty then [] else [(g.once64 b, 128)]
  | .launch h _ a _ => if (s.xs h).isEmpty then [] else [(g.once64 a, 64)]
  | _ => []

/-- An address in each page that an instruction has its core translate. -/
def State.namedPages (s : State) (i : Instr) : List Dword :=
  ((s.namedRanges i).flatMap (fun r => pagesOf r.1 r.2)).foldl (fun l a =>
    if l.any (fun b => b.toNat / 4096 == a.toNat / 4096) then l else l ++ [a]) []

/-- Some access of a context in flight may have used a translation. -/
def State.inUse (s : State) (e : Trans) : Bool :=
  s.blocks.any (fun b => b.ctx == e.ctx &&
    b.groups.any (fun g => g.accessing (fun pa => decide (e.base ≤ pa ∧ pa < e.base + e.size))))

/-- The translation of an address joins those that accesses have used. -/
def State.uses (s : State) (a : Dword) : State :=
  match s.leaf s.core s.blk.ctx a with
  | .error _ => s
  | .ok l =>
    let e : Trans := ⟨s.blk.ctx, a.toNat / l.size * l.size, l.base, l.size⟩
    if s.used.contains e then s else { s with used := s.used ++ [e] }

/-- An issue of an instruction has its addresses translated: what its walks read of the host's memory is asked for, once however
long the instruction then waits (R217; assumption 53), and its translations are noted, those of accesses that have all performed
being forgotten (R354). -/
def State.translates (s : State) (i : Instr) : State :=
  let pages := s.namedPages i
  if pages.isEmpty then s
  else
    let s := { s with used := s.used.filter s.inUse }
    let s := if s.grp.wait == .ready && !s.grp.swapped then pages.foldl (fun t a => t.asksWalk t.core t.blk.ctx a) s else s
    pages.foldl State.uses s

end Sys2Proof.Machine
end

