-- ==== Sys2Proof/Machine/Issue.lean ====
section
/-! DEFINITION. What a step does next: the issue stage (spec 02 R22, R26; 03 R76, R79, R80, R84; 20 R393), and the
turns of the agenda by which time passes, accesses perform and the outside acts. -/

namespace Sys2Proof.Machine

/-- What a step does: it executes an instruction or an event in a state, or the first of a marked pair and then the second
(R80), or it is done. -/
inductive Offer where
  | run (i : Instr) (s : State)
  | both (i : Instr) (s : State)
  | done (s : State)
  deriving DecidableEq, Repr

/-! ### Pairs (R80, R396) -/

/-- The operation code of an instruction; its class stands above bit 6. -/
def opcOf (i : Instr) : Nat := (i.fields.map (fun f => f.opc.toNat)).getD 0

/-- The kinds of pipe (R78): four vector pipes, and one of each other kind. -/
inductive Pipe where
  | vector
  | special
  | memory
  | scalar
  deriving DecidableEq, Repr

def pipeOf (i : Instr) : Pipe :=
  match opcOf i / 64 with
  | 4 | 5 => .special
  | 8 | 9 | 10 | 11 | 12 => .memory
  | 7 | 13 => .scalar
  | _ => .vector

/-- Instructions that are swap points whatever they find, but for `BAR` and `BARW`, whose swap follows their effect
(R76). -/
def isSwapPoint (i : Instr) : Bool :=
  match i with
  | .waitc .. | .waitm .. | .abwait .. | .quiet _ => true
  | _ => false

/-- The conditions under which a marked pair issues in one clock: the second slot valid, a pipe for each, the first with no
stall count, not of class 0x7 and no swap point, and no dependence between them. -/
def State.pairOk (s : State) (i : Instr) : Bool :=
  let f := s.fetch s.core s.blk.ctx s.cur.pc
  let j := pcSlot s.cur.pc
  linePair f.line j && lineValid f.line (j + 1) &&
    match decode (s.fetch s.core s.blk.ctx (s.cur.pc + 1)).word with
    | .error _ => false
    | .ok k =>
      let u := usesOf i
      let w := usesOf k
      (u.h.elim false (fun h => h.stall == 0)) && opcOf i / 64 != 7 &&
        !isSwapPoint i && (pipeOf i != pipeOf k || pipeOf i == .vector) &&
        w.reads.all (fun r => !u.writes.contains r) &&
        w.writes.all (fun r => !u.writes.contains r && !u.reads.contains r)

/-! ### Offering an issue (R79, R393) -/

/-- The forms whose checks are made lane by lane (R303, R339). -/
def perLane : Instr → Bool
  | .ld .. | .st .. | .stm .. | .atom .. | .red .. | .lds .. | .sts .. | .atoms .. | .sete .. | .setf .. | .tstf ..
  | .cpy .. | .cpyc .. | .rld .. | .rst .. | .ratom .. | .rcpy .. | .msend .. => true
  | .cctl _ _ op _ _ _ => op == .wb || op == .inv
  | _ => false

/-- The instructions of class 0xB that act once (R321). -/
def onceMatrix : Instr → Bool
  | .tpin .. | .tunpin .. | .mxcfg .. | .ldcbk .. => true
  | _ => false

/-- A class 0xB issue performs a beat, whatever the activity mask, or fails in its gangs or guards (R321). -/
def State.matrixActs (s : State) (i : Instr) (h : Hdr) : Bool :=
  match s.performed h (!onceMatrix i) with
  | .ok [] => false
  | _ => true

/-- The lanes for which a form makes its checks lane by lane: helper lanes load, and do nothing else (R31). -/
def State.checkedLanes (s : State) (i : Instr) (h : Hdr) : List Nat :=
  match i with
  | .ld .. | .lds .. => s.lanes h
  | _ => s.xs h

/-- An issue reads its operands: some lane, or for class 0xB some beat, performs it. -/
def State.readsOperands (s : State) (i : Instr) (h : Hdr) : Bool :=
  if opcOf i / 64 = 11 then s.matrixActs i h
  else if perLane i then !(s.checkedLanes i h).isEmpty
  else !(s.lanes h).isEmpty

/-- A register with an uncorrectable error that an issue reads: of its guards and of the activity mask in any case, and of
its operands where it performs. -/
def State.badRead (s : State) (i : Instr) : Option Nat :=
  let u := usesOf i
  u.gates.find? s.grp.badRegs.contains <|>
    (if u.h.elim false (s.readsOperands i) then u.operands.find? s.grp.badRegs.contains else none)

/-- The value of TREC0 in a trial issue: no fault leaves it. -/
def trialTrec : Word := 0xFFFFFFFF

/-- A trial issue of a form whose checks are made lane by lane, in its lowest executing lane alone; of another form as it
stands. -/
def State.trial (s : State) (i : Instr) (u : Uses) : State :=
  let s := s.modGrp (fun g => { g with trec0 := trialTrec })
  match perLane i, u.h.bind (fun h => (s.checkedLanes i h).head?) with
  | true, some l => s.modGrp (fun g => (List.range 3).foldl (fun g k =>
      g.setS (61 + k) (if l / 32 = k then 1 <<< (l % 32) else 0)) { g with helper := false })
  | _, _ => s

/-- Another check of an instruction fails first, or it waits on a pending count or a fence first (R181, R457 item 4): `t` is
where its trial issue leads from `s`. -/
def State.stopsFirst (s t : State) : Bool :=
  t.blk.ref != s.blk.ref ||
    (t.grp.issues == s.grp.issues && (t.grp.trec0 != trialTrec ||
      match t.grp.wait with
      | .lineEmpty _ | .lineFull _ | .fence => true
      | _ => false))

/-- An instruction that reads register `r`, which has an uncorrectable error: the fault stands behind every other check of
step 8, in the lowest executing lane (R373, R435, R457), for class 0xB in the lowest beat sent (R321). Class 0xB makes the
check itself where a beat performs. -/
def State.issueBad (s : State) (i : Instr) (u : Uses) (r : Nat) : Offer :=
  let validates := opcOf i / 64 == 11 && u.h.elim false (s.matrixActs i) && match i with
    | .mxcfg .. => false
    | _ => true
  if validates then .run i { s with cur := { s.cur with bad := some r } }
  else
    match exec i (s.trial i u) with
    | .next t =>
      if s.stopsFirst t then .run i s
      else .done (s.trap { regEcc r with beat := if opcOf i / 64 = 11 then s.setBeat else u.h.elim s.setBeat s.onceBeat })
    | _ => .run i s

/-- The G-tagged source registers of one instruction, each once (R97). -/
def State.bankReads (s : State) (u : Uses) : List Nat :=
  (u.rd.flatMap (fun x => match x.1 with
    | .v n => (List.range x.2).map (fun i => n.toNat + i)
    | _ => [])).eraseDups.filter (fun r => match s.grp.vreg r with
      | .g _ => true
      | _ => false)

/-- Clocks by which its reads delay an instruction: each bank delivers one register a clock, and the first of a pair, whose
uses are `first`, is served before it (R97; assumption 65). -/
def State.bankDelay (s : State) (first u : Uses) : Nat :=
  let at_ (w : Uses) (k : Nat) : Nat := ((s.bankReads w).filter (fun r => (r ^^^ s.grp.active.getD 0) % 4 == k)).length
  (List.range 4).foldl (fun n k => n + if at_ first k = 0 then at_ u k - 1 else at_ u k) 0

/-- The late results of an instruction with the paths on which they return: classes 0x8, 0x9 and 0xC (R76). -/
def lateResults (i : Instr) (u : Uses) : List (Nat × Path) :=
  match opcOf i / 64 with
  | 8 => u.writes.map (fun r => (r, .g))
  | 9 => u.writes.map (fun r => (r, .c))
  | 12 => u.writes.map (fun r => (r, .f))
  | _ => []

/-- In steady mode a group that comes to a swap point gives its slot to the next pending group of its block, whatever its
own condition; the instruction follows when the group's turn comes again (R84; assumption 64). -/
def State.steadySwap (s : State) (i : Instr) (u : Uses) : State :=
  let owed := s.grp.owed.any (fun x => (u.reads ++ u.writes).contains x.1)
  let here := isSwapPoint i && !(u.h.elim true (fun h => (s.lanes h).isEmpty))
  if s.blk.steady && !s.grp.swapped && (owed || here) then
    (s.swapPoint.waitFor .ready).swapOut s.cur.blk s.cur.grp
  else s

/-- The instructions from which helper lanes are left out as inactive lanes are (R31). -/
def omitsHelpers : Instr → Bool
  | .vote .. | .redg .. | .scang .. | .zscan .. | .rdlane .. => true
  | _ => false

/-- The registers that an instruction replaces whole as it issues, by the numbers of `Dest.regs`: scalars where a lane executes,
any other register in all its lanes. The late results of classes 0x8, 0x9 and 0xC are replaced as they return, `TDEC` writes
beat by beat, and `WRLANE` writes one lane (R387; assumption 17). -/
def State.renews (s : State) (i : Instr) (u : Uses) : List Nat :=
  match opcOf i / 64, i, u.h with
  | 8, _, _ | 9, _, _ | 11, _, _ | 12, _, _ | _, .wrlane .., _ | _, _, none => []
  | _, _, some h =>
    let lanes := if omitsHelpers i then s.xs h else s.lanes h
    u.writes.filter (fun r => if 128 ≤ r ∧ r < 192 then !lanes.isEmpty else lanes.length == numLanes)

/-- What the issue of an instruction adds to its group's counts and pending results, the first of a pair, if it is the second,
having the uses `first`; its addresses are translated. -/
def State.seatIssue (s : State) (i : Instr) (first : Uses) : State :=
  let u := usesOf i
  let s := s.translates i
  { s with cur := { s.cur with
      delay := s.bankDelay first u, owes := if s.blk.steady then lateResults i u else [], renew := s.renews i u } }

/-- The fetch of a line of code in host memory, and its walk, are memory requests, once for an instruction however long it then waits, and
once for a pair (R217; assumption 53). -/
def State.asksFetch (s : State) : State :=
  if s.grp.wait == .ready && !s.grp.swapped && !s.cur.paired then
    let t := s.asksWalk s.core s.blk.ctx (pcLine s.cur.pc)
    match s.transl s.core s.blk.ctx .fetch 1 (pcLine s.cur.pc) with
    | .ok (pa, _) => t.asksHost pa 64
    | .error _ => t
  else s

/-- The issue of a seated set: fetch, decoding, the interlocks on pending results (R76) and on the matrix queue
(R325, R422), then the instruction; `first` are the uses of the first of a pair. -/
def State.issueSet (s : State) (pair : Bool) (first : Uses) : Offer :=
  let f := s.fetch s.core s.blk.ctx s.cur.pc
  let s := s.asksFetch
  match f.fault with
  | some e => .done (s.trap { e with beat := s.setBeat })
  | none =>
    if !lineValid f.line (pcSlot s.cur.pc) then .run .invalidSlotIssue s
    else
      let i := decodeIssue f.word
      let u := usesOf i
      let s := s.steadySwap i u
      let busy := (u.reads ++ u.writes).filter (fun r => s.grp.pendingRegs.contains r)
      if s.grp.active.isNone then .done s
      else if !busy.isEmpty then .done (s.waitSwap (.pendingReg busy))
      else if s.grp.matrixBusy u.reads u.writes then .done (s.waitFor .matrixQueue)
      else
        match s.badRead i with
        | some r => s.issueBad i u r
        | none =>
          let s := s.modGrp (fun g => { g with owed := g.owed.filter (fun x => !(u.reads ++ u.writes).contains x.1) })
          if pair && s.pairOk i then .both i (s.seatIssue i first) else .run i (s.seatIssue i first)

/-- The second of a pair, once the first has issued: the quads that now stand at the next slot, which other quads may have
reached before (R22, R80). DESIGN CHOICE: the manual does not say whether it waits for R26's choice where another candidate
set holds an older stamp: it issues in the pair's clock all the same (assumption 83). -/
def State.secondIssue (i : Instr) (s t : State) : Offer :=
  if t.blk.ref = s.blk.ref ∧ t.grp.num = s.grp.num ∧ t.grp.issues = s.grp.issues + 1 then
    let pc := pcNext s.cur.pc
    ({ t with cur := { t.cur with quads := t.grp.setAt pc, pc := pc, bad := none, paired := true } }.issueSet false (usesOf i))
  else .done t

/-- A step goes where its offer leads. -/
def Offer.outcome : Offer → Host.Outcome State Fault Refusal
  | .run i s => exec i s
  | .done s => .next s
  | .both i s =>
    match exec i s with
    | .next t =>
      match State.secondIssue i s t with
      | .run k u | .both k u => exec k u
      | .done u => .next u
    | r => r

/-- STATUS bit 4 rises at the first instruction of a privileged context, the dispatcher (R227). -/
def State.dispatcherRuns (s : State) : State :=
  if s.ctxPriv s.blk.ctx && !s.mgmt.status.getLsbD 4 then
    { s with mgmt := { s.mgmt with status := s.mgmt.status ||| 16 } }
  else s

/-- The issue of the seated group's next set, none where it has none. -/
def State.nextSet (s : State) (pair : Bool) : Option Offer :=
  s.seatSet.map (fun u => u.dispatcherRuns.issueSet (pair || u.blk.steady) {})

/-- The instruction of the seated group's next issue would trap: the trap then enters before a waiting message (R377). -/
def State.trapsNext (s : State) (pair : Bool) : Bool :=
  match ((s.modGrp (fun g => { g with trec0 := trialTrec })).nextSet pair).map Offer.outcome with
  | some (.next t) => t.grp.issues == s.grp.issues && t.grp.trec0 != trialTrec
  | _ => false

/-- The next issue of a group: an asynchronous fault comes first at a boundary without a latch-only value, then the end of a
replayed log, then a message interrupt, unless the instruction of the boundary traps (R47, R376, R377, R392). -/
def State.offerIssue (s : State) (r : GroupRef) (pair : Bool) : Offer :=
  match s.seat r with
  | none => .done s
  | some t =>
    let g := t.grp
    if g.retired || g.active.isNone || t.plat.gate == 0 then .done s
    else if g.latchOnly == 0 && !t.blk.halted && !g.asyncs.isEmpty then .run (.asyncFaultDelivery r) t
    else if g.exited || !t.mayIssue || (t.blk.steady && t.holdsRound t.core) then .done s
    else if t.logEnds then .done (t.replayHalt t.boundary g.issues 1)
    else if t.handlerDue t.blk g && !t.trapsNext pair then .run (.handlerEntry r) t
    else if t.clock < g.stallUntil then .done s
    else (t.nextSet pair).getD (.done s)

/-! ### Turns -/

/-- Clocks in a span of time. -/
def State.clocksIn (s : State) (ns : Nat) : Nat :=
  (s.time + ns) * s.plat.clock / 1000 - s.time * s.plat.clock / 1000

/-- Time passes: TIME counts nanoseconds (R103), and the counters of clocks rise (R229). -/
def State.elapse (s : State) (ns : Nat) : State :=
  let n := s.clocksIn ns
  { s with
    time := s.time + ns
    clock := s.clock + n
    blocks := s.blocks.map (fun b => { b with groups := b.groups.map (fun g =>
      if g.retired then g
      else
        let g := g.bump 1 n
        let g := if g.active.isSome then g.bump 2 n else g
        if g.wait == .quiet then g.bump 16 n else g) }) }

/-- Runs a change on a seated group and returns. -/
def State.onGroup (s : State) (r : GroupRef) (f : State → State) : State :=
  match s.seat r with
  | none => s
  | some t => { f t with cur := s.cur }

/-- An event of the device or of the outside may stand in the agenda; the issue of a word may not. -/
def isEvent (i : Instr) : Bool :=
  !i.isInstruction && match i with
    | .invalidSlotIssue | .illegalInstructionIssue _ => false
    | _ => true

/-- A message's entry that stands in the agenda waits while the instruction of its group's boundary traps (R377). -/
def State.trapFirst (s : State) (i : Instr) : Bool :=
  match i with
  | .handlerEntry r => (s.seat r).any (fun t => t.mayIssue && t.trapsNext false)
  | _ => false

/-- A step of the matrix engine for steady blocks waits with the rounds of its core (R84). -/
def State.engineHeld (s : State) (i : Instr) : Bool :=
  match i with
  | .matrixTileStep c => s.roundNext c == enginePlace && s.holdsRound c
  | _ => false

/-- What a turn does. -/
def State.takeTurn (s : State) : Turn → Offer
  | .issue r => s.offerIssue r false
  | .pair r => s.offerIssue r true
  | .event i => if isEvent i && !s.trapFirst i && !s.engineHeld i then .run i { s with cur := { s.cur with who := none } } else .done s
  | .elapse ns => .done (s.elapse ns)
  | .perform r n => .done (s.onGroup r (fun t => ((t.performOp n).progressFab n).collAdvance t.cur.blk))
  | .copyMove r n => .done (s.onGroup r (fun t =>
      match t.grp.copies.find? (fun c => c.seq == n) with
      | none => t.readFab n none
      | some c => t.readCopy c none))
  | .copyByte r n k => .done (s.onGroup r (fun t =>
      match t.grp.copies.find? (fun c => c.seq == n) with
      | none => t.readFab n (some k)
      | some c => t.readCopy c (some k)))
  | .fence r => .done (s.onGroup r State.endFence)
  | .resync => .done { s with cur := { s.cur with who := none } }.resyncStep
  | .hostMemory a bytes =>
    .done (if a + bytes.length ≤ hostBase then { s with cur := { s.cur with who := none } }.putHome (hostBase + a) bytes else s)
  | .softError a => .done { s with badMem := addOnce s.badMem (protWord a) }
  | .l1Error c a => .done { s with l1 := s.l1.map (fun (x : L1Line) =>
      if L1Line.is c (a / 128) x then { x with bad := addOnce x.bad (a / 8) } else x) }
  | .bufError b line => .done { s with blocks := s.blocks.map (fun (x : Block) =>
      if x.ref = b then
        { x with wbuf := x.wbuf.map (fun (w : WLine) => if w.line = line then { w with bad := true } else w) }
      else x) }
  | .spadError b off => .done { s with blocks := s.blocks.map (fun (x : Block) =>
      if x.ref = b then { x with badSpm := addOnce x.badSpm (off / 8) } else x) }
  | .regError r k => .done (s.onGroup r (fun t => t.modGrp (fun g => { g with badRegs := addOnce g.badRegs k })))
  | .corrected k => .done (s.countCorrected k)
  | .scrub a => .done (if s.badMem.contains (protWord a) then s.noteEcc [protWord a] else s)

/-! ### The device by itself

With an empty agenda the device goes on as its rules let it, alternating issue with everything else; which of several
things that its rules leave unordered comes first is the model's choice (assumption 27). Time stands still. -/

/-- An active group could be offered an issue. -/
def State.canOffer (s : State) (r : GroupRef) : Bool :=
  match s.seat r with
  | none => false
  | some t =>
    let g := t.grp
    !g.retired && g.active.isSome && t.plat.gate != 0 &&
      ((g.latchOnly == 0 && !t.blk.halted && !g.asyncs.isEmpty) ||
        (!g.exited && t.mayIssue && !(t.blk.steady && t.holdsRound t.core) &&
          (t.handlerDue t.blk g || (g.hasCandidate && g.waitOver t.blk && decide (g.stallUntil ≤ t.clock)))))

/-- The resident groups with their names. -/
def State.groupRefs (s : State) : List (GroupRef × Block × Group) :=
  s.blocks.flatMap (fun b => b.groups.map (fun g => (⟨b.ref, g.num⟩, b, g)))

/-- The group whose turn it is by R79: least recent issue first, one that yielded behind every other, then the lower
active slot. A group found waiting is asked again after the others (assumption 27). -/
def State.nextIssue (s : State) : Option GroupRef :=
  (bestBy (fun x => (if x.2.2.yielded then 1 else 0, max x.2.2.lastIssue x.2.2.tried, x.2.2.active.getD 0))
    (s.groupRefs.filter (fun x => s.canOffer x.1))).map (fun x => x.1)

/-- What a group's operations in flight could do. -/
def Group.ownTurns (r : GroupRef) (b : Block) (g : Group) : List Turn :=
  (g.memops.filter g.moves).map (fun o => .perform r o.seq) ++
  ((g.memops.find? MemOp.isLoad).toList.filter (fun o => o.acc.isEmpty)).map (fun o => .event (.loadReturn r o.seq)) ++
  g.landings.map (fun x => .event (.scratchpadResultLanding r x.seq)) ++
  (g.copies.filter (fun c => !c.landed)).map (fun c =>
    if c.buf.isNone then .copyMove r c.seq else .event (.copyCompletion r c.seq)) ++
  (if g.mats.isEmpty then [] else [.event (.matrixTileStep ⟨b.die, b.core⟩)]) ++
  (g.fabs.filter (fun o => !o.src.unread.isEmpty)).map (fun o => .copyMove r o.seq) ++
  (g.fabs.filter (fun o => match o.kind with
    | .mdone .. | .qstat _ => !o.done
    | _ => false)).map (fun o => .perform r o.seq) ++
  (if g.fences.any (g.fenceMoves b.halted) then [.fence r] else []) ++
  (if g.allDone && !g.retired && !b.halted then [.event (.groupRetire r)] else [])

/-- The event by which a request arrives. -/
def arrival (p : Packet) : Instr :=
  match p.body with
  | .read _ _ => .remoteReadRequest p
  | .write _ => .remoteWriteRequest p
  | .atomic .. => .remoteAtomicRequest p
  | .message .. => .messageDelivery p
  | .chunk .. => .collChunkArrival p
  | .notice _ _ => .slotReleaseNotice p

/-- The event by which a response arrives. -/
def answer (peer seq : Nat) (r : Resp) : Instr :=
  match r with
  | .read bytes => .readResponse peer seq bytes
  | .write => .writeCompletion peer seq
  | .atomic old => .atomicResponse peer seq old
  | .refused e => .refusalResponse peer seq e

/-- What else the device could do. -/
def State.ownTurns (s : State) : List Turn :=
  s.groupRefs.flatMap (fun x => x.2.2.ownTurns x.1 x.2.1) ++
  s.blocks.flatMap (fun b =>
    if b.halting.isSome && !b.halted then [.event (.blockHalt b.ref)]
    else if b.halted && !b.stuck then [.event (.blockSave b.ref)] else []) ++
  s.launches.flatMap (fun l =>
    if !l.eligible then [.event (.launchEligible l.ref)]
    else if s.launchDone l then [.event (.launchCompletion l.ref)] else []) ++
  (if s.launches.any (fun l => l.eligible && (!l.stopped || !l.again.isEmpty) && (!l.allOut || l.uncommitted)) || !s.saved.isEmpty then
    (List.range 4).map (fun d => .event (.blockDispatch d)) else []) ++
  s.reqs.flatMap (fun q =>
    if s.mayLeave q then
      [.event (.arbiterTurn (if q.pkt.dst = s.rank then loopPort else s.portOf q.pkt.dst))]
    else if q.pkt.dst = s.rank ∧ s.turnedBack q.pkt then [.event (arrival q.pkt)]
    else []) ++
  s.loopResp.map (fun x => .event (answer s.rank x.1 x.2)) ++
  (if s.mgmt.resync.isSome then [.resync] else []) ++
  s.heldq.filterMap (fun h => (s.heldPort h).map (fun n => .event (.arbiterTurn n)))

/-- With no turn given the device goes on by itself. -/
def State.auto (s : State) : Offer :=
  let own := s.ownTurns
  let other : Offer :=
    match own[s.clock / 2 % own.length]? with
    | none => .done s
    | some x => s.takeTurn x
  match s.nextIssue with
  | none => other
  | some r => if s.clock % 2 = 0 ∨ own.isEmpty then s.takeTurn (.issue r) else other

/-- What the next step does: a discard, a second start or a late chunk that a replayed log names at this point first, then a noted
uncorrectable error without a consumer, then the agenda. -/
def State.offer (s : State) : Offer :=
  match s.dueDiscard with
  | some b => .done (s.discardAt b)
  | none =>
    match s.dueRerun, s.dueLate with
    | some (l, n, c), _ => .done ({ s with free := s.free + 1 }.startAgain l n c)
    | none, some e => .done (s.replayLate e)
    | none, none =>
      let t := { s.settle.servePreq with clock := s.clock + 1 }
      match t.eccFail, t.agenda with
      | a :: _, _ => .run (.eccAsyncFailure a) t
      | [], [] => t.auto
      | [], x :: xs => { t with agenda := xs }.takeTurn x

/-! ### Placing an instruction where a step fetches it -/

/-- The core, the block and the group that `withFetchWord` seats. -/
def probeRef : GroupRef := ⟨⟨⟨64, 0⟩, 0⟩, 0⟩

def probeCore : CoreId := ⟨0, 0⟩

/-- Entry of the probe's code, virtual and physical. -/
def probeEntry : Nat := 0x100000

/-- A block of one group at its start, resident on core 0 of die 0 in context 0. -/
def probeBlock (k : Nat) : Block :=
  { Block.nil with
    ref := probeRef.block
    entry := BitVec.ofNat 64 probeEntry
    spad := 3145728
    groups := [{ Group.start 0 0 (BitVec.ofNat 64 probeEntry) 0 0 k with active := some 0 }] }

/-- The line word of a line whose slot 0 alone is valid and a branch target. -/
def probeLine (w : BitVec 96) : Nat := 2 ^ 14 + 2 ^ 9 + onesOf w 96 % 2

/-- A fetch line with `w` in slot 0, behind a cached identity page of 1 GiB. -/
def State.placeWord (s : State) (w : BitVec 96) : State :=
  { s with
    mem := Memory.write (Memory.write s.mem probeEntry 12 w.toNat) (probeEntry + 60) 4 (probeLine w)
    badMem := s.badMem.filter (fun x => decide (x / 8 ≠ probeEntry / 64))
    eccFail := []
    tlb := ⟨probeCore, 0, 0, ⟨0, 2 ^ 30, 0, false, true, true⟩⟩ :: s.tlb
    blocks := probeBlock s.free :: s.blocks.filter (fun b => b.ref != probeRef.block)
    plat := { s.plat with gate := max 1 s.plat.gate }
    free := s.free + 4
    agenda := .issue probeRef :: s.agenda }

end Sys2Proof.Machine
end

