-- ==== Sys2Proof/Machine/Step.lean ====
section
/-! DEFINITION. One step of the device. -/

namespace Sys2Proof.Machine

/-- One step: what the agenda, or the device itself, does next. -/
def step (s : State) : Host.Outcome State Fault Refusal := s.offer.outcome

/-- `s` with an instruction placed where the next step fetches it: a group of one resident block stands at a line
whose slot 0 holds the word `w` (assumption 16). Every instruction is 96 bits long. -/
def State.withFetchWord (s : State) (nbits w : Nat) : State := s.placeWord (BitVec.ofNat 96 (w % 2 ^ nbits))

end Sys2Proof.Machine
end

