-- ==== Sys2Proof/Safety.lean ====
section
/-! DEFINITION. What counts as a safe step and a safe run, and the terms in which the claims about one step are
stated: the seat, what an issue leaves alone, and what a destination reads as afterwards. -/

namespace Sys2Proof

open Machine

/-- The next step of a state gives a state: it ends in no fault and no refusal of the model. -/
def SafeStep (s : State) : Prop := ∃ t, step s = .next t

/-- The first `n` steps from a state all give a state. -/
def SafeRun : Nat → State → Prop
  | 0, _ => True
  | n + 1, s => ∃ t, step s = .next t ∧ SafeRun n t

/-- The present block and group are resident: the seat of an instruction names them by index. -/
def Seated (s : State) : Prop := s.cur.blk < s.blocks.length ∧ s.cur.grp < s.blk.groups.length

/-! ### What one issue leaves alone -/

/-- Nothing of the device changes but the present group, the count of undefined values drawn and, in steady mode,
the place of the core's round: no other group or block, no launch, cache, home, queue or register of the device. -/
def OnlyGroup (s t : State) : Prop :=
  t = { s with blocks := s.blocks.set s.cur.blk { s.blk with groups := s.blk.groups.set s.cur.grp t.grp },
               free := t.free, rounds := t.rounds }

/-- Every byte of the homes and of the block's scratchpad window reads as before. -/
def MemoryKept (s t : State) : Prop :=
  (∀ a, Memory.byte t.mem a = Memory.byte s.mem a) ∧ (∀ a, Memory.byte t.blk.spm a = Memory.byte s.blk.spm a)

/-- The special registers of the group keep their values: GMR, MXA, HVEC, HMASK, the trap record, the event
selectors, the captured TIME, helper mode and the frame; and its operations in flight, waits and pins stand. The late
results that a steady block's group will take at its next swap point, the registers that fail their check and what an
instruction in progress had read are bookkeeping of the issue (R84, R148, R387). -/
def SpecialKept (g g' : Group) : Prop :=
  g' = { g with sregs := g'.sregs, vregs := g'.vregs, preds := g'.preds, oregs := g'.oregs, lt0 := g'.lt0,
                lt1 := g'.lt1, latchOnly := g'.latchOnly, quads := g'.quads, issues := g'.issues, ecnt := g'.ecnt,
                lastIssue := g'.lastIssue, stallUntil := g'.stallUntil, yielded := g'.yielded,
                badRegs := g'.badRegs, part := g'.part,
                swapped := g'.swapped, resumed := g'.resumed, owed := g'.owed, wait := .ready }

/-- Vector, operand-file, scalar and predicate registers outside those named keep their contents. -/
def RegsKept (g g' : Group) (v o sc p : Nat → Prop) : Prop :=
  (∀ n, ¬ v n → g'.vreg n = g.vreg n) ∧ (∀ n, ¬ o n → g'.oreg n = g.oreg n) ∧
  (∀ n, ¬ sc n → g'.sreg n = g.sreg n) ∧ (∀ n, ¬ p n → Tbl.get 0 g'.preds n = Tbl.get 0 g.preds n)

/-- No register of a kind. -/
def noReg (_ : Nat) : Prop := False

/-- The `k` vector, operand-file or scalar registers from the one an operand names. -/
def vRegs (d : Opnd) (k n : Nat) : Prop := ∃ r, d = .v r ∧ r.toNat ≤ n ∧ n < r.toNat + k
def oRegs (d : Opnd) (k n : Nat) : Prop := ∃ r, d = .o r ∧ r.toNat ≤ n ∧ n < r.toNat + k
def sRegs (d : Opnd) (k n : Nat) : Prop := ∃ r, d = .s r ∧ r.toNat ≤ n ∧ n < r.toNat + k
/-- The predicate that a P field names, unless it is p7. -/
def pReg (p : PField) (n : Nat) : Prop := n = p.num.toNat ∧ p.num ≠ 7

/-- Both latches keep their contents. -/
def LatchesKept (g g' : Group) : Prop := g'.lt0 = g.lt0 ∧ g'.lt1 = g.lt1

/-- The end of an issue whose quads go to the PCs `pcs` gives: they carry the issue's number as their stamp, every
other quad stands, the group has issued once more, a latch-only value has one issue less to live or begins to
live (R90), and only counters of issues, beats, pairs and bank delays have counted (R229). A register that failed its check
still does, unless the issue replaced it whole, and none fails anew but lt1, which holds what lt0 held (R387). -/
def Issued (s t : State) (h : Hdr) (pcs : Nat → Dword → Dword) : Prop :=
  t.grp.quads = s.grp.quads.mapIdx (fun i q =>
    if s.cur.quads.getLsbD i then { q with pc := pcs i q.pc, stamp := s.grp.issues } else q) ∧
  t.grp.issues = s.grp.issues + 1 ∧ t.grp.stallUntil = s.clock + max 1 h.stall.toNat ∧
  (t.grp.latchOnly = s.grp.latchOnly - 1 ∨ t.grp.latchOnly = 2) ∧
  t.grp.part = none ∧ (∀ r ∈ t.grp.badRegs, r ∈ s.grp.badRegs ∨ r = 201) ∧
  (∀ r ∈ s.grp.badRegs, r ∉ s.cur.renew → r < 200 ∨ 256 ≤ r → r ∈ t.grp.badRegs) ∧
  ∀ i, (Tbl.get 0 s.grp.ecsel i).toNat % 256 ∉ [3, 4, 5, 7] → Tbl.get 0 t.grp.ecnt i = Tbl.get 0 s.grp.ecnt i

/-- The frame of an instruction that works on registers alone and falls through: the registers named may change, and
GMR may when `gmr` says so. -/
def RegisterFrame (s t : State) (h : Hdr) (gmr : Bool) (v o sc p : Nat → Prop) : Prop :=
  OnlyGroup s t ∧ MemoryKept s t ∧ Issued s t h (fun _ pc => pcNext pc) ∧
  RegsKept s.grp t.grp v o sc p ∧
  SpecialKept (if gmr then { s.grp with gmr := t.grp.gmr } else s.grp) t.grp

/-- What an issue leaves that falls through and writes no register: from `s`, only the group's bookkeeping of the issue
moves on, and its other fields stand as in `g`. A byte of memory, a flag or a special register that differs from before
the issue differs in `s` or in `g`, which the statements name. -/
def IssueFrom (s t : State) (h : Hdr) (g : Group) : Prop :=
  OnlyGroup s t ∧ MemoryKept s t ∧ Issued s t h (fun _ pc => pcNext pc) ∧
  RegsKept s.grp t.grp noReg noReg noReg noReg ∧ LatchesKept s.grp t.grp ∧ SpecialKept g t.grp

/-- As `IssueFrom`, for an issue at a swap point: the operand file and both latches hold undefined values afterwards
(R88, R91), so nothing is said of them. -/
def SwapFrom (s t : State) (h : Hdr) (g : Group) : Prop :=
  OnlyGroup s t ∧ MemoryKept s t ∧ Issued s t h (fun _ pc => pcNext pc) ∧
  RegsKept s.grp t.grp noReg (fun _ => True) noReg noReg ∧ SpecialKept g t.grp

/-- The group waits at its instruction, which has had no effect: its registers but the operand file, its special
registers, its quads and every byte of memory stand; it may have left its active slot (R76). -/
def WaitsAt (s t : State) (w : GWait) : Prop :=
  t.grp.wait = w ∧ t.grp.quads = s.grp.quads ∧ t.grp.issues = s.grp.issues ∧ MemoryKept s t ∧
  RegsKept s.grp t.grp noReg (fun _ => True) noReg noReg ∧
  t.grp.gmr = s.grp.gmr ∧ t.grp.mxa = s.grp.mxa ∧ t.grp.hvec = s.grp.hvec ∧ t.grp.hmaskr = s.grp.hmaskr ∧
  t.grp.trec0 = s.grp.trec0 ∧ t.grp.frame = s.grp.frame ∧ t.grp.memops = s.grp.memops

/-- The group that a reference names, where it is resident. -/
def GroupAt (s : State) (r : GroupRef) (g : Group) : Prop := ∃ u, s.seat r = some u ∧ u.grp = g

/-- The block that a reference names, where it is resident. -/
def BlockAt (s : State) (r : BlockRef) (b : Block) : Prop := ∃ u, s.seatBlk r = some u ∧ u.blk = b

/-- Every byte of the homes reads as before, but those from `a` on, `n` of them. -/
def MemoryKeptBut (s t : State) (a n : Nat) : Prop :=
  ∀ x, x < a ∨ a + n ≤ x → Memory.byte t.mem x = Memory.byte s.mem x

/-! ### What a destination reads as -/

/-- A latch update with 32-bit or 64-bit results `lo` and `hi`: lt1 holds what lt0 held, and lt0 the result in the
lanes that execute (R89). -/
def LatchHolds (s t : State) (lanes : Nat → Bool) (lo : Nat → Word) (hi : Option (Nat → Word)) : Prop :=
  t.grp.lt1 = s.grp.lt0 ∧
  ∀ l, l < 96 → lanes l = true → t.grp.lt0.lo.read l = lo l ∧ ∀ f, hi = some f → t.grp.lt0.hi.read l = f l

/-- The latches after an issue of classes 0x0 to 0x6 whose D is `d` and in which no lane writes: lt0 moves to lt1 by the D
field alone (R89). -/
def LatchesMoved (s t : State) (d : Opnd) : Prop :=
  match d with
  | .v _ | .o _ | .lt0 => t.grp.lt1 = s.grp.lt0
  | _ => LatchesKept s.grp t.grp

/-- What a 32-bit destination reads as after a lane-wise result `val` in `lanes`: a vector or operand-file register
holds it there and its old value elsewhere; a scalar holds the lowest executing lane's, or its old value when no
lane executes (R87); the latches take part as R89 says. -/
def Holds32 (s t : State) (lanes : Nat → Bool) (d : Opnd) (val : Nat → Word) : Prop :=
  match d with
  | .v _ | .o _ =>
    (∀ l, l < 96 → t.grp.read d l = if lanes l then val l else s.grp.read d l) ∧ LatchHolds s t lanes val none
  | .lt0 => LatchHolds s t lanes val none
  | .s _ => t.grp.read d 0 = (lowest lanes).elim (s.grp.read d 0) val ∧ LatchesKept s.grp t.grp
  | _ => LatchesKept s.grp t.grp

/-- What a 64-bit destination reads as; its even register holds the low half (R86). -/
def Holds64 (s t : State) (lanes : Nat → Bool) (d : Opnd) (val : Nat → Dword) : Prop :=
  match d with
  | .v _ | .o _ =>
    (∀ l, l < 96 → t.grp.read64 d l = if lanes l then val l else s.grp.read64 d l) ∧
      LatchHolds s t lanes (loOf val) (some (hiOf val))
  | .lt0 => LatchHolds s t lanes (loOf val) (some (hiOf val))
  | .s _ => t.grp.read64 d 0 = (lowest lanes).elim (s.grp.read64 d 0) val ∧ LatchesKept s.grp t.grp
  | _ => LatchesKept s.grp t.grp

/-- What a predicate holds after a result in `lanes`; a write to p7 is ignored (R268). -/
def HoldsP (s t : State) (lanes : Nat → Bool) (p : PField) (val : Nat → Bool) : Prop :=
  ∀ l, l < 96 → t.grp.pred p.num l = if p.num ≠ 7 ∧ lanes l = true then val l else s.grp.pred p.num l

/-- A lane-wise 32-bit instruction: it completes, D holds `val` in active(g), and nothing else changes. -/
def LaneWise (s : State) (i : Instr) (h : Hdr) (d : Opnd) (val : Nat → Word) : Prop :=
  ∃ t, exec i s = .next t ∧ Holds32 s t (s.lane h) d val ∧
    RegisterFrame s t h false (vRegs d 1) (oRegs d 1) (sRegs d 1) noReg

/-- A lane-wise float instruction: element e of D in lane l is `r e l` (R112, R286), and GMR gains the flags of X(g)
(R31, R100). -/
def FloatWise (s : State) (i : Instr) (h : Hdr) (ft : FTy) (d : Opnd) (r : Nat → Nat → Rnd) : Prop :=
  ∃ t, exec i s = .next t ∧
    (if ft.isF64 then Holds64 s t (s.lane h) d (fun l => BitVec.ofNat 64 (r 0 l).bits)
     else Holds32 s t (s.lane h) d (fun l =>
       BitVec.ofNat 32 ((r 0 l).bits + if ft.packed then 2 ^ 16 * (r 1 l).bits else 0))) ∧
    t.grp.gmr = s.grp.gmr ||| (orFlags (s.xs h) (fun l =>
      if ft.packed then (r 0 l).flags.or (r 1 l).flags else (r 0 l).flags)).gmr ∧
    RegisterFrame s t h true (vRegs d (if ft.isF64 then 2 else 1)) (oRegs d (if ft.isF64 then 2 else 1))
      (sRegs d (if ft.isF64 then 2 else 1)) noReg

/-- A statistics instruction whose D is a triple of vector registers: each lane of `lanes` holds its triple (R298,
R299), the latches its first two words (R89), and GMR gains the flags named. -/
def TripleWise (s : State) (i : Instr) (h : Hdr) (lanes : Nat → Bool) (d : Opnd) (v : Nat → Triple) (f : Flags) : Prop :=
  ∃ t, exec i s = .next t ∧
    (∀ l, l < 96 → t.grp.triple d l = if lanes l then v l else s.grp.triple d l) ∧
    LatchHolds s t lanes (fun l => (v l).w) (some (fun l => (v l).mu)) ∧
    t.grp.gmr = s.grp.gmr ||| f.gmr ∧
    RegisterFrame s t h true (vRegs d 3) noReg noReg noReg

/-- A lane-wise 64-bit instruction. -/
def LaneWise64 (s : State) (i : Instr) (h : Hdr) (d : Opnd) (val : Nat → Dword) : Prop :=
  ∃ t, exec i s = .next t ∧ Holds64 s t (s.lane h) d val ∧
    RegisterFrame s t h false (vRegs d 2) (oRegs d 2) (sRegs d 2) noReg

/-- A lane-wise instruction with a predicate result. -/
def LanePred (s : State) (i : Instr) (h : Hdr) (lanes : Nat → Bool) (p : PField) (val : Nat → Bool) : Prop :=
  ∃ t, exec i s = .next t ∧ HoldsP s t lanes p val ∧ LatchesKept s.grp t.grp ∧
    RegisterFrame s t h false noReg noReg noReg (pReg p)

/-! ### Events -/

/-- An event about a group: with the group seated as `u`, it completes in a state `v` that `P` relates to `u`, and the
seat goes back to where it was. -/
def AtGroup (s : State) (r : GroupRef) (i : Instr) (P : State → State → Prop) : Prop :=
  ∀ u, s.seat r = some u → ∃ v, exec i s = .next { v with cur := s.cur } ∧ P u v

/-- Only the seated group changes, and of it only what `g` says: its registers and predicates may, and with them the registers
that fail their check (R387). -/
def GroupOnly (u v : State) (g : Group) : Prop :=
  v = u.setGrp v.grp ∧
  v.grp = { g with sregs := v.grp.sregs, vregs := v.grp.vregs, preds := v.grp.preds, badRegs := v.grp.badRegs }

/-- Register `n` lies in a destination of the vector or of the scalar file. -/
def inDest (d : Dest) (scalar : Bool) (n : Nat) : Prop := d.scalar = scalar ∧ d.base ≤ n ∧ n < d.base + d.n

/-- Word `i` of a returned value, extended as R304 says. -/
def extended (sz : Size) (v i : Nat) : Word :=
  match sz with
  | .s8 => (BitVec.ofNat 8 v).signExtend 32
  | .s16 => (BitVec.ofNat 16 v).signExtend 32
  | _ => BitVec.ofNat 32 (v / 2 ^ (32 * i))

/-- Returned values reach their registers: each lane that received one holds its words and every other lane its old
value; a scalar destination holds the one value (R302, R304, R306). -/
def Delivered (g g' : Group) (d : Dest) (got : List (Nat × Nat)) : Prop :=
  ∀ i, i < d.n →
    (d.scalar = true → ∀ x xs, got = x :: xs → g'.sreg (d.base + i) = extended d.size x.2 i) ∧
    (d.scalar = false → ∀ l, l < 96 → (g'.vreg (d.base + i)).read l =
      if got.any (fun e => e.1 == l) then extended d.size (Tbl.get 0 got l) i else (g.vreg (d.base + i)).read l)

/-- An arrival of `n` with flags `f` at the barrier object at `o` (R163, R165): the count rises, and the flags gather; at
the expected count the phase advances, the count starts again at zero, and the gathered flags become those of the
completed phase. No other byte changes. -/
def Arrived (b b' : Block) (o n : Nat) (f : BitVec 7) : Prop :=
  let count := (b.objWord (o + 4) + n) % 2 ^ 32
  let flags := b.objWord (o + 12) ||| f.toNat
  (if count = b.objWord o % 2 ^ 24 then
     b'.objWord (o + 4) = 0 ∧ b'.objWord (o + 8) = (b.objWord (o + 8) + 1) % 2 ^ 32 ∧ b'.objWord (o + 12) = 0 ∧
       b'.objWord (o + 16) = flags
   else
     b'.objWord (o + 4) = count ∧ b'.objWord (o + 8) = b.objWord (o + 8) ∧ b'.objWord (o + 12) = flags ∧
       b'.objWord (o + 16) = b.objWord (o + 16)) ∧
  ∀ x, x < o + 4 ∨ o + 20 ≤ x → Memory.byte b'.spm x = Memory.byte b.spm x

/-- What a load of a group reads for the byte at `x` where its core's copy of the line is the newest: the copy's dirty
byte, else the home's. -/
def newest (s : State) (c : CoreId) (x : Nat) : Byte :=
  match s.l1Find c (x / 128) with
  | none => Memory.byte s.mem x
  | some y => if y.dirty.getLsbD (x % 128) then Memory.byte y.data x else Memory.byte s.mem x

/-- No word of a home, and none of the line of `x` in the core's L1, fails its check. -/
def SoundLine (s : State) (c : CoreId) (x : Nat) : Prop := s.badMem = [] ∧ ∀ y, s.l1Find c (x / 128) = some y → y.bad = []

/-- No word of a home or of an L1 fails its check. -/
def Sound (s : State) : Prop := s.badMem = [] ∧ ∀ y ∈ s.l1, y.bad = []

end Sys2Proof
end

