-- ==== Sys2Proof/Certificates/Slice0/Obligations.lean ====
section
/-! DEFINITION. The statements about the model, for the provers. -/

open Sys2Proof Sys2Proof.Machine

/-! ### Encoding -/

/-- Decode of encode is the identity on every well-formed instruction, with every operand at every value the encoding
admits (R237 to R249, R258 to R266). -/
def Obligations.DecodeEncode : Prop :=
  ∀ i : Instr, i.wf = true → ∃ w, encode i = some w ∧ decode w = .ok i

/-- A word that decodes is the word of the instruction it decodes to, and that instruction is well-formed: each word
has one meaning and no bit of it is dropped. -/
def Obligations.EncodeDecode : Prop :=
  ∀ (w : BitVec 96) (i : Instr), decode w = .ok i → i.wf = true ∧ encode i = some w

/-- Words that the spec writes out (R233, R235, R266 and the worked encodings of its chapters 12 to 16 and 18) decode to the
instructions they stand for, one or more of every class but those that chapter 11 shows by fields alone, and the three
words of R396's table that are no instruction are refused by the rule the table names. -/
def Obligations.SpecWordsDecode : Prop :=
  let p7 : Guard := ⟨false, 7⟩
  let h : Hdr := ⟨p7, p7, 0, false⟩
  decode 0x7200000000000003B8000000#96 = .ok (.nop h) ∧
  decode 0x808004210140001BB8000000#96 = .ok (.stm h 0 (.v 8) (.s 4) (.v 10) 3) ∧
  decode 0x800B042100C00203B8000000#96 = .ok (.ld h 0 ⟨.rlx, false⟩ .b64 (.v 8) (.s 4) (.v 6) 0x40) ∧
  decode 0x60D003005C200003B8000000#96 = .ok (.shfl h .add (.v 6) (.v 1) (.int 17)) ∧
  decode 0x5040050280600003B8000000#96 =
    .ok (.stupd h ⟨false, false, false, false, false, false⟩ (.v 10) (.v 10) (.v 3)) ∧
  decode 0xB0044A0012C984D3B8000000#96 = .ok (.mmq h .q3 1 (.s 20) (.v 0) (.s 22) (.s 24) (.s 26)) ∧
  decode 0xB0D4650011000650B8000000#96 = .ok (.tenc ⟨⟨false, 1⟩, p7, 0, false⟩ .q3 1 1 .zero (.v 0) (.s 8) .zero) ∧
  decode 0xC042020090C00003B8000000#96 = .ok (.rst h false .b32 (.v 4) (.v 2) (.s 6) PField.zero) ∧
  decode 0xC180000000000003B8000000#96 = .ok (.quiet h) ∧
  decode 0xD00045000000000BB8000000#96 = .ok (.csrr h (.s 10) 0x020) ∧
  decode 0x7200000000000003B8000040#96 = .error (.reserved 6) ∧
  decode 0x7400000000000003B8000000#96 = .error .opc ∧
  decode 0x800B042119A00203B8000000#96 = .error (.operand 2)

/-! ### The step -/

/-- A step runs the decoded instruction. No discard, second start or late chunk of a replayed log is due, nor the log's end; the agenda's turn offers group r an issue, or
a pair (after the scheduler has settled, `t`); the group stands in an active slot, its block may issue, in steady mode the rounds of
its core wait for no block (R84; log entry 64), nothing interrupts it, or only a message that the instruction's trap goes ahead of (R377), and its stall count is over; the bytes of the slot at the chosen set's PC, read at the home its translation names, pass
steps 1 and 2 of R393 on a valid slot and decode to i; no register of i has a pending result or belongs to a queued matrix
operation, and none it reads failed its check. Then step is exec of i with the set seated, which is all that step adds:
the clock counted one on, the turn consumed, STATUS bit 4 for the dispatcher, the request for a line of code that lies in host memory, the pages that i's addresses translate
through with the walks' requests (R217, R354), the results that a steady block's group takes now no longer owed, and in the seat what the end of the issue counts. Where
the turn is a pair's, or the block is steady, and the slots make one (R80), the second issues in the same step. A group
of a steady block that gives its slot away at its swap point does that instead (R84). What a steady block's group owes, and
which waits are swap points of its list, is log entry 64: the model's reading of R84. -/
def Obligations.StepRunsDecoded : Prop :=
  ∀ (s t u v w x y : State) (r : GroupRef) (xs : List Turn) (pair : Bool) (pa ct : Nat) (i : Instr), s.dueDiscard = none →
    s.dueRerun = none → s.dueLate = none →
    t = { s.settle.servePreq with clock := s.clock + 1 } → t.eccFail = [] →
    t.agenda = (if pair then .pair r else .issue r) :: xs →
    ({ t with agenda := xs }).seat r = some u →
    u.grp.retired = false → u.grp.active.isSome = true → u.plat.gate ≠ 0 → u.grp.asyncs = [] →
    u.grp.exited = false → u.mayIssue = true → (u.blk.steady && u.holdsRound u.core) = false → u.logEnds = false →
    (u.handlerDue u.blk u.grp && !u.trapsNext pair) = false → u.grp.stallUntil ≤ u.clock →
    u.seatSet = some v → w = v.dispatcherRuns →
    pcMalformed w.cur.pc = false → w.transl w.core w.blk.ctx .fetch 1 (pcLine w.cur.pc) = .ok (pa, ct) →
    w.badAt pa 64 = false →
    step2 (BitVec.ofNat 96 (w.phys (pa + 12 * pcSlot w.cur.pc) 12)) (BitVec.ofNat 32 (w.phys (pa + 60) 4))
      (pcSlot w.cur.pc) = none →
    lineValid (BitVec.ofNat 32 (w.phys (pa + 60) 4)) (pcSlot w.cur.pc) = true →
    decode (BitVec.ofNat 96 (w.phys (pa + 12 * pcSlot w.cur.pc) 12)) = .ok i →
    x = w.asksFetch.steadySwap i (usesOf i) →
    (x.grp.active = none → step s = .next x) ∧
    (x.grp.active.isSome = true → ((usesOf i).reads ++ (usesOf i).writes).all (fun n => !x.grp.pendingRegs.contains n) = true →
      x.grp.matrixBusy (usesOf i).reads (usesOf i).writes = false → x.badRead i = none →
      y = x.modGrp (fun g => { g with
        owed := g.owed.filter (fun e => !((usesOf i).reads ++ (usesOf i).writes).contains e.1) }) →
      (((pair || w.blk.steady) && y.pairOk i) = false → step s = exec i (y.seatIssue i {})) ∧
      (((pair || w.blk.steady) && y.pairOk i) = true → ∀ z, exec i (y.seatIssue i {}) = .next z →
        step s = (match State.secondIssue i (y.seatIssue i {}) z with
          | .run k u | .both k u => exec k u
          | .done u => .next u)))

/-! ### Classes 0x0 and 0x1: integers, logic and bits -/

/-- Class 0x0, 32-bit results (R271): D holds put, putsat or the unnarrowed value of the exact result in every lane of
active(g), a scalar D the lowest lane's, and nothing else changes. Both tags and the sources' tags are seen through:
whatever tag R93 and R94 give the result, it reads as the value. -/
def Obligations.IntegerResults : Prop :=
  ∀ (s : State) (h : Hdr) (m : Mods) (t : ITy) (sat : Bool) (d a b c : Opnd) (imm : Word), Seated s →
    let x (l : Nat) : Int := s.grp.int t (m.a a) l
    let y (l : Nat) : Int := s.grp.int t (m.b b) l
    let z (l : Nat) : Int := s.grp.int t (m.c c) l
    LaneWise s (.iadd h m t sat d a b) h d (fun l => intOut t sat (x l + y l)) ∧
    LaneWise s (.isub h m t sat d a b) h d (fun l => intOut t sat (x l - y l)) ∧
    LaneWise s (.iadd3 h m t sat d a b c) h d (fun l => intOut t sat (x l + y l + z l)) ∧
    LaneWise s (.imul h m t sat d a b) h d (fun l => intOut t sat (x l * y l)) ∧
    LaneWise s (.imulh h m t d a b) h d (fun l => (BitVec.ofInt 64 (x l * y l)).extractLsb' 32 32) ∧
    LaneWise s (.imad h m t sat d a b c) h d (fun l => intOut t sat (x l * y l + z l)) ∧
    LaneWise s (.imin h m t d a b) h d (fun l => ITy.put t (min (x l) (y l))) ∧
    LaneWise s (.imax h m t d a b) h d (fun l => ITy.put t (max (x l) (y l))) ∧
    LaneWise s (.iabs h m t sat d a) h d (fun l => intOut t sat (x l).natAbs) ∧
    LaneWise s (.isad h m t d a b c) h d (fun l => BitVec.ofNat 32 (x l - y l).natAbs + s.grp.word (m.c c) l) ∧
    ((t = .i8 ∨ t = .n8) →
      let t32 : ITy := if t = .i8 then .i32 else .n32
      LaneWise s (.idot4 h m t sat d a b c) h d (fun l =>
        intOut t32 sat (((List.range 4).map (fun i =>
          s.grp.dotByte t (m.a a) i l * s.grp.dotByte t (m.b b) i l)).sum + ITy.rd t32 (s.grp.word (m.c c) l)))) ∧
    LaneWise s (.mov h m false d a) h d (fun l => s.grp.word (m.a a) l) ∧
    LaneWise s (.movi h false d imm) h d (fun _ => imm)

/-- Class 0x0, 64-bit results (R271): the pair D holds the wrapped 64-bit value, its even register the low half
(R86). -/
def Sys2Proof.Parts.WideIntegerResults : Prop :=
  ∀ (s : State) (h : Hdr) (m : Mods) (t : ITy) (k : BitVec 3) (d a b c : Opnd) (imm : Word), Seated s →
    LaneWise64 s (.imadw h m t d a b c) h d (fun l =>
      BitVec.ofInt 64 (s.grp.int t (m.a a) l * s.grp.int t (m.b b) l) + s.grp.dword (m.c c) l) ∧
    LaneWise64 s (.lea h m t k d a b) h d (fun l =>
      s.grp.dword (m.a a) l + BitVec.ofInt 64 (s.grp.int t (m.b b) l * 2 ^ k.toNat)) ∧
    LaneWise64 s (.iadd64 h m d a b) h d (fun l => s.grp.dword (m.a a) l + s.grp.dword (m.b b) l) ∧
    LaneWise64 s (.isub64 h m d a b) h d (fun l => s.grp.dword (m.a a) l - s.grp.dword (m.b b) l) ∧
    ((Instr.mov h m true d a).wf = true → LaneWise64 s (.mov h m true d a) h d (fun l => s.grp.dword (m.a a) l)) ∧
    LaneWise64 s (.movi h true d imm) h d (fun _ => imm.signExtend 64)

/-- `IADDC` and `ISUBB` (R271): the wrapped sum or difference with the carry or borrow in of predicate pc, and the
carry or borrow out, unsigned, to predicate pe in the lanes that execute. -/
def Sys2Proof.Parts.CarryResults : Prop :=
  ∀ (s : State) (h : Hdr) (m : Mods) (d a b : Opnd) (pc pe : PField), Seated s →
    let x (l : Nat) : Int := (s.grp.word (m.a a) l).toNat
    let y (l : Nat) : Int := (s.grp.word (m.b b) l).toNat
    let k (l : Nat) : Int := if s.grp.pfield pc l then 1 else 0
    (∃ t, exec (.iaddc h m d a b pc pe) s = .next t ∧
      Holds32 s t (s.lane h) d (fun l => BitVec.ofInt 32 (x l + y l + k l)) ∧
      HoldsP s t (s.lane h) pe (fun l => decide (2 ^ 32 ≤ x l + y l + k l)) ∧
      RegisterFrame s t h false (vRegs d 1) (oRegs d 1) (sRegs d 1) (pReg pe)) ∧
    (∃ t, exec (.isubb h m d a b pc pe) s = .next t ∧
      Holds32 s t (s.lane h) d (fun l => BitVec.ofInt 32 (x l - y l - k l)) ∧
      HoldsP s t (s.lane h) pe (fun l => decide (x l - y l - k l < 0)) ∧
      RegisterFrame s t h false (vRegs d 1) (oRegs d 1) (sRegs d 1) (pReg pe))

/-- 64-bit results and the carry instructions. -/
def Obligations.WideIntegers : Prop := Parts.WideIntegerResults ∧ Parts.CarryResults

/-- Class 0x1 (R272): every operation on 32-bit sources without modifiers. -/
def Sys2Proof.Parts.LogicResults : Prop :=
  ∀ (s : State) (h : Hdr) (t : ITy) (lut : BitVec 8) (d a b c e : Opnd), Seated s →
    let x (l : Nat) : Word := s.grp.read a l
    let y (l : Nat) : Word := s.grp.read b l
    let z (l : Nat) : Word := s.grp.read c l
    LaneWise s (.and h d a b) h d (fun l => x l &&& y l) ∧
    LaneWise s (.or h d a b) h d (fun l => x l ||| y l) ∧
    LaneWise s (.xor h d a b) h d (fun l => x l ^^^ y l) ∧
    LaneWise s (.andn h d a b) h d (fun l => x l &&& ~~~(y l)) ∧
    LaneWise s (.lop3 h lut d a b c) h d (fun l => lop3 lut (x l) (y l) (z l)) ∧
    LaneWise s (.fshl h d a b c) h d (fun l => fshl (x l) (y l) (z l)) ∧
    LaneWise s (.fshr h d a b c) h d (fun l => fshr (x l) (y l) (z l)) ∧
    LaneWise s (.rotl h d a b) h d (fun l => (x l).rotateLeft ((y l).toNat % 32)) ∧
    LaneWise s (.bfe h t d a b c) h d (fun l => bfe (ITy.signed t) (x l) (y l) (z l)) ∧
    LaneWise s (.bfi h d a b c e) h d (fun l => bfi (x l) (y l) (z l) (s.grp.read e l)) ∧
    LaneWise s (.brev h d a) h d (fun l => (x l).reverse) ∧
    LaneWise s (.popc h d a) h d (fun l => BitVec.ofNat 32 (popCount (x l) 32)) ∧
    LaneWise s (.clz h d a) h d (fun l => BitVec.ofNat 32 (leadZeros (x l) 32)) ∧
    LaneWise s (.ctz h d a) h d (fun l => BitVec.ofNat 32 (trailZeros (x l) 32 0)) ∧
    LaneWise s (.prmt h d a b c) h d (fun l => prmt (x l) (y l) (z l))

/-- Shifts (R272), at 32 and at 64 bits: the amount is unsigned and an amount of the width or more gives zero, or for
`SAR` the sign in every bit. -/
def Sys2Proof.Parts.ShiftResults : Prop :=
  ∀ (s : State) (h : Hdr) (d a b : Opnd), Seated s →
    let n (l : Nat) : Nat := (s.grp.read b l).toNat
    LaneWise s (.shl h false d a b) h d (fun l => BitVec.ofNat 32 ((s.grp.read a l).toNat * 2 ^ n l)) ∧
    LaneWise s (.shr h false d a b) h d (fun l => BitVec.ofNat 32 ((s.grp.read a l).toNat / 2 ^ n l)) ∧
    LaneWise s (.sar h false d a b) h d (fun l => BitVec.ofInt 32 ((s.grp.read a l).toInt / 2 ^ n l)) ∧
    LaneWise64 s (.shl h true d a b) h d (fun l => BitVec.ofNat 64 ((s.grp.read64 a l).toNat * 2 ^ n l)) ∧
    LaneWise64 s (.shr h true d a b) h d (fun l => BitVec.ofNat 64 ((s.grp.read64 a l).toNat / 2 ^ n l)) ∧
    LaneWise64 s (.sar h true d a b) h d (fun l => BitVec.ofInt 64 ((s.grp.read64 a l).toInt / 2 ^ n l))

/-- Logic, bit fields and shifts. -/
def Obligations.LogicAndShifts : Prop := Parts.LogicResults ∧ Parts.ShiftResults

/-! ### Classes 0x2 and 0x6: compare, predicates, lanes -/

/-- Class 0x2 and the predicate forms of `VOTE` (R260, R268, R273, R274): the predicate takes its value in the lanes
that execute (for `VOTE`, in X(g)), a write to p7 is ignored, and nothing else changes. -/
def Obligations.PredicateResults : Prop :=
  ∀ (s : State) (h : Hdr) (m : Mods) (cond : Cond) (t : ITy) (ft : FTy) (lut : BitVec 8) (a b : Opnd)
    (pd pa pb pq : PField), Seated s →
    LanePred s (.icmp h m cond t pd a b pq) h (s.lane h) pd (fun l =>
      condHolds cond (some (compare (s.grp.int t (m.a a) l) (s.grp.int t (m.b b) l))) && s.grp.pfield pq l) ∧
    LanePred s (.fcmp h m cond ft pd a b pq) h (s.lane h) pd (fun l =>
      (elems ft).all (fun e => condHolds cond (fCompare (s.grp.flt ft (m.a a) e l) (s.grp.flt ft (m.b b) e l))) &&
        s.grp.pfield pq l) ∧
    LanePred s (.pset h lut pd pa pb pq) h (s.lane h) pd (fun l =>
      lut.getLsbD (b01 (s.grp.pfield pa l) + 2 * b01 (s.grp.pfield pb l) + 4 * b01 (s.grp.pfield pq l))) ∧
    LanePred s (.pmovp h m pd a) h (s.lane h) pd (fun l =>
      match a with
      | .s n => if n.toNat ≤ 61 then (s.grp.sreg (n.toNat + l / 32)).getLsbD (l % 32) else s.grp.word (m.a a) l != 0
      | _ => s.grp.word (m.a a) l != 0) ∧
    LanePred s (.vote h (.some pd) pa) h (s.xlane h) pd (fun _ => (s.xs h).any (s.grp.pfield pa)) ∧
    LanePred s (.vote h (.every pd) pa) h (s.xlane h) pd (fun _ => (s.xs h).all (s.grp.pfield pa)) ∧
    LanePred s (.vote h (.same pd) pa) h (s.xlane h) pd (fun _ =>
      (s.xs h).all (s.grp.pfield pa) || (s.xs h).all (fun l => !s.grp.pfield pa l))

/-- `SEL`, `QXCHG`, `QBCST` and `SHFL` (R273 to R275): each lane that executes receives the selected source, or what
the source lane reads, whether that lane executes or not. That a scalar destination of a class 0x6 form takes the lowest
lane's value, as R87 has it for classes 0 to 4, is the model's reading (log entry 35, DEDUCED). -/
def Obligations.LaneMoves : Prop :=
  ∀ (s : State) (h : Hdr) (m : Mods) (qx : QxOp) (k : BitVec 2) (sh : ShflOp) (d a b : Opnd) (pq : PField), Seated s →
    LaneWise s (.sel h m d a b pq) h d (fun l =>
      if s.grp.pfield pq l then s.grp.word (m.a a) l else s.grp.word (m.b b) l) ∧
    LaneWise s (.qxchg h qx d a) h d (fun l => s.grp.read a (l ^^^ (match qx with
      | .x => 1
      | .y => 2
      | .d => 3))) ∧
    LaneWise s (.qbcst h k d a) h d (fun l => s.grp.read a (l / 4 * 4 + k.toNat)) ∧
    LaneWise s (.shfl h sh d a b) h d (fun l => s.grp.read a (shflSrc sh l (s.grp.read b l).toNat))

/-- Group-wide results (R89, R270, R274, R276): they read and write the lanes of X(g), ascending, and when X(g) is empty
they write nothing, so that no register changes; by D's field alone lt0 moves to lt1 then. That a scalar destination of `SCANG` takes the lowest lane's value is the
model's reading (log entry 35, DEDUCED). -/
def Obligations.GroupWideResults : Prop :=
  ∀ (s : State) (h : Hdr) (i : Instr) (d : Opnd) (val : Nat → Word), Seated s →
    ((∃ pa, i = .vote h (.cnt d) pa ∧ val = fun _ => BitVec.ofNat 32 ((s.xs h).filter (s.grp.pfield pa)).length) ∨
     (∃ op t a, i = .redg h op t d a ∧
       val = fun _ => ITy.put t (foldInts (redFun op) ((s.xs h).map (s.grp.int t ⟨a, false, false⟩)))) ∨
     (∃ op ex t a, i = .scang h op ex t d a ∧ val = fun l =>
       let upto := (s.xs h).filter (fun x => if ex then decide (x < l) else decide (x ≤ l))
       ITy.put t (if upto = [] then scanIdentity op t
         else foldInts (scanFun op) (upto.map (s.grp.int t ⟨a, false, false⟩)))) ∨
     (∃ a b, i = .rdlane h d a b ∧ val = fun _ =>
       s.grp.read a ((s.grp.read b ((s.xs h).headD 0)).toNat % 96))) →
    ∃ t, exec i s = .next t ∧
      (if s.xs h = [] then
        RegisterFrame s t h false noReg noReg noReg noReg ∧ LatchesMoved s t d
      else
        Holds32 s t (s.xlane h) d val ∧ RegisterFrame s t h false (vRegs d 1) (oRegs d 1) (sRegs d 1) noReg)

/-- `WRLANE`, `ZSCAN` and `PMOVS` (R273, R274, R276): one lane of D, lane B mod 96, takes the value that A reads in the
lowest lane of X(g); `ZSCAN` gives lane after lane of X(g) the numbers of the lanes whose source is not zero and counts
them in its scalar; `PMOVS` packs the predicate of X(g) into three scalars. With X(g) empty nothing is written, and lt0 moves
to lt1 where D names a vector register, an operand-file register or lt0 (R89). That a
scalar D of `ZSCAN` takes the lowest lane's value is the model's reading (log entry 35, DEDUCED). -/
def Obligations.LaneSelection : Prop :=
  ∀ (s : State) (h : Hdr) (f : Bool) (d a b : Opnd) (n : BitVec 6) (pa : PField), Seated s →
    (s.xs h = [] → ∀ i e, ((i = .wrlane h d a b ∧ e = d) ∨ (i = .zscan h f d a (.s n) ∧ e = d) ∨
        (i = .pmovs h (.s n) pa ∧ e = .s n)) →
      ∃ t, exec i s = .next t ∧ RegisterFrame s t h false noReg noReg noReg noReg ∧ LatchesMoved s t e) ∧
    (∀ x xs, s.xs h = x :: xs →
      (∃ t, exec (.wrlane h d a b) s = .next t ∧
        Holds32 s t (fun l => l == (s.grp.read b x).toNat % 96) d (fun _ => s.grp.read a x) ∧
        RegisterFrame s t h false (vRegs d 1) (oRegs d 1) (sRegs d 1) noReg) ∧
      (let found := (s.xs h).filter (fun l => (if f then (s.grp.read a l).toNat % 2 ^ 31 else (s.grp.read a l).toNat) != 0)
       ∃ t, exec (.zscan h f d a (.s n)) s = .next t ∧
        (d ≠ .s n → Holds32 s t (s.xlane h) d (fun l =>
          (found.map (BitVec.ofNat 32)).getD ((s.xs h).filter (fun y => decide (y < l))).length 0xFFFFFFFF)) ∧
        t.grp.sreg n.toNat = BitVec.ofNat 32 found.length ∧
        RegisterFrame s t h false (vRegs d 1) (oRegs d 1) (fun k => sRegs d 1 k ∨ k = n.toNat) noReg) ∧
      (n.toNat ≤ 61 → ∃ t, exec (.pmovs h (.s n) pa) s = .next t ∧
        (∀ l, l < 96 → (t.grp.sreg (n.toNat + l / 32)).getLsbD (l % 32) = (s.xlane h l && s.grp.pfield pa l)) ∧
        LatchesKept s.grp t.grp ∧ RegisterFrame s t h false noReg noReg (sRegs (.s n) 3) noReg))

/-! ### Classes 0x3, 0x4 and 0x5: floats and statistics -/

/-- Class 0x3 (R285 to R290): each element is the exact result of its operation, framed once by R286 (the scale, one
rounding in the format's mode, SAT and the clamp), and the flags of the lanes of X(g) are ORed into GMR; no value of an
operand traps (R414). -/
def Obligations.FloatResults : Prop :=
  ∀ (s : State) (h : Hdr) (m : Mods) (dm : DMod) (rm : RndSel) (ft : FTy) (d a b c : Opnd), Seated s →
    let g := s.grp
    let x (e l : Nat) : FVal := g.flt ft (m.a a) e l
    let y (e l : Nat) : FVal := g.flt ft (m.b b) e l
    let z (e l : Nat) : FVal := g.flt ft (m.c c) e l
    let fr (v : Exact) : Rnd := Machine.frame (fmtOf ft) (g.fmode ft) (g.fsat ft) dm.scale dm.clamp v
    FloatWise s (.fadd h m dm ft d a b) h ft d (fun e l => fr (fAdd (g.fmode ft) (x e l) (y e l))) ∧
    FloatWise s (.fsub h m dm ft d a b) h ft d (fun e l => fr (fAdd (g.fmode ft) (x e l) (y e l).negate)) ∧
    FloatWise s (.fmul h m dm ft d a b) h ft d (fun e l => fr (fMul (x e l) (y e l))) ∧
    FloatWise s (.ffma h m dm ft d a b c) h ft d (fun e l => fr (fFma (g.fmode ft) (x e l) (y e l) (z e l))) ∧
    FloatWise s (.fmin h m dm ft d a b) h ft d (fun e l => fr (fMinMax false (x e l) (y e l))) ∧
    FloatWise s (.fmax h m dm ft d a b) h ft d (fun e l => fr (fMinMax true (x e l) (y e l))) ∧
    FloatWise s (.frnd h m dm rm ft d a) h ft d (fun e l => fr (fRound (rndSel (g.fmode ft) rm) (x e l))) ∧
    FloatWise s (.fscale h m dm ft d a b) h ft d (fun e l =>
      fr ((x e l).scale (scaleAmount (g.word (m.b b) l)), { nv := (x e l).isSig }))

/-- `FCLASS` (R290) and `FDOT2` (R287): the class bit of each element; the exact sum of the two products of halves and
the FP32 addend, rounded once in FP32. -/
def Sys2Proof.Parts.ClassAndDot : Prop :=
  ∀ (s : State) (h : Hdr) (m : Mods) (dm : DMod) (ft : FTy) (d a b c : Opnd), Seated s →
    let g := s.grp
    LaneWise s (.fclass h m ft d a) h d (fun l => BitVec.ofNat 32
      (2 ^ classBit (fmtOf ft) (g.fbits ft (m.a a) 0 l) +
        if ft.packed then 2 ^ 16 * 2 ^ classBit (fmtOf ft) (g.fbits ft (m.a a) 1 l) else 0)) ∧
    FloatWise s (.fdot2 h m dm ft d a b c) h .f32 d (fun _ l =>
      let p (e : Nat) : Exact := fMul (g.flt ft (m.a a) e l) (g.flt ft (m.b b) e l)
      let q := fAdd (g.fmode .f32) (p 0).1 (p 1).1
      let r := fAdd (g.fmode .f32) q.1 (g.flt .f32 (m.c c) 0 l)
      g.frameF dm .f32 (r.1, (((p 0).2.or (p 1).2).or q.2).or r.2))

/-- Conversions (R291 to R295): `FCVT` between the formats, a half of a packed source or destination chosen by `.hi`,
the other half of a packed destination zero; `I2F`, `F2I` and `PACKH`. -/
def Obligations.ConversionResults : Prop :=
  ∀ (s : State) (h : Hdr) (m : Mods) (dm : DMod) (hi : Bool) (sc : BitVec 3) (it : ITy) (ft sft : FTy) (d a b : Opnd),
    Seated s →
    let g := s.grp
    let k : Nat := if hi then 1 else 0
    FloatWise s (.fcvt h m dm hi ft sft d a) h ft d (fun e l =>
      if ft.packed && !sft.packed then
        if e = k then g.convert dm ft (g.flt sft (m.a a) 0 l) else ⟨0, {}⟩
      else g.convert dm ft (g.flt sft (m.a a) (if !ft.packed && sft.packed then k else e) l)) ∧
    FloatWise s (.i2f h m dm ft it d a) h ft d (fun e l =>
      let n := g.intElem it (m.a a) e l
      g.convert dm ft (.fin (decide (n < 0)) n.natAbs 0)) ∧
    FloatWise s (.packh h m dm ft d a b) h ft d (fun e l =>
      g.convert dm ft (g.flt .f32 (if e = 0 then m.a a else m.b b) 0 l)) ∧
    (let one (e l : Nat) : Int × Flags := toIntFmt g.gmr it ((g.flt sft (m.a a) e l).scale (scaleOf sc))
     ∃ t, exec (.f2i h m sc it sft d a) s = .next t ∧
      Holds32 s t (s.lane h) d (fun l =>
        if sft.packed then BitVec.ofInt 16 (one 1 l).1 ++ BitVec.ofInt 16 (one 0 l).1 else ITy.put it (one 0 l).1) ∧
      t.grp.gmr = s.grp.gmr ||| (orFlags (s.xs h) (fun l =>
        if sft.packed then (one 0 l).2.or (one 1 l).2 else (one 0 l).2)).gmr ∧
      RegisterFrame s t h true (vRegs d 1) (oRegs d 1) (sRegs d 1) noReg)

/-- Division and the special functions (R296, R297): each element is the value of its function, framed once. -/
def Sys2Proof.Parts.SpecialFunctionResults : Prop :=
  ∀ (s : State) (h : Hdr) (m : Mods) (dm : DMod) (ft : FTy) (d a b : Opnd), Seated s →
    let g := s.grp
    let x (e l : Nat) : FVal := g.flt ft (m.a a) e l
    FloatWise s (.frcp h m dm ft d a) h ft d (fun e l => g.frameF dm ft (fRcp (x e l))) ∧
    FloatWise s (.frsq h m dm ft d a) h ft d (fun e l => g.frameF dm ft (fRsq (x e l))) ∧
    FloatWise s (.fsqrt h m dm ft d a) h ft d (fun e l => g.frameF dm ft (fSqrt (x e l))) ∧
    FloatWise s (.fexp2 h m dm ft d a) h ft d (fun e l => g.frameF dm ft (fExp2 (x e l))) ∧
    FloatWise s (.flog2 h m dm ft d a) h ft d (fun e l => g.frameF dm ft (fLog2 (x e l))) ∧
    FloatWise s (.fsin h m dm ft d a) h ft d (fun e l => g.frameF dm ft (fSin (x e l))) ∧
    FloatWise s (.fcos h m dm ft d a) h ft d (fun e l => g.frameF dm ft (fCos (x e l))) ∧
    FloatWise s (.ftanh h m dm ft d a) h ft d (fun e l => g.frameF dm ft (fTanh (x e l))) ∧
    FloatWise s (.fdiv h m dm ft d a b) h ft d (fun e l => g.frameF dm ft (fDiv (x e l) (g.flt ft (m.b b) e l)))

/-- Special functions, division, class and dot product. -/
def Obligations.SpecialFunctions : Prop := Parts.ClassAndDot ∧ Parts.SpecialFunctionResults

/-- The lane-wise statistics instructions (R299, R301, arithmetic of R132 to R135). -/
def Sys2Proof.Parts.StatisticsResults : Prop :=
  ∀ (s : State) (h : Hdr) (m : Mods) (smp : Bool) (d a b x w : Opnd), Seated s →
    let g := s.grp
    let fl (f : Nat → Triple × Flags) : Flags := orFlags (s.xs h) (fun l => (f l).2)
    let upd (l : Nat) := (g.triple a l).canon.update (g.f32 (m.b x) l)
    let wup (l : Nat) := (g.triple a l).canon.weighted (g.f32 (m.b x) l) (g.f32 (m.c w) l)
    let mrg (l : Nat) := (g.triple a l).merge (g.triple b l)
    let nrm (l : Nat) := (g.triple a l).normalise (g.f32 (m.b x) l) smp
    ((Instr.stclr h d).wf = true → TripleWise s (.stclr h d) h (s.lane h) d (fun _ => Triple.empty) Flags.none) ∧
    ((Instr.stupd h m d a x).wf = true →
      TripleWise s (.stupd h m d a x) h (s.lane h) d (fun l => (upd l).1) (fl upd)) ∧
    ((Instr.stwupd h m d a x w).wf = true →
      TripleWise s (.stwupd h m d a x w) h (s.lane h) d (fun l => (wup l).1) (fl wup)) ∧
    ((Instr.stmrg h d a b).wf = true →
      TripleWise s (.stmrg h d a b) h (s.lane h) d (fun l => (mrg l).1) (fl mrg)) ∧
    ((Instr.stnrm h m smp d a x).wf = true →
      TripleWise s (.stnrm h m smp d a x) h (s.lane h) d (fun l => (nrm l).1) (fl nrm))

/-- `STRED` and `STQRED` (R300): the fixed tree over the group, and over each quad, in which a lane outside X(g) is
empty; a vector D takes the result in X(g), and the latches shift even when X(g) is empty (R89); `STRED` with a scalar D
writes three scalars when some lane executes, be it a helper lane (R270). -/
def Sys2Proof.Parts.StatisticsReductions : Prop :=
  ∀ (s : State) (h : Hdr) (d a : Opnd) (n : BitVec 6), Seated s → (Instr.stqred h d a).wf = true → n.toNat ≤ 58 →
    TripleWise s (.stred h d a) h (s.xlane h) d (fun _ => (s.statTree h a).1) (s.statTree h a).2 ∧
    TripleWise s (.stqred h d a) h (s.xlane h) d (fun l => (s.statQuad h a (l / 4)).1)
      (orFlags (List.range 24) (fun q => (s.statQuad h a q).2)) ∧
    ∃ t, exec (.stred h (.s n) a) s = .next t ∧
      (⟨t.grp.sreg n.toNat, t.grp.sreg (n.toNat + 1), t.grp.sreg (n.toNat + 2)⟩ : Triple) =
        (if s.lanes h = [] then ⟨s.grp.sreg n.toNat, s.grp.sreg (n.toNat + 1), s.grp.sreg (n.toNat + 2)⟩
         else (s.statTree h a).1) ∧
      t.grp.gmr = s.grp.gmr ||| (s.statTree h a).2.gmr ∧ LatchesKept s.grp t.grp ∧
      RegisterFrame s t h true noReg noReg (sRegs (.s n) 3) noReg

/-- The statistics instructions. -/
def Obligations.Statistics : Prop := Parts.StatisticsResults ∧ Parts.StatisticsReductions

/-! ### Class 0x7: control -/

/-- Helper mode (R30): `QHELP` switches it and changes no mask bit; a lane is a helper lane exactly when the mode is on,
its mask bit is clear and some mask bit of its quad is set; guards apply to it as to an active lane; and the mode is
saved with the group: in its frame when a handler is entered, and in its record. -/
def Obligations.HelperMode : Prop :=
  (∀ (s : State) (h : Hdr) (on : Bool), Seated s → s.lanes h ≠ [] →
    ∃ t, exec (.qhelp h on) s = .next t ∧ t.grp.helper = on ∧ (∀ l, t.grp.maskBit l = s.grp.maskBit l) ∧
      IssueFrom s t h { s.grp with helper := on }) ∧
  (∀ (g : Group) (l : Nat), g.isHelper l = true ↔
    g.helper = true ∧ g.maskBit l = false ∧ ∃ i, i < 4 ∧ g.maskBit (4 * (l / 4) + i) = true) ∧
  (∀ (s : State) (h : Hdr) (l : Nat), s.lane h l =
    (s.inSet l && (s.grp.maskBit l || s.grp.isHelper l) && s.grp.guards h l)) ∧
  (∀ g : Group, (g.restore g.frameOf).helper = g.helper) ∧
  (∀ (g : Group) (volf k : Nat), g.quads.length = 24 →
    (fieldOf (g.record volf k) 0x2D0 4 % 2 = 1 ↔ g.helper = true))

/-- The other instructions that act once on the group (R23, R280 to R283, R333): `HMASK` sets or clears the inbox bit of
HMASKR alone, `YIELD` and `NOP` change nothing but the end of the issue, in which `YIELD` ranks the group last. -/
def Sys2Proof.Parts.GroupSwitches : Prop :=
  ∀ (s : State) (h : Hdr) (set : Bool), Seated s → s.lanes h ≠ [] →
    (∃ t, exec (.hmask h set) s = .next t ∧
      t.grp.hmaskr.getLsbD 0 = set ∧ (∀ i, i ≠ 0 → t.grp.hmaskr.getLsbD i = s.grp.hmaskr.getLsbD i) ∧
      IssueFrom s t h { s.grp with hmaskr := t.grp.hmaskr }) ∧
    (∃ t, exec (.yield h) s = .next t ∧ t.grp.yielded = true ∧ IssueFrom s t h s.grp) ∧
    (∃ t, exec (.nop h) s = .next t ∧ t.grp.yielded = h.yield ∧ IssueFrom s t h s.grp)

/-- Transfers of control (R241, R278, R279, R397). When the target of every quad that takes the transfer passes its
check, those quads go to their targets and every other quad of the set to the next slot; a link pair receives the next
slot's PC in every lane of the taking quads; nothing else changes. When a target fails, none of this happens: the first
failing quad's fault is taken. -/
def Obligations.Transfers : Prop :=
  ∀ (s : State) (h : Hdr) (a : Opnd) (n : BitVec 7) (soff : BitVec 32) (i : Instr) (target : Nat → Dword)
    (link : Option (BitVec 7)), Seated s →
    ((i = .bra h soff ∧ (target = fun _ => s.direct soff) ∧ link = none) ∨
     (i = .brx h a ∧ target = s.target a ∧ link = none) ∨
     (i = .call h (.v n) soff ∧ (target = fun _ => s.direct soff) ∧ link = some n) ∨
     (i = .callx h (.v n) a ∧ target = s.target a ∧ link = some n) ∨
     (i = .ret h a ∧ target = s.target a ∧ link = none)) →
    ((∀ q, q < 24 → (s.takers h).getLsbD q = true → s.checkTarget false (target q) = none) →
      ∃ t, exec i s = .next t ∧ OnlyGroup s t ∧ MemoryKept s t ∧
        Issued s t h (fun q pc => if (s.takers h).getLsbD q then target q else pcNext pc) ∧
        (∀ r, link = some r → ∀ l, l < 96 → t.grp.read64 (.v r) l =
          if (s.takers h).getLsbD (l / 4) then pcNext s.cur.pc else s.grp.read64 (.v r) l) ∧
        RegsKept s.grp t.grp (fun k => ∃ r, link = some r ∧ r.toNat ≤ k ∧ k < r.toNat + 2) noReg noReg noReg ∧
        LatchesKept s.grp t.grp ∧ SpecialKept s.grp t.grp) ∧
    (∀ q e, q < 24 → (s.takers h).getLsbD q = true → s.checkTarget false (target q) = some e →
      (∀ p, p < q → (s.takers h).getLsbD p = true → s.checkTarget false (target p) = none) →
      exec i s = .next (s.trap { e with beat := q / 8 }))

/-- `REGANG` and `EXIT` (R27, R28, R280). The quads that take a `REGANG` wait with its mask. A mask is complete when none
of its live quads stands outside a `REGANG`: a quad goes on only when some waiting mask that names it is complete, so a
taker waits as long as its mask misses a quad, and every other quad keeps its wait; where its mask alone is complete,
exactly the live quads of that mask go on. With `EXIT` the takers exit. After either no waiting mask is complete: such
a mask is released at once. Every quad of the set has moved on to the next slot. -/
def Obligations.RegangAndExit : Prop :=
  ∀ (s : State) (h : Hdr) (a : Opnd), Seated s → s.grp.quads.length = 24 →
    let m : QuadMask := match a with
      | .s n => (s.grp.sreg n.toNat).extractLsb' 0 24 ||| s.cur.quads
      | _ => 0xFFFFFF
    let g : Group := { s.grp with quads := s.grp.quads.mapIdx (fun q p =>
      if (s.takers h).getLsbD q then { p with wait := .regang m s.grp.issues } else p) }
    let waits (k : QuadMask) : Prop := ∃ (q : Nat) (p : Quad) (n : Nat), g.quads[q]? = some p ∧ p.exited = false ∧ p.wait = .regang k n
    (∃ t, exec (.regang h a) s = .next t ∧
      (∀ q p m n, t.grp.quads[q]? = some p → p.exited = false → p.wait = .regang m n → m.getLsbD q = true →
        t.grp.missing m = true) ∧
      (∀ (q : Nat) (p r : Quad), g.quads[q]? = some p → t.grp.quads[q]? = some r →
        r.wait = p.wait ∨
        (r.wait = .run ∧ p.exited = false ∧ ∃ k, waits k ∧ k.getLsbD q = true ∧ g.missing k = false)) ∧
      ((∀ k, waits k → g.missing k = true) → t.grp.quads.map Quad.wait = g.quads.map Quad.wait) ∧
      (waits m → g.missing m = false → (∀ k, waits k → k ≠ m → g.missing k = true) →
        t.grp.quads.map Quad.wait = g.quads.mapIdx (fun q p =>
          if m.getLsbD q = true ∧ p.exited = false then .run else p.wait)) ∧
      t.grp.quads.map Quad.pc =
        s.grp.quads.mapIdx (fun q p => if s.cur.quads.getLsbD q then pcNext p.pc else p.pc) ∧
      t.grp.issues = s.grp.issues + 1 ∧
      t.grp.quads.map Quad.exited = s.grp.quads.map Quad.exited ∧ OnlyGroup s t ∧ MemoryKept s t ∧
      RegsKept s.grp t.grp noReg noReg noReg noReg ∧ LatchesKept s.grp t.grp ∧ SpecialKept s.grp t.grp) ∧
    (∃ t, exec (.exit h) s = .next t ∧
      (∀ q p m n, t.grp.quads[q]? = some p → p.exited = false → p.wait = .regang m n → m.getLsbD q = true →
        t.grp.missing m = true) ∧
      t.grp.quads.map Quad.exited =
        s.grp.quads.mapIdx (fun q p => if (s.takers h).getLsbD q then true else p.exited) ∧
      t.grp.quads.map Quad.pc =
        s.grp.quads.mapIdx (fun q p => if s.cur.quads.getLsbD q then pcNext p.pc else p.pc) ∧
      t.grp.issues = s.grp.issues + 1 ∧ RegsKept s.grp t.grp noReg noReg noReg noReg)

/-- Barriers (R31, R34, R281): once the checks pass and the waits of the release and acquire parts are over (R185), an
arriving form counts the group's arrival in the present generation; when that completes the barrier the next generation
opens, and otherwise the quads of a waiting form wait for it. `BARW` waits when an arrival of the group is pending and
goes on when none is. At bench and launch scope a pending `FENCE.acq.dev` at the group's next issue comes with a waiting form's
going on, the continuation's first action (R185). A form whose executing lanes are all helper lanes makes no arrival: `BARA` leaves the arrivals as
they are, and `BAR` does what `BARW` does (the model's reading of R31, log entry 67). -/
def Obligations.Barriers : Prop :=
  ∀ (s : State) (h : Hdr) (sc : BScope) (a : Opnd) (k gen : Nat) (full : Bool), Seated s → s.lanes h ≠ [] →
    (sc = .blk ∨ (s.launch? s.blk.ref.launch).isSome = true) →
    k = barIdx sc a → gen = s.barGen k →
    let acquires (t : State) (goesOn : Prop) : Prop := ∃ os : List Origin,
      t.grp.fences = s.grp.fences ++ os.map (fun o => .fence .acq .dev (s.grp.issues + 1) false o) ∧ (os ≠ [] ↔ (8 ≤ k ∧ goesOn))
    (s.xs h = [] → exec (.bar h sc a) s = exec (.barw h sc a) s ∧
      (s.barFault sc k false false = none → ∃ t, exec (.bara h sc a) s = .next t ∧ t.grp.issues = s.grp.issues + 1 ∧
        t.grp.arrivals = s.grp.arrivals)) ∧
    (s.grp.releaseMoves false = true → s.grp.redsDone s.grp.issues = true →
    full = (s.modGrp (fun g => { g with arrivals := Tbl.set 0 g.arrivals k (gen + 1) })).barFull k →
    (s.xs h ≠ [] → s.barFault sc k true true = none →
      ∃ t, exec (.bar h sc a) s = .next t ∧ t.grp.arrived k gen = true ∧
        t.barGen k = (if full then gen + 1 else gen) ∧ t.grp.issues = s.grp.issues + 1 ∧
        ∀ q p, s.grp.quads[q]? = some p → s.cur.quads.getLsbD q = true →
          acquires t (full = true) ∧ ∃ p', t.grp.quads[q]? = some p' ∧ p'.pc = pcNext p.pc ∧
            p'.wait = if full then .run else .barrier k gen true) ∧
    (s.xs h ≠ [] → s.barFault sc k true false = none →
      ∃ t, exec (.bara h sc a) s = .next t ∧ t.grp.arrived k gen = true ∧
        t.barGen k = (if full then gen + 1 else gen) ∧ t.grp.issues = s.grp.issues + 1 ∧
        ∀ q p, s.grp.quads[q]? = some p → s.cur.quads.getLsbD q = true → p.wait = .run →
          ∃ p', t.grp.quads[q]? = some p' ∧ p'.pc = pcNext p.pc ∧ p'.wait = .run) ∧
    (s.barFault sc k false true = none →
      ∃ t, exec (.barw h sc a) s = .next t ∧ t.grp.issues = s.grp.issues + 1 ∧
        ∀ q p, s.grp.quads[q]? = some p → s.cur.quads.getLsbD q = true → p.wait = .run →
          acquires t (s.grp.arrived k gen = false ∨ s.barFull k = true) ∧
          ∃ p', t.grp.quads[q]? = some p' ∧ p'.pc = pcNext p.pc ∧
            p'.wait = if s.grp.arrived k gen = false ∨ s.barFull k = true then .run else .barrier k gen false))

/-- `HSET` (R201, R283, R402): in a block whose handler group is the present one, an inbox that the block has bound, or
may bind to a descriptor it can read with a size of 2 to 12, is bound, and HVEC takes the entry without its reserved
bits. The read of the size asks the host where it lies in host memory (R217). -/
def Sys2Proof.Parts.HandlerSet : Prop :=
  ∀ (s : State) (h : Hdr) (a b c : Opnd) (pa : Nat), Seated s → s.lanes h ≠ [] →
    s.hsetCheck (s.grp.once a).toNat (s.grp.once64 b) (s.grp.once c) = .ok pa →
    s.blk.handg = some s.grp.num ∧ (s.grp.once a).toNat ≤ 63 ∧ (s.grp.once c).toNat % 8 ≤ 4 ∧
    ∃ t, exec (.hset h a b c) s = .next t ∧
      t.grp.hvec = s.grp.once c &&& ~~~(0x38#32) ∧
      t.blk.inbox = some (s.blk.inbox.getD ⟨(s.grp.once a).toNat, s.grp.once64 b⟩) ∧
      IssueFrom ((s.asksHost pa 1).modBlk (fun x => { x with inbox := t.blk.inbox })) t h
        { s.grp with hvec := t.grp.hvec }

/-- Instructions that act once on the group. -/
def Obligations.GroupActs : Prop := Parts.GroupSwitches ∧ Parts.HandlerSet

/-! ### Taking a fault and returning from its handler -/

/-- The instructions whose effect is a fault (R283, R352, R402): `TRAP n` takes USER_TRAP and `SYSC n` SYSCALL, each with
its code as the detail of the trap record, unless the handler's entry fails its own check, which is then the fault recorded. A `SYSC` that goes to a block halt leaves the quads of its set at the slot after it (R380). -/
def Obligations.UserTraps : Prop :=
  ∀ (s : State) (h : Hdr) (n : BitVec 8), Seated s → s.xs h ≠ [] →
    (∃ t, exec (.trap h n) s = .next t ∧
      t = s.trap { code := 0x40, detail := n.toNat, beat := (s.xs h).headD 0 / 32 } ∧
      (s.grp.hvec = 0 ∨ s.grp.hmaskr.getLsbD 1 = true ∨ s.checkTarget true s.handlerPc = none →
        t.grp.trec0.extractLsb' 0 8 = 0x40#8 ∧ t.grp.trec0.getLsbD 8 = true ∧
        t.grp.trec0.extractLsb' 16 16 = n.setWidth 16)) ∧
    (∃ t, exec (.sysc h n) s = .next t ∧
      (s.ctxPriv s.blk.ctx = false ∨ s.grp.hvec = 0 ∨ s.grp.hmaskr.getLsbD 1 = true ∨
          s.checkTarget true s.handlerPc = none →
        t.grp.trec0.extractLsb' 0 8 = 0x41#8 ∧ t.grp.trec0.getLsbD 8 = true ∧
        t.grp.trec0.extractLsb' 16 16 = n.setWidth 16) ∧
      (userCode 0x41 (s.ctxPriv s.blk.ctx) = true → s.grp.hvec ≠ 0 → s.grp.hmaskr.getLsbD 1 = false →
        s.checkTarget true s.handlerPc = none → ∀ p ∈ t.grp.quads, p.pc = s.handlerPc) ∧
      (s.ctxPriv s.blk.ctx = false ∨ s.grp.hvec = 0 ∨ s.grp.hmaskr.getLsbD 1 = true →
        t.blk.halting.isSome = true ∧ t.blk.held = true ∧
        ∀ q p, s.grp.quads[q]? = some p → s.cur.quads.getLsbD q = true →
          ∃ p', t.grp.quads[q]? = some p' ∧ p'.pc = pcNext p.pc))

/-- Taking a fault of the user's with a handler installed (R47, R378, R379): the trap record takes the code, VALID, the
detail, the beat, the quads and the PC of the instruction; the frame keeps every quad's PC, stamp, wait and exit, the
group's wait, the masks, helper mode and the latches (that the entry waits for no latch-only value is log entry 69, the
model's choice); every quad stands active at the handler's entry with all lanes active, helper mode
is off, INH is set; no other register, no byte of memory and no other group changes. -/
def Obligations.TrapToHandler : Prop :=
  ∀ (s : State) (f : FaultInfo), Seated s → userCode f.code (s.ctxPriv s.blk.ctx) = true → s.grp.hvec ≠ 0 →
    s.grp.hmaskr.getLsbD 1 = false → s.checkTarget true s.handlerPc = none →
    let t := s.trap f
    t.grp.trec0 = BitVec.ofNat 16 f.detail ++ 0x01#8 ++ f.code ∧
    t.grp.trec1 = 0#6 ++ BitVec.ofNat 2 f.beat ++ s.cur.quads ∧
    t.grp.trec3 ++ t.grp.trec2 = s.cur.pc ∧
    (∃ r, t.grp.frame = some r ∧ r.pcs = s.grp.quads.map Quad.pc ∧ r.stamps = s.grp.quads.map Quad.stamp ∧
      r.waits = s.grp.quads.map Quad.wait ∧ r.mk0 = s.grp.sreg 61 ∧ r.mk1 = s.grp.sreg 62 ∧ r.mk2 = s.grp.sreg 63 ∧
      (∀ q p, q < 24 → s.grp.quads[q]? = some p → r.exited.getLsbD q = p.exited) ∧ r.wait = s.grp.wait ∧
      r.helper = s.grp.helper ∧ r.lt0 = s.grp.lt0 ∧ r.lt1 = s.grp.lt1) ∧
    (∀ p ∈ t.grp.quads, p.pc = s.handlerPc ∧ p.exited = false ∧ p.wait = .run) ∧
    t.grp.sreg 61 = 0xFFFFFFFF ∧ t.grp.sreg 62 = 0xFFFFFFFF ∧ t.grp.sreg 63 = 0xFFFFFFFF ∧
    t.grp.helper = false ∧ t.grp.hmaskr = s.grp.hmaskr ||| 2 ∧ t.grp.issues = s.grp.issues ∧
    RegsKept s.grp t.grp noReg noReg (fun n => 61 ≤ n ∧ n ≤ 63) noReg ∧ LatchesKept s.grp t.grp ∧
    OnlyGroup s t ∧ MemoryKept s t

/-- Taking any other fault, or one with no handler to go to (R377, R378, R380, R384): the trap record is written, the
block is asked to halt and will be held, its launch has a status, and the group's registers, latches, PCs and
scratchpad window stand as they were: the instruction has had no effect. -/
def Obligations.TrapToHalt : Prop :=
  ∀ (s : State) (f : FaultInfo), Seated s →
    (userCode f.code (s.ctxPriv s.blk.ctx) = false ∨ s.grp.hvec = 0 ∨ s.grp.hmaskr.getLsbD 1 = true) →
    let t := s.trap f
    t.grp.trec0.extractLsb' 0 8 = f.code ∧ t.grp.trec0.getLsbD 8 = true ∧
    t.grp.trec3 ++ t.grp.trec2 = s.cur.pc ∧ t.grp.trec1.extractLsb' 0 24 = s.cur.quads ∧
    t.blk.halting.isSome = true ∧ t.blk.held = true ∧
    t.grp.quads = s.grp.quads ∧ t.grp.issues = s.grp.issues ∧
    (∀ x, s.launch? s.blk.ref.launch = some x → ∃ y, t.launch? s.blk.ref.launch = some y ∧ y.status.isSome = true) ∧
    RegsKept s.grp t.grp noReg noReg noReg noReg ∧ LatchesKept s.grp t.grp ∧
    ∀ a, Memory.byte t.blk.spm a = Memory.byte s.blk.spm a

/-- Returning from a handler (R49, R355, R379): `HRET` restores the frame, clears INH and VALID, and after a trap the
quads of the record's QMASK stand at the faulting instruction, or past it with SKIP; outside a handler it changes
nothing. `ERET` does the same with the PC that TREC2 and TREC3 hold. Memory stays. -/
def Obligations.HandlerReturn : Prop :=
  ∀ (s : State) (h : Hdr), Seated s → s.xs h ≠ [] →
    (s.grp.frame = none → ∃ t, exec (.hret h) s = .next t ∧ IssueFrom s t h s.grp) ∧
    (∀ f i, s.grp.frame = some f → s.grp.quads.length = 24 →
      (i = .hret h ∨ (i = .eret h ∧ s.ctxPriv s.blk.ctx = true ∧ s.grp.trec0.getLsbD 8 = true)) →
      ∃ t, exec i s = .next t ∧ t.grp.frame = none ∧ t.grp.helper = f.helper ∧
        t.grp.sreg 61 = f.mk0 ∧ t.grp.sreg 62 = f.mk1 ∧ t.grp.sreg 63 = f.mk2 ∧ t.grp.lt0 = f.lt0 ∧ t.grp.lt1 = f.lt1 ∧
        t.grp.hmaskr = s.grp.hmaskr &&& ~~~(2#32) ∧ t.grp.trec0 = s.grp.trec0 &&& ~~~(0x100#32) ∧
        (∀ q, q < 24 → ∃ p, t.grp.quads[q]? = some p ∧ p.exited = f.exited.getLsbD q ∧ p.stamp = f.stamps.getD q 0 ∧
          p.pc = (let r := f.pcs.getD q 0
            if s.grp.trec0.getLsbD 8 && (s.grp.trec1.extractLsb' 0 24).getLsbD q then
              let r := if i = .eret h then s.grp.trec3 ++ s.grp.trec2 else r
              if s.grp.trec0.getLsbD 10 then pcNext r else r
            else r)) ∧
        RegsKept s.grp t.grp noReg noReg (fun n => 61 ≤ n ∧ n ≤ 63) noReg ∧
        ∀ a, Memory.byte t.mem a = Memory.byte s.mem a)

/-! ### Class 0x8: global memory -/

/-- Loads (R172 to R174, R302, R306): when every lane's address translates for reading and nothing it reads fails its
check, the instruction joins the group's operations in program order with an access (two for 16 bytes) for each lane,
and falls through; its registers wait for the return. Nothing else changes. -/
def Sys2Proof.Parts.LoadIssues : Prop :=
  ∀ (s : State) (h : Hdr) (hint : BitVec 3) (o : MOrd) (sz : Size) (d a b : Opnd) (off : BitVec 18)
    (i : Instr) (lanes : List Nat) (scalar : Bool) (pas : List (Nat × Bool)), Seated s →
    ((i = .ld h hint o sz d a b off ∧ lanes = s.lanes h ∧ scalar = false) ∨
     (i = .sld h hint o sz d a b off ∧ lanes = (s.xs h).take 1 ∧ scalar = true)) →
    lanes ≠ [] → s.grp.pathHeld .g = false → s.grp.counter .g < 63 →
    checkLanes (fun l => s.loadAt sz.bytes (o.kind != .plain || hint == 3) (s.grp.ea a b off l)) lanes = .ok pas →
    ∃ t, exec i s = .next t ∧
      IssueFrom s t h { s.grp with memops := s.grp.memops ++
        [{ seq := s.grp.issues, path := .g, kind := .load, ord := o,
           acc := (lanes.zip pas).flatMap (fun x =>
             laneParts x.1 x.2.1 sz.bytes x.2.2 0 (!scalar && !s.xlane h x.1)),
           got := [], dst := some (destOf scalar d sz), counted := !(s.xs h).isEmpty, wrote := false, hint := hint,
           org := ⟨s.cur.pc, s.cur.quads⟩ }] }

/-- Stores (R172, R302, R304, R307): with every lane's address translated for writing, a store joins the group's
operations with the low bytes of each lane's data, `STM` with one access for each selected byte; no byte of memory
changes until they perform. -/
def Obligations.StoreIssues : Prop :=
  ∀ (s : State) (h : Hdr) (hint : BitVec 3) (o : MOrd) (sz : Size) (d a b : Opnd) (off : BitVec 18)
    (i : Instr) (lanes : List Nat) (acc : List Access) (ord : MOrd), Seated s →
    ((∃ pas, i = .st h hint o sz d a b off ∧ lanes = s.xs h ∧ ord = o ∧ s.barsStrong o = false ∧
        checkLanes (fun l => s.globalAt .write sz.bytes (o.kind != .plain) (s.grp.ea a b off l)) lanes = .ok pas ∧
        acc = (lanes.zip pas).flatMap (fun x =>
          laneParts x.1 x.2.1 sz.bytes x.2.2 (s.grp.data d sz.regs x.1 % 2 ^ (8 * sz.bytes)) false)) ∨
     (∃ pas, i = .sst h hint o sz d a b off ∧ lanes = (s.xs h).take 1 ∧ ord = o ∧ s.barsStrong o = false ∧
        checkLanes (fun l => s.globalAt .write sz.bytes (o.kind != .plain) (s.grp.ea a b off l)) lanes = .ok pas ∧
        acc = (lanes.zip pas).flatMap (fun x =>
          laneParts x.1 x.2.1 sz.bytes x.2.2 (s.grp.data d sz.regs x.1 % 2 ^ (8 * sz.bytes)) false)) ∨
     (∃ accs, i = .stm h hint d a b off ∧ lanes = s.xs h ∧ ord = ⟨.plain, false⟩ ∧
        checkLanes (fun l => s.stmLane l (s.grp.ea a .zero off l) (s.grp.read64 d l) (stmBytes (s.grp.read b l))) lanes
          = .ok accs ∧ acc = accs.flatten)) →
    lanes ≠ [] → s.grp.pathHeld .s = false → s.grp.counter .s < 63 →
    ∃ t, exec i s = .next t ∧
      IssueFrom s t h { s.grp with memops := s.grp.memops ++
        [{ seq := s.grp.issues, path := .s, kind := .store, ord := ord, acc := acc, got := [], dst := none,
           counted := true, wrote := false, hint := hint, org := ⟨s.cur.pc, s.cur.quads⟩ }] }

/-- `ATOM` and `RED` (R153, R175, R308): each lane's word is written back and dropped from the core's L1 (a failing word
at the home that this replaces in part is reported to the group: R435), a restartable
block is pinned first (R41), and the operation joins the group's operations with one access at the home for each lane,
the lowest lane first; a constant operand of an `.f32` atomic is read as a float (R244). -/
def Obligations.AtomicIssues : Prop :=
  ∀ (s u : State) (h : Hdr) (hint : BitVec 3) (o : MOrd) (op : AOp) (ty : ATy) (d a b c e : Opnd) (i : Instr) (path : Path)
    (cmp : Nat → Nat) (dst : Option Dest) (pas : List Nat), Seated s → s.xs h ≠ [] → ATy.ofOpnd e = some ty →
    ((i = .atom h hint o op d a b c e ∧ d ≠ .zero ∧ path = .g ∧
        dst = some ⟨false, regNum d, ty.bytes / 4, if ty.bytes = 8 then .b64 else .b32⟩ ∧
        cmp = fun l => if op = .cas then s.grp.atomData ty c l else 0) ∨
     (i = .atom h hint o op .zero a b c e ∧ path = .s ∧ dst = none ∧
        cmp = fun l => if op = .cas then s.grp.atomData ty c l else 0) ∨
     (i = .red h hint o op a b e ∧ path = .s ∧ dst = none ∧ cmp = fun _ => 0)) →
    (s.blk.restartable = false ∨ (o.kind ≠ .rel ∧ o.kind ≠ .ar)) → (s.blk.buffers = true → s.badBuf = none) →
    s.grp.pathHeld path = false → s.grp.counter path < 63 →
    checkLanes (fun l => s.atomAt dst.isSome ty.bytes (s.grp.read64 a l)) (s.xs h) = .ok pas →
    u = (pas.foldl (fun t pa => t.writesBack t.origin (fun t => t.flushLine t.core (pa / 128))) s.pin).count 0x0A 1 →
    ∃ t, exec i s = .next t ∧
      IssueFrom u t h { u.grp with memops := s.grp.memops ++
        [{ seq := s.grp.issues, path := path, kind := .atom op ty, ord := o,
           acc := ((s.xs h).zip pas).map (fun x =>
             ⟨x.1, x.2, ty.bytes, true, s.grp.atomData ty b x.1, cmp x.1, 0, false⟩),
           got := [], dst := dst, counted := true, wrote := false, hint := hint, org := ⟨s.cur.pc, s.cur.quads⟩ }] } ∧
      RegsKept s.grp t.grp noReg noReg noReg noReg ∧ LatchesKept s.grp t.grp ∧ t.grp.gmr = s.grp.gmr

/-- `PREF` never faults: it falls through whatever its lanes address, fills lines of caches alone, and changes no
register (R309); with no failing word about, no byte that a load of its core reads changes either, though a line that
gives way in L1 goes home. -/
def Sys2Proof.Parts.PrefetchCompletes : Prop :=
  ∀ (s : State) (h : Hdr) (hint : BitVec 3) (l2 : Bool) (a b : Opnd) (off : BitVec 18), Seated s →
    ∃ t, exec (.pref h hint l2 a b off) s = .next t ∧ (Sound s → ∀ x, newest t s.core x = newest s s.core x) ∧ t.grp.quads = s.grp.quads.mapIdx (fun q p =>
        if s.cur.quads.getLsbD q then { p with pc := pcNext p.pc, stamp := s.grp.issues } else p) ∧
      RegsKept s.grp t.grp noReg noReg noReg noReg ∧ LatchesKept s.grp t.grp ∧ t.grp.memops = s.grp.memops ∧
      SpecialKept s.grp t.grp

/-- Dropped prefetches (R432). Lane after lane, one whose address fails translation or protection or lies in host memory
is dropped: it fills no line and raises event 0x12 by one, and the next lane goes on; any other fetches its line, into
its home slice, and without `.l2` and without a home access of its page into the core's L1, and leaves the group as it
was. Where every lane is dropped nothing of the device but the group changes, no record is written, and its counters of
event 0x12 rise by the number of lanes of X(g). That a helper lane's drop is not counted is the model's reading (log
entry 42, DEDUCED). -/
def Obligations.PrefetchesDropped : Prop :=
  ∀ (s : State) (h : Hdr) (hint : BitVec 3) (l2 : Bool) (a b : Opnd) (off : BitVec 18), Seated s →
    let at_ (u : State) (l : Nat) := u.globalAt .read 1 false (s.grp.ea a b off l)
    let dropped (u : State) (l : Nat) : Prop := ∀ pa home, at_ u l = .ok (pa, home) → inHost pa = true
    (∃ us : Nat → State, us 0 = s ∧
      exec (.pref h hint l2 a b off) s = .next ((us (s.lanes h).length).fin h) ∧
      ∀ k l, (s.lanes h)[k]? = some l →
        (dropped (us k) l → us (k + 1) = if s.xlane h l then (us k).count 0x12 1 else us k) ∧
        ∀ pa home, at_ (us k) l = .ok (pa, home) → inHost pa = false →
          (us (k + 1)).grp = (us k).grp ∧
          (inHbm pa = true → ∃ x ∈ (us (k + 1)).l2, x.line = pa / 128) ∧
          (l2 = false → home = false → ((us (k + 1)).l1Find s.core (pa / 128)).isSome = true)) ∧
    ((∀ l ∈ s.lanes h, dropped s l) →
      ∃ t, exec (.pref h hint l2 a b off) s = .next t ∧ OnlyGroup s t ∧ MemoryKept s t ∧
        t.grp.asyncs = s.grp.asyncs ∧ t.grp.trec0 = s.grp.trec0 ∧ t.grp.frame = s.grp.frame ∧
        ∀ i, i < 8 → (Tbl.get 0 s.grp.ecsel i).toNat % 256 = 0x12 →
          Tbl.get 0 t.grp.ecnt i = Tbl.get 0 s.grp.ecnt i + BitVec.ofNat 32 (s.xs h).length)

/-- `CCTL` and the fences (R176, R179, R181, R309, R310): a cache control joins the group's operations; a fence joins
its pending fences; a fence of GRP scope orders nothing. -/
def Sys2Proof.Parts.CacheControlAndFences : Prop :=
  ∀ (s : State) (h : Hdr) (hint : BitVec 3) (op : CctlOp) (a b : Opnd) (off : BitVec 18) (kind : FKind) (sc : Scope)
    (p q : Path) (acc : List Access) (f : Fence) (i : Instr), Seated s → s.xs h ≠ [] →
    (s.grp.pathHeld .s = false → s.grp.counter .s < 63 → s.cctlAcc op (s.grp.ea a b off) (s.xs h) = .ok acc →
      ∃ t, exec (.cctl h hint op a b off) s = .next t ∧
        IssueFrom s t h { s.grp with memops := s.grp.memops ++
          [{ seq := s.grp.issues, path := .s, kind := .cctl op, ord := ⟨.plain, false⟩, acc := acc, got := [],
             dst := none, counted := true, wrote := false, hint := 0, org := ⟨s.cur.pc, s.cur.quads⟩ }] }) ∧
    (∃ t, exec (.fence h hint kind .grp) s = .next t ∧ IssueFrom s t h s.grp) ∧
    (((i = .fence h hint kind sc ∧ sc ≠ .grp ∧ f = .fence kind sc s.grp.issues false ⟨s.cur.pc, s.cur.quads⟩ ∧
        (s.blk.restartable = false ∨ kind = .acq ∨ sc = .core)) ∨
      (i = .fencex h hint p q ∧ f = .fencex p q s.grp.issues false ⟨s.cur.pc, s.cur.quads⟩)) →
      ∃ t, exec i s = .next t ∧ IssueFrom s t h { s.grp with fences := s.grp.fences ++ [f] })

/-- A pending fence ends only when its waits are over (R176, R179, R181), each by itself: one behind an unfinished one ends
before it. A release of DEV or POD scope, or side S of `FENCEX`, takes its write-back first, which leaves no dirty byte in
the core's L1; an end acts on nothing of the group's but the list, and tells the group of failing words at the homes
that its write-back meets (R435). -/
def Sys2Proof.Parts.FenceEnds : Prop :=
  ∀ (s t : State), Seated s → t = s.endFence →
    (t.grp.fences.length < s.grp.fences.length →
      ∃ f ∈ s.grp.fences, s.grp.fenceReady f = true ∧
        t.grp = { s.grp with fences := s.grp.fences.erase f, asyncs := t.grp.asyncs } ∧
        (s.badMem = [] → t.grp.asyncs = s.grp.asyncs)) ∧
    (t.grp.fences.length = s.grp.fences.length → t ≠ s →
      (∃ f ∈ s.grp.fences, f.writes = true ∧ f.wrote = false) ∧ ∀ line y, t.l1Find s.core line = some y → y.dirty = 0) ∧
    (s.blk.halted = false → (∀ f ∈ s.grp.fences, s.grp.fenceWrites f = false) →
      (∃ f ∈ s.grp.fences, s.grp.fenceReady f = true) → t.grp.fences.length + 1 = s.grp.fences.length) ∧
    ((∀ f ∈ s.grp.fences, s.grp.fenceWrites f = false ∧ s.grp.fenceReady f = false) → t = s)

/-- Prefetches, cache controls and fences. -/
def Obligations.CacheControls : Prop := Parts.PrefetchCompletes ∧ Parts.CacheControlAndFences ∧ Parts.FenceEnds

/-- The return of a load or of a returning atomic (R155, R302, R304, R306): the oldest operation of path G, once all its
accesses have performed, leaves the list and its values reach its registers; another operation's turn changes
nothing. Stated of a launch that replays no log. -/
def Obligations.LoadReturns : Prop :=
  ∀ (s : State) (r : GroupRef) (seq : Nat) (o : MemOp),
    AtGroup s r (.loadReturn r seq) (fun u v =>
      u.grp.memops.find? (fun o => o.path == .g) = some o → u.replaying = false →
      (o.seq = seq → o.acc = [] →
        GroupOnly u v { u.grp with memops := u.grp.memops.filter (fun p => p.seq != seq) } ∧
        (∀ d, o.dst = some d → Delivered u.grp v.grp d o.got ∧
          RegsKept u.grp v.grp (inDest d false) noReg (inDest d true) noReg) ∧
        (o.dst = none → RegsKept u.grp v.grp noReg noReg noReg noReg)) ∧
      ((o.seq ≠ seq ∨ o.acc ≠ []) → v = u))

/-- One access of the oldest store performs (R40, R155, R172, R173, R387), once nothing holds it back: the bytes of its data
go to the block's write buffer, or stand dirty in the core's L1, or reach the home; the operation has one access less,
and with its last access it returns. Where no word fails its check no other byte reads differently: at the home, the
core's own dirty copy of the line goes home with it, and a line that gives way in L1 goes home too. A failing word at the
home that the store replaces in part keeps its bits, and its group is told, with the time at which the failure was found
(R382). That a word of 8 bytes is what the check protects is log entry 8, when and to whom such a failure is told log
entry 41, and where the lines that give way come from log entry 40: the model's choices. -/
def Sys2Proof.Parts.StoreAccesses : Prop :=
  ∀ (s : State) (r : GroupRef) (o : MemOp) (a : Access) (as : List Access),
    o.kind = .store → o.acc = a :: as → a.pa % 128 + a.len ≤ 128 →
    AtGroup s r (.storePerform r) (fun u v =>
      u.grp.memops.find? (fun o => o.isStore && o.pending) = some o → u.grp.mayPerform o = true →
      let partly (w : Nat) : Prop := (∃ i, i < a.len ∧ (a.pa + i) / 8 = w) ∧ ¬ (a.pa ≤ 8 * w ∧ 8 * w + 8 ≤ a.pa + a.len)
      (u.blk.buffers = true → u.bufFull a.pa = false →
        (∀ i, i < a.len → v.blk.bufByte (a.pa + i) = some (BitVec.ofNat 8 (a.data / 2 ^ (8 * i)))) ∧
        (∀ x, x / 128 ≠ a.pa / 128 → v.blk.bufByte x = u.blk.bufByte x) ∧
        (∀ x, x / 128 = a.pa / 128 → (x < a.pa ∨ a.pa + a.len ≤ x) → v.blk.bufByte x =
          (u.blk.wbuf.find? (fun w => w.line == a.pa / 128)).bind (fun w =>
            if w.mask.getLsbD (x % 128) then some (Memory.byte w.data x) else none)) ∧
        (u.badMem = [] → ∀ x, newest v u.core x = newest u u.core x) ∧
        v.grp.memops = if as = [] then u.grp.memops.filter (fun p => p.seq != o.seq)
          else u.grp.memops.map (fun p => if p.seq = o.seq then { o with acc := as } else p)) ∧
      (u.blk.buffers = false → a.home = false → SoundLine u u.core a.pa →
        (∃ y, v.l1Find u.core (a.pa / 128) = some y ∧ ∀ i, i < a.len → y.dirty.getLsbD (a.pa % 128 + i) = true ∧
          Memory.byte y.data (a.pa + i) = BitVec.ofNat 8 (a.data / 2 ^ (8 * i))) ∧
        (∀ x, x < a.pa ∨ a.pa + a.len ≤ x → newest v u.core x = newest u u.core x) ∧
        ((u.l1Find u.core (a.pa / 128)).isSome = true → v.mem = u.mem) ∧
        v.blk = { u.blk with groups := u.blk.groups.set u.cur.grp v.grp }) ∧
      (u.blk.buffers = false → a.home = true →
        (SoundLine u u.core a.pa ∨ (u.l1Find u.core (a.pa / 128) = none ∧ ∀ w ∈ u.badMem, ¬ partly w)) →
        (∀ i, i < a.len → Memory.byte v.mem (a.pa + i) = BitVec.ofNat 8 (a.data / 2 ^ (8 * i))) ∧
        (∀ x, x < a.pa ∨ a.pa + a.len ≤ x →
          Memory.byte v.mem x = if x / 128 = a.pa / 128 then newest u u.core x else Memory.byte u.mem x) ∧
        v.grp = { u.grp with memops := if as = [] then u.grp.memops.filter (fun p => p.seq != o.seq)
          else u.grp.memops.map (fun p => if p.seq = o.seq then { o with acc := as } else p) }) ∧
      (u.blk.buffers = false → a.home = true → u.l1Find u.core (a.pa / 128) = none → (∃ w ∈ u.badMem, partly w) →
        (∀ i, i < a.len → Memory.byte v.mem (a.pa + i) =
          if (a.pa + i) / 8 ∈ u.badMem ∧ partly ((a.pa + i) / 8) then Memory.byte u.mem (a.pa + i)
          else BitVec.ofNat 8 (a.data / 2 ^ (8 * i))) ∧
        MemoryKeptBut u v a.pa a.len ∧
        v.grp.asyncs = u.grp.asyncs ++ [⟨0x50, 0, o.org, some (BitVec.ofNat 64 a.pa), true, 0, 0, u.time⟩]))

/-- The first step of a release of the core (R176 step 3): a store or an atomic that releases writes the core's L1 back once
earlier loads have returned and the store queue is drained, and stays, with its write-back noted; no dirty byte is left in
the core's L1, and no access of its own has performed. That the write-back is one step is log entry 40, the model's. -/
def Sys2Proof.Parts.ReleaseWritesBack : Prop :=
  ∀ (s : State) (r : GroupRef) (o : MemOp) (i : Instr) (p : MemOp → Bool),
    ((i = .storePerform r ∧ p = MemOp.isStore) ∨ (i = .atomicPerform r ∧ p = MemOp.isAtom)) →
    AtGroup s r i (fun u v =>
      u.grp.memops.find? (fun o => p o && o.pending) = some o → u.grp.releaseWrites o = true →
      v.grp.memops = u.grp.memops.map (fun x => if x.seq = o.seq then { o with wrote := true } else x) ∧
      (∀ line y, v.l1Find u.core line = some y → y.dirty = 0) ∧
      ∀ x, Sound u → newest v u.core x = newest u u.core x)

/-- Stores at the memory. -/
def Obligations.StorePerforms : Prop := Parts.StoreAccesses ∧ Parts.ReleaseWritesBack

/-- The word that an atomic leaves (R308), for every operation of the integer types in the words' own terms, signed for
`.i32` and `.i64`; for `.f32` the sum and the selection of R288, rounded to nearest, a NaN result canonical. -/
def Sys2Proof.Parts.AtomicValues : Prop :=
  (∀ (t : ATy) (x y c : Word), (t = .n32 ∨ t = .i32) →
    let lt (p q : Word) : Bool := if t = .i32 then p.slt q else p.ult q
    let word (op : AOp) : Nat := atomResult op t x.toNat y.toNat c.toNat
    word .add = (x + y).toNat ∧ word .min = (if lt y x then y else x).toNat ∧
    word .max = (if lt x y then y else x).toNat ∧ word .and = (x &&& y).toNat ∧ word .or = (x ||| y).toNat ∧
    word .xor = (x ^^^ y).toNat ∧ word .exch = y.toNat ∧ word .cas = (if x = c then y else x).toNat) ∧
  (∀ (t : ATy) (x y c : Dword), (t = .n64 ∨ t = .i64) →
    let lt (p q : Dword) : Bool := if t = .i64 then p.slt q else p.ult q
    let word (op : AOp) : Nat := atomResult op t x.toNat y.toNat c.toNat
    word .add = (x + y).toNat ∧ word .min = (if lt y x then y else x).toNat ∧
    word .max = (if lt x y then y else x).toNat ∧ word .and = (x &&& y).toNat ∧ word .or = (x ||| y).toNat ∧
    word .xor = (x ^^^ y).toNat ∧ word .exch = y.toNat ∧ word .cas = (if x = c then y else x).toNat) ∧
  (∀ x y c : Word,
    let p : FVal := unpack .f32 x.toNat
    let q : FVal := unpack .f32 y.toNat
    let word (op : AOp) : Nat := atomResult op .f32 x.toNat y.toNat c.toNat
    word .add = (rne .f32 (fAdd .rne p q).1).bits ∧ word .min = (rne .f32 (fMinMax false p q).1).bits ∧
    word .max = (rne .f32 (fMinMax true p q).1).bits ∧
    (p.isNan = true ∨ q.isNan = true → word .add = 0x7FC00000) ∧
    (p.isNan = true → q.isNan = true → word .min = 0x7FC00000 ∧ word .max = 0x7FC00000))

/-- One lane of the oldest atomic or reduction performs at its home, in one step (R153, R175, R176, R308), which the waits on the
word see between the core's dirty bytes and the new value (`w`, R318), a release once it has written the core's L1 back: the line leaves the L1 (once more since the issue: log entry 72, the model's choice), the old value is noted for the lane, and the word takes the new
value; a reduction returns with its last lane. Outside the word the homes hold what they did, or the core's dirty bytes
that went home before. -/
def Sys2Proof.Parts.AtomicPerforms : Prop :=
  ∀ (s w : State) (r : GroupRef) (o : MemOp) (op : AOp) (ty : ATy) (a : Access) (as : List Access),
    o.kind = .atom op ty → o.acc = a :: as → a.pa % 128 + a.len ≤ 128 →
    AtGroup s r (.atomicPerform r) (fun u v =>
      u.grp.memops.find? (fun o => o.isAtom && o.pending) = some o → u.grp.mayPerform o = true →
      (∀ x ∈ u.launches, x.ref = u.blk.ref.launch → x.mode = 0) →
      w = (u.writesBack o.org (fun u => u.flushLine u.core (a.pa / 128))).poll →
      w.badAt a.pa a.len = false →
      (let old := Memory.read w.mem a.pa a.len
       (∀ i, i < a.len →
         Memory.byte v.mem (a.pa + i) = BitVec.ofNat 8 (atomResult op ty old a.data a.cmp / 2 ^ (8 * i))) ∧
       ((o.acquires = false ∨ as ≠ []) → MemoryKeptBut w v a.pa a.len) ∧
       v.l1Find u.core (a.pa / 128) = none ∧
       ((o.acquires = false ∨ as ≠ []) → v.grp.asyncs = w.grp.asyncs) ∧
       v.grp = { w.grp with
         asyncs := v.grp.asyncs
         memops := if as = [] ∧ o.path = .s then u.grp.memops.filter (fun p => p.seq != o.seq)
           else u.grp.memops.map (fun p => if p.seq = o.seq then
             { o with acc := as, got := Tbl.insert o.got a.lane (Tbl.get 0 o.got a.lane + old * 2 ^ a.sh) } else p) }))

/-- Atomics and reductions at their homes. -/
def Obligations.Atomics : Prop := Parts.AtomicValues ∧ Parts.AtomicPerforms

/-- Failing lanes (R373, R457): a misaligned lane of a load is a fault of the lowest such lane's beat with its address,
taken instead of any effect, when no lane below it fails. -/
def Sys2Proof.Parts.MisalignedLoads : Prop :=
  ∀ (s : State) (h : Hdr) (hint : BitVec 3) (o : MOrd) (sz : Size) (d a b : Opnd) (off : BitVec 18) (ls rs : List Nat)
    (l : Nat), Seated s → s.lanes h = ls ++ l :: rs → s.grp.pathHeld .g = false →
    (∀ m ∈ ls, ∃ x, s.loadAt sz.bytes (o.kind != .plain || hint == 3) (s.grp.ea a b off m) = .ok x) →
    signOk (s.grp.ea a b off l) = true → (s.grp.ea a b off l).toNat % sz.bytes ≠ 0 →
    exec (.ld h hint o sz d a b off) s =
      .next (s.trap { code := 0x12, addr := some (s.grp.ea a b off l), beat := l / 32 })

/-- Loads issue, and a misaligned one is a fault of its lowest failing lane. -/
def Obligations.Loads : Prop := Parts.LoadIssues ∧ Parts.MisalignedLoads

/-! ### Class 0x9: scratchpad -/

/-- Scratchpad loads and `TSTF` (R148, R240, R311, R312): aligned and inside the window, in lines whose counts are zero and
with no error in what they read, each lane's bytes, or its line's count, stand as they are when the lane takes its place
in the scratchpad order, at the issue or, after a wait, in the lanes `ls` that had read before it, and will land in D;
nothing else changes. -/
def Sys2Proof.Parts.ScratchpadReads : Prop :=
  ∀ (s : State) (h : Hdr) (hint : BitVec 3) (sz : Size) (d a b : Opnd) (off : BitVec 18) (ls rs : List Nat)
    (v : Nat → Nat), Seated s → s.lanes h ≠ [] → s.grp.spadHeld false = false →
    let ea (l : Nat) : Nat := (s.grp.read a l + s.grp.read b l + off.signExtend 32).toNat
    (s.lanes h = ls ++ rs → s.partGot = ls.map (fun l => (l, some (v l))) →
      (∀ l ∈ s.lanes h, ea l % sz.bytes = 0 ∧ ea l + sz.bytes ≤ s.blk.spad) →
      (∀ l ∈ rs, s.blk.feCount (ea l / 128) = 0 ∧ s.blk.spadBad (ea l) sz.bytes = false) →
      ∃ t, exec (.lds h hint sz d a b off) s = .next t ∧
        IssueFrom s t h { s.grp with landings := s.grp.landings ++
          [⟨s.grp.issues, some (destOf false d sz),
            ls.map (fun l => (l, v l)) ++ rs.map (fun l => (l, Memory.read s.blk.spm (ea l) sz.bytes)), none, none⟩] }) ∧
    ((∀ l ∈ s.lanes h, ea l + 1 ≤ s.blk.spad) →
      ∃ t, exec (.tstf h hint d a b off) s = .next t ∧
        IssueFrom s t h { s.grp with landings := s.grp.landings ++
          [⟨s.grp.issues, some (destOf false d .b32), (s.lanes h).map (fun l => (l, s.blk.feCount (ea l / 128))),
            none, none⟩] })

/-- A lane of a scratchpad load that meets a line whose count is not zero waits for it in its place of the scratchpad order
(R148, R311): the group waits in its slot for that line, with what the lanes below it have read, before (`ls`) and now
(`ms`), and nothing else changes. -/
def Sys2Proof.Parts.ScratchpadWaits : Prop :=
  ∀ (s : State) (h : Hdr) (hint : BitVec 3) (sz : Size) (d a b : Opnd) (off : BitVec 18) (ls ms rs : List Nat) (l : Nat)
    (v : Nat → Nat), Seated s → s.grp.spadHeld false = false → s.lanes h = ls ++ ms ++ l :: rs →
    s.partGot = ls.map (fun m => (m, some (v m))) →
    let ea (l : Nat) : Nat := (s.grp.read a l + s.grp.read b l + off.signExtend 32).toNat
    (∀ m ∈ s.lanes h, ea m % sz.bytes = 0 ∧ ea m + sz.bytes ≤ s.blk.spad) →
    (∀ m ∈ ms, s.blk.feCount (ea m / 128) = 0 ∧ s.blk.spadBad (ea m) sz.bytes = false) →
    s.blk.feCount (ea l / 128) ≠ 0 →
    ∃ t, exec (.lds h hint sz d a b off) s = .next t ∧
      t = s.setGrp { s.grp with
        wait := .lineEmpty [ea l / 128]
        waitSince := t.grp.waitSince
        tried := t.grp.tried
        part := some ⟨⟨s.cur.pc, s.cur.quads⟩, ls.map (fun m => (m, some (v m))) ++
          ms.map (fun m => (m, some (Memory.read s.blk.spm (ea m) sz.bytes))), []⟩ }

/-- Scratchpad loads, with their waits. -/
def Obligations.ScratchpadLoads : Prop := Parts.ScratchpadReads ∧ Parts.ScratchpadWaits

/-- Scratchpad stores (R145, R311): each executing lane's bytes stand at its offset, the highest lane's where two lanes
meet; every other byte reads as before. A word that fails its check and that no lane replaces whole keeps its bits
(R387; that a word of 8 bytes is what the check protects is log entry 8, the model's choice). -/
def Sys2Proof.Parts.ScratchpadStores : Prop :=
  ∀ (s : State) (h : Hdr) (hint : BitVec 3) (sz : Size) (d a b : Opnd) (off : BitVec 18), Seated s → s.xs h ≠ [] →
    s.grp.spadHeld true = false →
    let ea (l : Nat) : Nat := (s.grp.read a l + s.grp.read b l + off.signExtend 32).toNat
    (∀ l ∈ s.xs h, s.blk.spadCheck s.blk.linePinned true sz.bytes (ea l) sz.bytes = none) →
    ∃ t, exec (.sts h hint sz d a b off) s = .next t ∧
      IssueFrom (s.modBlk (fun x => { x with spm := t.blk.spm, badSpm := t.blk.badSpm })) t h s.grp ∧
      (∀ l ∈ s.xs h, ∀ i, i < sz.bytes → (8 ≤ sz.bytes ∨ (ea l + i) / 8 ∉ s.blk.badSpm) →
        (∀ m ∈ s.xs h, l < m → ea l + i < ea m ∨ ea m + sz.bytes ≤ ea l + i) →
        Memory.byte t.blk.spm (ea l + i) = BitVec.ofNat 8 (s.grp.data d sz.regs l / 2 ^ (8 * i))) ∧
      (sz.bytes < 8 → ∀ x, x / 8 ∈ s.blk.badSpm → Memory.byte t.blk.spm x = Memory.byte s.blk.spm x) ∧
      (∀ x, (∀ l ∈ s.xs h, x < ea l ∨ ea l + sz.bytes ≤ x) → Memory.byte t.blk.spm x = Memory.byte s.blk.spm x)

/-- Scratchpad atomics (R311, R308): lane after lane in ascending order, each on the value the lane below left; the old
values will land in D, which may be ZERO, and the issue counts once (event 0x0A, R229). With one lane, its word takes the
new value and every other byte reads as before. -/
def Sys2Proof.Parts.ScratchpadAtomics : Prop :=
  ∀ (s : State) (h : Hdr) (hint : BitVec 3) (op : AOp) (ty : ATy) (d a b c e : Opnd), Seated s → s.xs h ≠ [] →
    ATy.ofOpnd e = some ty → s.grp.spadHeld true = false →
    let n := ty.bytes
    let ea (l : Nat) : Nat := (s.grp.read a l).toNat
    let cmp (l : Nat) : Nat := if op = .cas then s.grp.atomData ty c l else 0
    let all := s.blk.spadAtoms op ty ((s.xs h).map (fun l => (l, ea l, s.grp.atomData ty b l, cmp l)))
    (∀ l ∈ s.xs h, s.blk.spadCheck s.blk.linePinned true n (ea l) n = none ∧ s.blk.feCount (ea l / 128) = 0 ∧
      s.blk.spadBad (ea l) n = false) →
    ∃ t, exec (.atoms h hint op d a b c e) s = .next t ∧
      IssueFrom ((s.modBlk (fun x => { x with spm := t.blk.spm, badSpm := t.blk.badSpm })).count 0x0A 1) t h
        { (s.count 0x0A 1).grp with landings := if d = .zero then s.grp.landings else s.grp.landings ++
          [⟨s.grp.issues, some ⟨false, regNum d, n / 4, if n = 8 then .b64 else .b32⟩, all.1, none, none⟩] } ∧
      (∀ x, Memory.byte t.blk.spm x = Memory.byte all.2.spm x) ∧
      (∀ l, s.xs h = [l] →
        all.1 = [(l, Memory.read s.blk.spm (ea l) n)] ∧
        (∀ i, i < n → Memory.byte t.blk.spm (ea l + i) = BitVec.ofNat 8
          (atomResult op ty (Memory.read s.blk.spm (ea l) n) (s.grp.atomData ty b l) (cmp l) / 2 ^ (8 * i))) ∧
        ∀ x, x < ea l ∨ ea l + n ≤ x → Memory.byte t.blk.spm x = Memory.byte s.blk.spm x)

/-- Pending counts (R147, R312): `SETE` raises the count of each line its lanes name once, when none stands at 7, and
`SETF` lowers it, with no change at 0; no other count and no byte changes. -/
def Sys2Proof.Parts.PendingCounts : Prop :=
  ∀ (s : State) (h : Hdr) (hint : BitVec 3) (a b : Opnd) (off : BitVec 18), Seated s → s.xs h ≠ [] →
    s.grp.spadHeld true = false →
    let ea (l : Nat) : Nat := (s.grp.read a l + s.grp.read b l + off.signExtend 32).toNat
    (∀ l ∈ s.xs h, ea l + 1 ≤ s.blk.spad) →
    ((∀ l ∈ s.xs h, s.blk.feCount (ea l / 128) < 7) →
      ∃ t, exec (.sete h hint a b off) s = .next t ∧ IssueFrom (s.modBlk (fun x => { x with fe := t.blk.fe })) t h s.grp ∧
        ∀ k, t.blk.feCount k = if ∃ l ∈ s.xs h, ea l / 128 = k then s.blk.feCount k + 1 else s.blk.feCount k) ∧
    (∃ t, exec (.setf h hint a b off) s = .next t ∧ IssueFrom (s.modBlk (fun x => { x with fe := t.blk.fe })) t h s.grp ∧
      ∀ k, t.blk.feCount k = if ∃ l ∈ s.xs h, ea l / 128 = k then s.blk.feCount k - 1 else s.blk.feCount k)

/-- Scratchpad stores, atomics and pending counts. -/
def Obligations.ScratchpadUpdates : Prop := Parts.ScratchpadStores ∧ Parts.ScratchpadAtomics ∧ Parts.PendingCounts

/-- `DEC` (R167, R168, R313, R436, R450): with a legal control pair and its stream's lines full, the elements before the
first bad one are decoded, field by field or as running sums, to the scratchpad or in order to the executing lanes, the
others receiving zero; the produced count goes to the control register and the predicate says whether it is n. Nothing
but these, and the bytes of the elements, changes. A line that the stream read before a wait counts as it was read then
(R148); an element's bytes in a word that fails its check keep their bits (R387). -/
def Obligations.StreamDecode : Prop :=
  ∀ (s : State) (h : Hdr) (hint : BitVec 3) (delta : Bool) (d a b c : Opnd) (ps : PField), Seated s →
    s.lanes h ≠ [] → s.grp.spadHeld (d == .zero) = false →
    let n := (s.grp.readN c 0 0).toNat % 128
    let w := (s.grp.readN c 0 0).toNat / 256 % 64
    let dst := s.grp.readN c 1 0
    let src := (s.grp.read a 0).toNat
    let bytes := (n * w + 7) / 8
    let v := leNat ((List.range bytes).map (fun i => s.blk.streamByte s.partGot (src + i)))
    let f := s.blk.produced s.partGot src w n
    let field (j : Nat) : Nat := v / 2 ^ (j * w) % 2 ^ w
    let elem (j : Nat) : Nat :=
      if delta then ((s.grp.read b 0).toNat + ((List.range (j + 1)).map field).sum) % 2 ^ 32 else field j
    s.decCheck (d == .zero) (s.grp.readN c 0 0) dst (s.xs h).length = none →
    (∀ k ∈ linesOf src (min bytes (s.blk.spad - src)), s.blk.feCount k = 0 ∨ s.partGot.any (fun x => x.1 == k) = true) →
    (s.partGot = [] → v = Memory.read s.blk.spm src bytes) ∧
    ((∀ x ∈ s.partGot, x.2.isSome = true) →
      (∀ k, src / 128 ≤ k → k ≤ (src + bytes) / 128 → s.blk.spadBad (128 * k) 128 = false) →
      src + bytes ≤ s.blk.spad → f = n) ∧
    ∃ t x, exec (.dec h hint delta d a b c ps) s = .next t ∧
      IssueFrom (s.modBlk (fun y => { y with spm := t.blk.spm, badSpm := t.blk.badSpm })) t h
        { s.grp with landings := s.grp.landings ++ [x] } ∧
      x.sdst = some (regNum c, BitVec.ofNat 32 f) ∧
      x.pdst = some (ps.num.toNat, maskOf (s.lane h), if f = n then maskOf (s.lane h) else 0) ∧
      (d ≠ .zero → x.dst = some (destOf false d .b32) ∧ t.blk.spm = s.blk.spm ∧
        x.vals = (s.lanes h).map (fun l =>
          let k := ((s.xs h).filter (· < l)).length
          (l, if (s.xs h).contains l ∧ k < f then elem k else 0))) ∧
      (d = .zero → x.dst = none ∧
        (∀ j i, j < f → i < 4 → Memory.byte t.blk.spm (dst.toNat + 4 * j + i) =
          if (dst.toNat + 4 * j + i) / 8 ∈ s.blk.badSpm then Memory.byte s.blk.spm (dst.toNat + 4 * j + i)
          else BitVec.ofNat 8 (elem j / 2 ^ (8 * i))) ∧
        ∀ y, y < dst.toNat ∨ dst.toNat + 4 * f ≤ y → Memory.byte t.blk.spm y = Memory.byte s.blk.spm y)

/-- A scratchpad result lands (R148, R311, R313): registers, the scalar and the predicate of `DEC` take their values and
nothing else changes. -/
def Obligations.ScratchpadLands : Prop :=
  ∀ (s : State) (r : GroupRef) (seq : Nat) (x : Landing),
    AtGroup s r (.scratchpadResultLanding r seq) (fun u v =>
      u.grp.landings.find? (fun x => x.seq == seq) = some x →
      (∀ d k, x.dst = some d → x.sdst = some k → d.scalar = false) →
      GroupOnly u v { u.grp with landings := u.grp.landings.filter (fun y => y.seq != seq) } ∧
      (∀ d, x.dst = some d → Delivered u.grp v.grp d x.vals) ∧
      (∀ n w, x.sdst = some (n, w) → v.grp.sreg n = w) ∧
      (∀ n lanes val, x.pdst = some (n, lanes, val) → n < 7 → ∀ l, l < 96 →
        v.grp.pred (BitVec.ofNat 3 n) l = if lanes.getLsbD l then val.getLsbD l else u.grp.pred (BitVec.ofNat 3 n) l) ∧
      RegsKept u.grp v.grp (fun n => ∃ d, x.dst = some d ∧ inDest d false n) noReg
        (fun n => (∃ d, x.dst = some d ∧ inDest d true n) ∨ ∃ k, x.sdst = some k ∧ k.1 = n)
        (fun n => ∃ k, x.pdst = some k ∧ k.1 % 8 = n ∧ n ≠ 7))

/-! ### Class 0xA: copies, waits and barrier objects -/

/-- Copies issue (R41, R147, R155, R158 to R161, R314 to R316): when every lane's transfer passes its checks, no
destination line stands at 7 and C has room, the copy joins the group's copies with its source and destination bytes in
order, what it does to them, its object, its hint where it is code 4 (R305), and the count of each destination line of the
window raised; a copy to global memory pins a restartable block first. -/
def Obligations.CopyIssues : Prop :=
  ∀ (s u : State) (h : Hdr) (hint : BitVec 3) (sz : XSize) (w : BitVec 2) (ss ds : Bool) (d a b c e : Opnd) (i : Instr)
    (kind : CopyKind) (src dst : List Loc) (obj : Option Nat), Seated s → s.xs h ≠ [] → s.grp.pathHeld .c = false →
    s.grp.counter .c < 63 → s.objAt e = .ok obj →
    let bits := 4 * 2 ^ w.toNat
    let lim := (s.grp.read c 0).toNat
    let rw := if lim / 2 ^ 16 = 0 then 0 else lim % 2 ^ 16
    let cl := if lim % 2 ^ 16 = 0 then 0 else lim / 2 ^ 16
    let al := if w = 0 then 1 else bits / 8
    ((∃ ps m, i = .cpy h hint sz ss ds d a c e ∧ (kind, m) = s.cpyKind sz.bytes c ∧
        checkLanes (s.transferAt ss ds sz.bytes m d a e) (s.xs h) = .ok ps ∧
        src = ps.flatMap (fun p => p.1.range sz.bytes) ∧ dst = ps.flatMap (fun p => p.2.range m)) ∨
     (∃ ps, i = .cpyc h hint sz ss ds d a c e ∧ kind = .code (s.ctx s.blk.ctx).table ∧
        checkLanes (s.transferAt ss ds sz.bytes (2 * sz.bytes) d a e) (s.xs h) = .ok ps ∧
        src = ps.flatMap (fun p => p.1.range sz.bytes) ∧ dst = ps.flatMap (fun p => p.2.range (2 * sz.bytes))) ∨
     (∃ xs ys, i = .cpyt h hint w ss ds d a b c e ∧ kind = (if w = 0 then .nibbles else .plain) ∧
        rw * cl * bits ≤ 32768 ∧ (w = 0 → lim % 2 = 0 ∧ lim / 2 ^ 16 % 2 = 0) ∧
        s.rowsAt ss false al (cl * bits / 8) (s.grp.readN b 0 0).toNat (s.grp.addr ss a 0) rw = .ok xs ∧
        s.rowsAt ds true al (rw * bits / 8) (s.grp.readN b 1 0).toNat (s.grp.addr ds d 0) cl = .ok ys ∧
        (∀ x ∈ ys.flatten, x ∉ xs.flatten) ∧
        src = (tileOrder (w == 0) rw cl (bits / 8) xs ys).1 ∧ dst = (tileOrder (w == 0) rw cl (bits / 8) xs ys).2) ∨
     (∃ xs, i = .ldct h hint ss a e ∧ kind = .loadTable ∧
        s.rowsAt ss false 128 128 128 (s.grp.addr ss a 0) 4 = .ok xs ∧ src = xs.flatten ∧ dst = [])) →
    (∀ k ∈ spadLines dst, s.blk.feCount k < 7) →
    (∀ x pa, x ∈ dst → x = .glob pa → s.blk.buffers = true → s.badBuf = none) →
    u = (if dst.any (fun l => match l with
      | .glob _ => true
      | .spad _ => false) then s.pin else s) →
    ∃ t, exec i s = .next t ∧
      IssueFrom (u.modBlk (fun x => { x with fe := t.blk.fe })) t h { u.grp with copies := u.grp.copies ++
        [{ seq := s.grp.issues, kind := kind, src := .of src, dst := dst, buf := none, flags := 0, obj := obj,
           lines := spadLines dst, landed := false, org := ⟨s.cur.pc, s.cur.quads⟩, hint := streamHint hint }] } ∧
      ∀ k, t.blk.feCount k = if k ∈ spadLines dst then s.blk.feCount k + 1 else s.blk.feCount k

/-- A copy lands (R159, R162, R314, R316): its bytes stand at their destinations, or the code table is the context's, the
counts it raised fall, C falls once every earlier copy has landed, the object receives the arrival with the copy's
flags, and every other byte reads as before. Bytes at the homes are stated where no word fails its check, and those of
the window outside its failing words, since a failing word that is replaced in part keeps its bits (R387). That all
lines of a copy land together is log entry 72, the model's choice. -/
def Obligations.CopyLands : Prop :=
  ∀ (s : State) (r : GroupRef) (seq : Nat) (c : CopyOp) (bytes : List Byte),
    c.buf = some bytes → c.landed = false → c.dst.Nodup → (c.kind ≠ .loadTable → bytes.length = c.dst.length) →
    (∀ o, c.obj = some o → ∀ x, Loc.spad x ∈ c.dst → x < o ∨ o + 64 ≤ x) →
    AtGroup s r (.copyCompletion r seq) (fun u v =>
      u.grp.copies.find? (fun x => x.seq == seq) = some c → u.grp.copyBehind c = false →
      (c.kind ≠ .loadTable →
        (u.badMem = [] → ∀ (j pa : Nat) (b : Byte), c.dst[j]? = some (Loc.glob pa) → bytes[j]? = some b →
          Memory.byte v.mem pa = b) ∧
        (∀ (j x : Nat) (b : Byte), c.dst[j]? = some (Loc.spad x) → bytes[j]? = some b → x / 8 ∉ u.blk.badSpm →
          Memory.byte v.blk.spm x = b) ∧
        (∀ x, Loc.glob x ∉ c.dst → Memory.byte v.mem x = Memory.byte u.mem x) ∧
        (∀ x, Loc.spad x ∉ c.dst → (∀ o, c.obj = some o → x < o ∨ o + 64 ≤ x) →
          Memory.byte v.blk.spm x = Memory.byte u.blk.spm x) ∧ v.ctxs = u.ctxs) ∧
      (c.kind = .loadTable → v.mem = u.mem ∧ (c.obj = none → v.blk.spm = u.blk.spm) ∧
        ∀ k, k < 256 → ((v.ctx u.blk.ctx).table.getD k 0) =
          BitVec.ofNat 16 (leNat ((bytes.drop (2 * k)).take 2))) ∧
      (∀ k, v.blk.feCount k = u.blk.feCount k - c.lines.count k) ∧
      v.grp.copies = (u.grp.copies.map (fun x => if x.seq = c.seq then { c with landed := true } else x)).dropWhile
        (fun x => x.landed) ∧
      (∀ o, c.obj = some o → u.blk.spadBad o 64 = false → ∃ y : Block, Arrived y v.blk o 1 c.flags ∧
        ∀ x, o ≤ x → x < o + 64 → Memory.byte y.spm x = Memory.byte u.blk.spm x) ∧
      RegsKept u.grp v.grp noReg noReg noReg noReg)

/-- Counters and the waits on them and on barrier objects (R155, R166, R317, R319): `RDC` gives the path's counter;
`WAITC` and `ABWAIT` go on once the counter has fallen to the threshold, or the phase is complete, and before that the
group waits at a swap point. -/
def Sys2Proof.Parts.CounterAndPhaseWaits : Prop :=
  ∀ (s : State) (h : Hdr) (hint : BitVec 3) (p : Path) (n : BitVec 6) (a b : Opnd), Seated s → s.xs h ≠ [] →
    (∃ t, exec (.rdc h hint p (.s n)) s = .next t ∧ t.grp.sreg n.toNat = BitVec.ofNat 32 (s.grp.counter p) ∧
      LatchesKept s.grp t.grp ∧ RegisterFrame s t h false noReg noReg (sRegs (.s n) 1) noReg) ∧
    (let k := (s.grp.read a 0).toNat
     (k ≤ 63 → s.grp.counter p ≤ k → ∃ t, exec (.waitc h hint p a) s = .next t ∧ SwapFrom s t h s.grp) ∧
     (k ≤ 63 → k < s.grp.counter p → ∃ t, exec (.waitc h hint p a) s = .next t ∧ WaitsAt s t (.path p k))) ∧
    (let off := (s.grp.read a 0).toNat
     let k := s.grp.read b 0
     let d := (BitVec.ofNat 32 (s.blk.objWord (off + 8)) - k).toNat
     off % 64 = 0 → off + 64 ≤ s.blk.spad → s.blk.spadBad off 64 = false → s.grp.spadHeld false = false →
     (1 ≤ d ∧ d < 2 ^ 31 → ∃ t, exec (.abwait h hint a b) s = .next t ∧ SwapFrom s t h s.grp) ∧
     (¬ (1 ≤ d ∧ d < 2 ^ 31) → ∃ t, exec (.abwait h hint a b) s = .next t ∧ WaitsAt s t (.phase off k)))

/-- `WAITM` (R174, R177, R188, R318): once the word satisfies the condition, D takes it, the core's L1 is written back and
invalidated, and the group goes on from a swap point; a word that does not is waited for, until a write performs at the
home of its line; and while earlier operations or fences hold the first read back, it is not made. Its hint, where it is
code 4, marks its line (R305), and a failing word that the write-back replaces in part is told to the group (R435).
Stated of a launch that neither records nor replays. -/
def Sys2Proof.Parts.MemoryWait : Prop :=
  ∀ (s : State) (h : Hdr) (hint : BitVec 3) (cond : WCond) (w64 : Bool) (d a b : Opnd) (n : BitVec 6) (pa ct x mask : Nat),
    Seated s → s.xs h ≠ [] → d = .s n → (∀ y ∈ s.launches, y.ref = s.blk.ref.launch → y.mode = 0) →
    let k := if w64 then 8 else 4
    let want := if w64 then (s.grp.read64 b 0).toNat else (s.grp.read b 0).toNat
    let holds (t : State) : Prop :=
      if w64 then t.grp.spair n.toNat = BitVec.ofNat 64 x else t.grp.sreg n.toNat = BitVec.ofNat 32 x
    let ends (t : State) : State :=
      (t.writesBack ⟨s.cur.pc, s.cur.quads⟩ (fun t => t.flushAll s.core)).noteHint s.core pa (streamHint hint)
    s.transl s.core s.blk.ctx .waitm k (s.grp.read64 a 0) = .ok (pa, ct) →
    (s.grp.wait = .memHit pa k x mask → waitHolds cond x want = true → x < 2 ^ (8 * k) →
      ∃ t, exec (.waitm h hint cond w64 d a b) s = .next t ∧ holds t ∧
        OnlyGroup (ends s) t ∧ (∀ y ∈ t.l1, y.core ≠ s.core) ∧
        Issued s t h (fun _ pc => pcNext pc) ∧
        RegsKept s.grp t.grp noReg (fun _ => True) (sRegs (.s n) (if w64 then 2 else 1)) noReg ∧
        SpecialKept (ends s).grp t.grp) ∧
    (s.grp.wait = .ready → s.loadBad true pa k = false →
      (s.grp.mayReread pa = false → ∃ t, exec (.waitm h hint cond w64 d a b) s = .next t ∧
        WaitsAt s t (.memWord pa k cond want none)) ∧
      (s.grp.mayReread pa = true → (∀ i, i < k → s.grp.queued s.grp.issues (pa + i) = none) → s.blk.wbuf = [] →
      x = leNat (s.loadHome ⟨s.cur.pc, s.cur.quads⟩ pa k).1 →
      let l : State := (s.loadHome ⟨s.cur.pc, s.cur.quads⟩ pa k).2
      (waitHolds cond x want = true →
        ∃ t, exec (.waitm h hint cond w64 d a b) s = .next t ∧ holds t ∧
          OnlyGroup (ends l) t ∧ (∀ y ∈ t.l1, y.core ≠ s.core) ∧
          Issued s t h (fun _ pc => pcNext pc) ∧
          RegsKept s.grp t.grp noReg (fun _ => True) (sRegs (.s n) (if w64 then 2 else 1)) noReg ∧
          SpecialKept (ends l).grp t.grp) ∧
      (waitHolds cond x want = false → ∃ t, exec (.waitm h hint cond w64 d a b) s = .next t ∧
        WaitsAt l t (.memWord pa k cond want (some (l.homeRead (pa / 128 * 128) 128))))))

/-- Waits on counters, phases and words of memory. -/
def Obligations.Waits : Prop := Parts.CounterAndPhaseWaits ∧ Parts.MemoryWait

/-- Barrier objects (R163 to R165, R319): `ABINIT` writes the expected count and zeroes the rest, `ABARR` arrives with its
count and flags after the waits of its release, `ABFLG` gives the flags of the completed phase. -/
def Obligations.BarrierObjects : Prop :=
  ∀ (s : State) (h : Hdr) (hint : BitVec 3) (n : BitVec 6) (a b c : Opnd), Seated s → s.xs h ≠ [] →
    let off := (s.grp.read a 0).toNat
    let v := (s.grp.read b 0).toNat
    off % 64 = 0 → off + 64 ≤ s.blk.spad →
    (s.blk.spadCheck s.blk.linePinned true 64 off 64 = none → v ≠ 0 → v ≤ 16777215 → s.grp.spadHeld true = false →
      ∃ t, exec (.abinit h hint a b) s = .next t ∧
        IssueFrom (s.modBlk (fun x => { x with spm := t.blk.spm, badSpm := t.blk.badSpm })) t h s.grp ∧
        t.blk.objWord off = v ∧ (∀ x, off + 4 ≤ x → x < off + 64 → Memory.byte t.blk.spm x = 0) ∧
        ∀ x, x < off ∨ off + 64 ≤ x → Memory.byte t.blk.spm x = Memory.byte s.blk.spm x) ∧
    (s.blk.spadBad off 64 = false →
      (s.blk.spadCheck s.blk.linePinned true 64 off 64 = none → v ≠ 0 →
        s.blk.objWord (off + 4) + v ≤ s.blk.objWord off % 2 ^ 24 → (s.grp.read c 0).toNat < 128 →
        s.grp.spadHeld true = false → s.grp.relReady false s.grp.issues = true →
        ∃ t, exec (.abarr h hint a b c) s = .next t ∧
          IssueFrom (s.modBlk (fun x => { x with spm := t.blk.spm, badSpm := t.blk.badSpm })) t h s.grp ∧
          Arrived s.blk t.blk off v ((s.grp.read c 0).setWidth 7)) ∧
      (s.grp.spadHeld false = false →
        ∃ t, exec (.abflg h hint (.s n) a) s = .next t ∧
          t.grp.sreg n.toNat = BitVec.ofNat 32 (s.blk.objWord (off + 16)) ∧
          LatchesKept s.grp t.grp ∧ RegisterFrame s t h false noReg noReg (sRegs (.s n) 1) noReg))

/-! ### Class 0xB: the matrix path -/

/-- A queue entry as an issue enters it. -/
def matEntry (s : State) (kind : MatKind) (reg aoff boff : Nat) (coff : Nat → Nat) (ncol bt : Nat) : MatOp :=
  { seq := s.grp.issues, kind := kind, beat := bt, reg := reg, aoff := aoff, boff := boff, coff := coff bt, ncol := ncol,
    tile := 0, last := false, codebook := none, got := [] }

/-- Matrix operations issue (R320 to R326, R334 to R337, R398, R399, R418, R419, R427): with whole beats, each with one
guard, room in the queue and in M, a legal SHAPE and object, and every performed beat passing its checks, the issue
enters one operation for each performed beat, the last marked, and counts in M with its object; nothing else changes. -/
def Obligations.MatrixIssues : Prop :=
  ∀ (s : State) (h : Hdr) (body : Body) (cap sp : BitVec 2) (fp16 : Bool) (fmt : TFmt) (d a b c e : Opnd) (i : Instr)
    (entry : Nat → MatOp) (beats : List Nat), Seated s →
    beats = s.beats.filter (fun bt => s.beatGuard h bt 0) → beats ≠ [] →
    (∀ bt ∈ s.beats, s.beatWhole bt = true ∧ s.beatUniform h bt = true) → s.grp.pathHeld .m = false →
    s.grp.mats.length + beats.length ≤ 4 → s.grp.counter .m < 63 → s.matObj e = none → s.cur.bad = none →
    let g := s.grp
    let sh := g.read c 0
    let n := sh.toNat % 512
    let offD := (g.read d 0).toNat
    let offA := (g.read a 0).toNat
    let offB := (g.read b 0).toNat
    let size := recordSize body cap
    let shape := n % 16 = 0 ∧ 16 ≤ n ∧ n ≤ 256 ∧ sh.toNat < 1024
    let ovt := (s.ctx s.blk.ctx).ovt
    let fits (al off k : Nat) := off % al = 0 ∧ off + k ≤ s.blk.spad
    ((i = .mmq h body cap d a b c e ∧ shape ∧ sh.getLsbD 9 = false ∧ fits 16 offB (size * (2 * (n / 16))) ∧
        s.linesAwaited [(offB, size * (2 * (n / 16)))] = [] ∧
        s.matView.badRange [(offB, size * (2 * (n / 16)))] = none ∧
        (∀ k, k < 2 * (n / 16) → s.matView.recordFault body cap (offB + size * k) = none) ∧
        (∀ bt ∈ beats, fits 16 (offD + 4 * (16 * bt * n)) (64 * n) ∧
          overlaps (offD + 4 * (16 * bt * n)) (64 * n) offB (size * (2 * (n / 16))) = false ∧
          ∀ st, st < 2 → splitBadA g.mxa (g.subA (regNum a) bt st) = none) ∧
        entry = matEntry s (.mmq body cap g.mxa) (regNum a) 0 offB (fun bt => offD + 4 * (16 * bt * n)) n) ∨
     (i = .mmf h fp16 d a b c e ∧ shape ∧ sh.getLsbD 9 = false ∧ fits 2 offB (64 * n) ∧
        (∀ bt ∈ beats, fits 16 (offD + 4 * (16 * bt * n)) (64 * n)) ∧
        entry = matEntry s (.mmf fp16) (regNum a) 0 offB (fun bt => offD + 4 * (16 * bt * n)) n) ∨
     (i = .mmd h d a b c e ∧ shape ∧ sh.getLsbD 9 = false ∧ fits 8 offB (64 * n) ∧
        (∀ bt ∈ beats, fits 16 (offD + 8 * (16 * bt * n)) (128 * n)) ∧
        entry = matEntry s .mmd (regNum a) 0 offB (fun bt => offD + 8 * (16 * bt * n)) n) ∨
     (i = .tenc h body cap sp d a b e ∧ (g.read b 0).toNat < 2 ^ 16 ∧
        (∀ bt ∈ beats, fits 16 (offD + size * bt) size ∧
          splitFails .f32 (g.fragT (regNum a) bt) (candidates .f32 (g.fragT (regNum a) bt) (g.read b 0).toNat)
            (capSlots cap) sp.toNat = false) ∧
        entry = matEntry s (.tenc body cap sp ((g.read b 0).extractLsb' 0 16) ovt) (regNum a) 0 0
          (fun bt => offD + size * bt) 16) ∨
     (i = .tdec h body cap d b e ∧
        (∀ bt ∈ beats, fits 16 (offB + size * bt) size ∧ s.linesAwaited [(offB + size * bt, size)] = [] ∧
          s.matView.badRange [(offB + size * bt, size)] = none ∧ s.matView.slotFault body cap (offB + size * bt) = none) ∧
        entry = fun bt => matEntry s (.tdec body cap) (regNum d) 0 (offB + size * bt) (fun _ => 0) 16 bt) ∨
     (i = .tzero h d c e ∧ shape ∧
        (∀ bt ∈ beats, fits 16 (offD + (if sh.getLsbD 9 then 8 else 4) * (16 * bt * n))
          (16 * (if sh.getLsbD 9 then 8 else 4) * n)) ∧
        entry = matEntry s (.tzero (sh.getLsbD 9)) 0 0 0
          (fun bt => offD + (if sh.getLsbD 9 then 8 else 4) * (16 * bt * n)) n) ∨
     (i = .tcvt h fmt d a c e ∧ shape ∧ sh.getLsbD 9 = false ∧
        (∀ bt ∈ beats, fits 16 (offD + tfmtSize fmt * (16 * bt * n)) (16 * tfmtSize fmt * n) ∧
          fits 16 (offA + 4 * (16 * bt * n)) (64 * n) ∧
          ((offA = offD ∧ fmt = .f32) ∨ overlaps (offA + 4 * (16 * bt * n)) (64 * n)
            (offD + tfmtSize fmt * (16 * bt * n)) (16 * tfmtSize fmt * n) = false)) ∧
        entry = fun bt => matEntry s (.tcvt fmt ovt) 0 (offA + 4 * (16 * bt * n)) 0
          (fun bt => offD + tfmtSize fmt * (16 * bt * n)) n bt)) →
    ∃ t, exec i s = .next t ∧
      IssueFrom s t h { g with
        mats := g.mats ++ markLast (beats.map entry),
        matIssues := g.matIssues ++ [(⟨g.issues, 0, (if e = .zero then none else some (g.read e 0).toNat), false,
          ⟨s.cur.pc, s.cur.quads⟩⟩ : MatIssue)] }

/-- The matrix instructions that act once (R320, R331 to R333, R338, R399, R418, R427): with one guard for the whole
issue, `TPIN` pins its range, `TUNPIN` releases an entry in force, `LDCBK` will load the codebook from its page, and each
enters one operation; `MXCFG` writes MXA, takes no entry, and returns on M in order. -/
def Obligations.MatrixOnceIssues : Prop :=
  ∀ (s : State) (h : Hdr) (body : Body) (cap : BitVec 2) (a b c e : Opnd) (bt : Nat) (bts : List Nat), Seated s →
    s.beats = bt :: bts → (∀ x ∈ s.beats, s.beatUniform h x = true ∧ s.beatGuard h x 0 = true) →
    s.grp.pathHeld .m = false → s.grp.counter .m < 63 → s.cur.bad = none →
    let g := s.grp
    let issue : MatIssue := ⟨g.issues, 0, if e = .zero then none else some (g.read e 0).toNat, false,
      ⟨s.cur.pc, s.cur.quads⟩⟩
    let entry (kind : MatKind) (off : Nat) : MatOp := { matEntry s kind 0 0 off (fun _ => 0) 16 bt with last := true }
    (s.matObj e = none → g.mats.length < 4 →
      (let off := (g.read b 0).toNat
       let n := (g.read c 0).toNat * recordSize body cap
       1 ≤ (g.read c 0).toNat → (g.read c 0).toNat ≤ 512 → off % 16 = 0 → off + n ≤ s.blk.spad →
       s.linesAwaited [(off, n)] = [] → s.matView.badRange [(off, n)] = none →
       (g.pins.filter (fun p => !p.released)).length < 4 → s.blk.pinClash body cap off n = false →
       ∃ t, exec (.tpin h body cap b c e) s = .next t ∧
         IssueFrom s t h { g with pins := g.pins ++ [⟨off, n, body, cap, false⟩], mats := g.mats ++ [entry .tpin off],
                                  matIssues := g.matIssues ++ [issue] }) ∧
      (let off := (g.read b 0).toNat
       off % 16 = 0 → off < s.blk.spad → (∃ p ∈ g.pins, p.off = off ∧ p.released = false) →
       ∃ t, exec (.tunpin h b e) s = .next t ∧
         IssueFrom s t h { g with pins := releasePin off g.pins, mats := g.mats ++ [entry .tunpin off],
                                  matIssues := g.matIssues ++ [issue] }) ∧
      (∀ pas, s.codebookAt (g.read64 a 0) = .ok pas → (∀ pa ∈ pas, s.badAt pa 128 = false) →
       ∃ t, exec (.ldcbk h a e) s = .next t ∧
         IssueFrom s t h { g with mats := g.mats ++ [entry (.ldcbk pas) 0], matIssues := g.matIssues ++ [issue] })) ∧
    (let w := g.read a 0
     w &&& ~~~(0xFFFF0333#32) = 0 → w.toNat % 4 < 2 →
     ∃ t, exec (.mxcfg h a) s = .next t ∧ t.grp.mxa = w ∧
       IssueFrom s t h { g with
         mxa := w,
         copies := g.copies.dropWhile (fun x => x.landed),
         fabs := retireFabs g.fabs,
         matIssues := (g.matIssues ++ [(⟨g.issues, 0, none, true, ⟨s.cur.pc, s.cur.quads⟩⟩ : MatIssue)]).dropWhile
           (fun x => x.done) })

/-- A tile step of the engine (R81, R129, R130, R327 to R330, R336, R337), of a group alone ready on its core: element
(m, n) of the step's sixteen columns takes, by the kind of the operation, zero, the converted source, or the
accumulation of C with the products of A's row and B's column; no other byte of the window changes but those of the
object that the issue's end reaches, and no byte of the homes. Stated of operations whose results are defined (R3,
R409), and of elements outside the words that fail their check, since such a word keeps its bits where it is replaced in
part (R387); `w` is the window as the step's fetch reads it (R148). -/
def Sys2Proof.Parts.MatrixTileSteps : Prop :=
  ∀ (s u : State) (c : CoreId) (r : GroupRef) (w : Block) (o : MatOp) (os : List MatOp) (i j slot es : Nat) (val : Nat → Nat → Nat),
    s.matReady c = [(i, j, slot)] → s.find r = some (i, j) → s.seat r = some u → u.core = c →
    u.grp.mats = o :: os → w = u.blk.withLines o.got → u.grp.nextMat u.blk = some o → u.grp.matDefined o = true → u.stepBad o = none →
    16 * o.tile + 16 ≤ o.ncol →
    ((∃ w64, o.kind = .tzero w64 ∧ es = (if w64 then 8 else 4) ∧ val = fun _ _ => 0) ∨
     (∃ fmt ovt, o.kind = .tcvt fmt ovt ∧ fmt ≠ .f32 ∧ es = 2 ∧ val = fun m n =>
        (rndOvt ovt (tfmtOf fmt) (unpack .f32 (Memory.read w.spm (o.aoff + 4 * (m * o.ncol + 16 * o.tile + n)) 4))).1) ∨
     (∃ ovt, o.kind = .tcvt .f32 ovt ∧ es = 4 ∧ val = fun m n =>
        let x := Memory.read w.spm (o.aoff + 4 * (m * o.ncol + 16 * o.tile + n)) 4
        if (unpack .f32 x).isNan then FFmt.f32.nan else x) ∨
     (∃ fp16, o.kind = .mmf fp16 ∧ es = 4 ∧ val = fun m n =>
        (mmElem (Memory.read w.spm (o.coff + 4 * (m * o.ncol + 16 * o.tile + n)) 4)
          (fun k => unpack .bf16 (u.grp.fragA o.reg o.beat m k))
          (fun k => unpack (if fp16 then .f16 else .bf16)
            (Memory.read w.spm (o.boff + 2 * (k * o.ncol + 16 * o.tile + n)) 2))).1) ∨
     (o.kind = .mmd ∧ es = 8 ∧ val = fun m n =>
        (mmdElem (Memory.read w.spm (o.coff + 8 * (m * o.ncol + 16 * o.tile + n)) 8) (u.grp.fragD o.reg o.beat m)
          (fun k => Memory.read w.spm (o.boff + 8 * (k * o.ncol + 16 * o.tile + n)) 8)).1) ∨
     (∃ body cap mxa, o.kind = .mmq body cap mxa ∧ es = 4 ∧ val = fun m n =>
        (mmElem (Memory.read w.spm (o.coff + 4 * (m * o.ncol + 16 * o.tile + n)) 4)
          (fun k => (splitVals (splitA mxa (u.grp.subA o.reg o.beat (k / 16))) (u.grp.subA o.reg o.beat (k / 16))).getD
            (16 * m + k % 16) FVal.zero)
          (fun k => recElem (Memory.bytes w.spm (o.boff + recordSize body cap * (k / 16 * (o.ncol / 16) + o.tile))
            (recordSize body cap)) body cap ((u.startOp o).codebook.getD codebookReset) (k % 16) n)).1)) →
    ∃ t v, exec (.matrixTileStep c) s = .next t ∧ t.seat r = some v ∧
      (∀ m n k, m < 16 → n < 16 → k < es →
        (o.coff + es * (m * o.ncol + 16 * o.tile + n) + k) / 8 ∉ u.blk.badSpm →
        (∀ x ∈ u.grp.matIssues, ∀ b, x.obj = some b →
          o.coff + es * (m * o.ncol + 16 * o.tile + n) + k < b ∨ b + 64 ≤ o.coff + es * (m * o.ncol + 16 * o.tile + n) + k) →
        Memory.byte v.blk.spm (o.coff + es * (m * o.ncol + 16 * o.tile + n) + k) = BitVec.ofNat 8 (val m n / 2 ^ (8 * k))) ∧
      (∀ x, (∀ m, m < 16 → x < o.coff + es * (m * o.ncol + 16 * o.tile) ∨
          o.coff + es * (m * o.ncol + 16 * o.tile + 16) ≤ x) →
        (∀ y ∈ u.grp.matIssues, ∀ b, y.obj = some b → x < b ∨ b + 64 ≤ x) →
        Memory.byte v.blk.spm x = Memory.byte u.blk.spm x) ∧
      t.mem = s.mem ∧ RegsKept u.grp v.grp noReg noReg noReg noReg ∧
      v.grp.mats = (if o.steps ≤ o.tile + 1 then os else { u.startOp o with tile := o.tile + 1, got := [] } :: os)

/-- The tile steps of the operations without a C tile (R82, R120, R126, R332, R335, R338), of a group alone ready on its
core: `TENC` writes its record, `TDEC` its four registers in the lanes of its beat, `TUNPIN` frees its entry, `LDCBK` gives
the context the table that its page holds (stated of a launch that neither records nor replays), `TPIN` changes nothing;
and the operation leaves the queue. Stated of operations whose results are defined; a byte of a record in a word that
fails its check is left out (R387). -/
def Sys2Proof.Parts.MatrixOtherSteps : Prop :=
  ∀ (s u : State) (c : CoreId) (r : GroupRef) (w : Block) (o : MatOp) (os : List MatOp) (i j slot : Nat),
    s.matReady c = [(i, j, slot)] → s.find r = some (i, j) → s.seat r = some u → u.core = c →
    u.grp.mats = o :: os → w = u.blk.withLines o.got → u.grp.nextMat u.blk = some o → u.grp.matDefined o = true → u.stepBad o = none → o.last = false →
    ∃ t v, exec (.matrixTileStep c) s = .next t ∧ t.seat r = some v ∧ t.mem = s.mem ∧
      (∀ body cap sp tau ovt, o.kind = .tenc body cap sp tau ovt →
        let bytes := (encodeRecord body cap tau.toNat ovt (u.grp.fragT o.reg o.beat)).1
        (∀ k b, bytes[k]? = some b → (o.coff + k) / 8 ∉ u.blk.badSpm → Memory.byte v.blk.spm (o.coff + k) = b) ∧
        (∀ x, x < o.coff ∨ o.coff + bytes.length ≤ x → Memory.byte v.blk.spm x = Memory.byte u.blk.spm x) ∧
        RegsKept u.grp v.grp noReg noReg noReg noReg ∧ v.grp.mats = os) ∧
      (∀ body cap, o.kind = .tdec body cap →
        let rec_ := Memory.bytes w.spm o.boff (recordSize body cap)
        let elem := recElem rec_ body cap ((u.startOp o).codebook.getD codebookReset)
        (∀ l k, l < 96 → k < 4 → (v.grp.vreg (o.reg + k)).read l =
          if l / 32 = o.beat then
            BitVec.ofNat 32 ((rne .bf16 (elem (l % 32 / 2) (8 * (l % 2) + 2 * k))).bits +
              2 ^ 16 * (rne .bf16 (elem (l % 32 / 2) (8 * (l % 2) + 2 * k + 1))).bits)
          else (u.grp.vreg (o.reg + k)).read l) ∧
        RegsKept u.grp v.grp (fun n => o.reg ≤ n ∧ n < o.reg + 4) noReg noReg noReg ∧ v.blk.spm = u.blk.spm ∧
        v.grp.mats = os) ∧
      (o.kind = .tunpin → v.grp.pins = removePin o.boff u.grp.pins ∧ v.blk.spm = u.blk.spm ∧ v.grp.mats = os) ∧
      (o.kind = .tpin → v.grp.pins = u.grp.pins ∧ v.blk.spm = u.blk.spm ∧ v.grp.mats = os) ∧
      (∀ pas, o.kind = .ldcbk pas → (∀ y ∈ u.launches, y.ref = u.blk.ref.launch → y.mode = 0) →
        v.blk.spm = u.blk.spm ∧ v.grp.mats = os ∧ ∀ k, k < 256 → (t.ctx u.blk.ctx).book.getD k 0 =
          BitVec.ofNat 32 (leNat (((pas.flatMap (fun pa => Memory.bytes u.mem pa 128)).drop (4 * k)).take 4)))

/-- The tile steps of the engine. -/
def Obligations.MatrixSteps : Prop := Parts.MatrixTileSteps ∧ Parts.MatrixOtherSteps

/-! ### Class 0xC: the fabric -/

/-- Remote loads, stores and atomics, remote copies and messages issue (R193, R194, R197, R339 to R343): with every lane's
address aligned and its peer's number in range and reachable, the operation joins the group's operations of path F, and
its requests stand in the device's queue of requests with the job, and the key and class of the context when tenant
isolation is on; the group counts its requests (event 0x0F) and a remote atomic (0x0A, R229); nothing else changes. -/
def Obligations.FabricIssues : Prop :=
  ∀ (s : State) (h : Hdr) (stat spad : Bool) (sz : Size) (xz : XSize) (ty : ATy) (op : AOp) (d a b c : Opnd) (ps : PField)
    (i : Instr) (kind : FabKind) (dst : Option Dest) (obj : Option Nat) (src : List Loc) (reqs : List FReq),
    Seated s → s.xs h ≠ [] → s.grp.pathHeld .f = false → s.grp.fabHeld = false → s.grp.counter .f < 63 →
    s.replaying = false → (∀ o ∈ s.grp.fabs, o.seq ≠ s.grp.issues) → (∀ l ∈ s.xs h, (s.grp.read b l).toNat < 1024 ∧
      s.unreachable s.blk.job (s.grp.read b l).toNat = none) →
    let g := s.grp
    let xs (o : Opnd) : List RLane := (s.xs h).map (fun l => ⟨l, (g.read b l).toNat, g.read64 o l⟩)
    let ctl := g.read d 0
    let n := ctl.toNat / 256 % 32
    ((i = .rld h stat sz d a b ps ∧ (∀ l ∈ s.xs h, (g.read64 a l).toNat % sz.bytes = 0) ∧ kind = .rld sz ∧
        dst = some (destOf false d sz) ∧ obj = none ∧ src = [] ∧
        reqs = (coalesce (xs a)).map (readReq sz.bytes)) ∨
     (i = .rst h stat sz d a b ps ∧ s.blk.restartable = false ∧ (∀ l ∈ s.xs h, (g.read64 a l).toNat % sz.bytes = 0) ∧
        kind = .rst ∧ dst = none ∧ obj = none ∧ src = [] ∧
        reqs = (coalesce (xs a)).map (writeReq sz.bytes (g.data d sz.regs))) ∨
     (i = .ratom h stat ty op d a b c ps ∧ s.blk.restartable = false ∧
        (∀ l ∈ s.xs h, (g.read64 a l).toNat % ty.bytes = 0) ∧ kind = .ratom ty ∧
        dst = (if d = .zero then none
          else some ⟨false, regNum d, ty.bytes / 4, if ty.bytes = 8 then .b64 else .b32⟩) ∧ obj = none ∧ src = [] ∧
        reqs = (byPeer (xs a)).map (fun x =>
          { peer := x.peer, lanes := [(x.lane, 0)], ready := true, addr := x.va,
            body := .atomic op ty x.va (BitVec.ofNat 64 (g.data c (ty.bytes / 4) x.lane))
              (if op = .cas then BitVec.ofNat 64 (g.data (Opnd.plus c (ty.bytes / 4)) (ty.bytes / 4) x.lane) else 0)
              (d != .zero) })) ∨
     (i = .rcpy h stat spad xz d a b c ps ∧ s.blk.restartable = false ∧ s.objAt c = .ok obj ∧
        (∃ locs, checkLanes (fun l => s.sideAt spad false xz.bytes xz.bytes (g.addr spad a l)) (s.xs h) = .ok locs ∧
          src = locs.flatMap (fun x => x.range xz.bytes)) ∧
        (∀ l ∈ s.xs h, (g.read64 d l).toNat % xz.bytes = 0) ∧ kind = .rcpy ∧ dst = none ∧
        reqs = (byPeer (xs d)).map (fun x =>
          { peer := x.peer, lanes := [(x.lane, 0)], ready := false, addr := x.va,
            body := .write ((List.range xz.bytes).map (fun k => (x.va + BitVec.ofNat 64 k, 0))) })) ∨
     (i = .msend h stat spad d a b c ps ∧ s.blk.restartable = false ∧ ctl &&& ~~~(0x1F3F#32) = 0 ∧ 1 ≤ n ∧
        (spad = true → n ≤ 30 ∧ ∀ l ∈ s.xs h, (g.read a l).toNat % 4 = 0 ∧ (g.read a l).toNat + 4 * n ≤ s.blk.spad) ∧
        (spad = false → n ≤ 8 ∧ regNum a + n ≤ 128) ∧ kind = .msend ∧ dst = none ∧ obj = none ∧
        src = (if spad then (s.xs h).flatMap (fun l => (Loc.spad (g.read a l).toNat).range (4 * n)) else []) ∧
        reqs = (byPeer ((s.xs h).map (fun l => ⟨l, (g.read b l).toNat, 0⟩))).map (fun x =>
          { peer := x.peer, lanes := [(x.lane, 0)], ready := !spad, addr := 0,
            body := .message (ctl.toNat % 64) (g.read c x.lane)
              (if spad then [] else (List.range n).map (fun k => g.readN a k x.lane)) }))) →
    ∃ t u v, exec i s = .next t ∧
      v = (match kind with
        | .ratom _ => s.count 0x0A 1
        | _ => s) ∧
      u = { v.count 0x0F reqs.length with reqs := s.reqs ++ reqs.map (fun r =>
        { pkt := ⟨s.rank, r.peer, 0, s.blk.job, if s.isolated then s.ctxKey s.blk.ctx else 0,
            if s.isolated then s.ctxClass s.blk.ctx else 0, 0, r.body⟩,
          owner := s.ref, op := g.issues, lanes := r.lanes, ready := r.ready, left := false, sentAt := 0, flits := 0 }) } ∧
      IssueFrom u t h { u.grp with fabs := g.fabs ++
        [{ seq := g.issues, kind := kind, open_ := s.xs h, lanes := s.xs h, got := [], fails := [], dst := dst,
           ps := if stat then some ps else none, stat := stat, obj := obj, src := .of src, done := false,
           org := ⟨s.cur.pc, s.cur.quads⟩ }] }

/-- `QSTAT`, `RFENCE`, `MDONE`, `QUIET` and `COLL` (R187, R188, R206, R209, R211, R344 to R348), of a launch that neither records nor
replays: `QSTAT` will give its count as it stands; `RFENCE` goes on when every earlier request is acknowledged, and waits before;
`MDONE` of the handler group raises HEAD, at the home that its check found, and C(j) by one, at the DFI of the port the message
came through (R13), when a message is there that no earlier one finishes, earlier loads have returned and earlier requests
have left (the DFI of a message that no request brought is log entry 46, the model's choice); `QUIET` waits at a swap point, with its wave noted once earlier requests have
left (R188), and goes on, its caches flushed, once it is settled; the first `COLL` of a round opens it with its group's contribution,
and with the overflow table as it stands then (log entry 63, the model's reading of R215). -/
def Obligations.FabricWaits : Prop :=
  ∀ (s : State) (h : Hdr) (d a b c e : Opnd) (n : BitVec 6) (sel : QSel) (op : CollOp), Seated s → s.xs h ≠ [] →
    s.grp.pathHeld .f = false → s.grp.counter .f < 63 →
    (∀ y ∈ s.launches, y.ref = s.blk.ref.launch → y.mode = 0) →
    let g := s.grp
    let new (kind : FabKind) (dst : Option Dest) (done : Bool) : FabOp :=
      ⟨g.issues, kind, [], [], [], [], dst, none, false, none, .of [], done, ⟨s.cur.pc, s.cur.quads⟩⟩
    let j := s.job s.blk.job
    let returned (fs : List FabOp) : Group :=
      { g with copies := g.copies.dropWhile (fun x => x.landed),
               matIssues := g.matIssues.dropWhile (fun x => x.done), fabs := retireFabs fs }
    (∃ t, exec (.qstat h sel (.s n)) s = .next t ∧
      IssueFrom s t h { g with fabs := g.fabs ++ [new (.qstat (BitVec.ofNat 64 (match sel with
        | .inj => j.i
        | .cons => j.c
        | .lost => j.l
        | .wave => j.wave))) (some ⟨true, n.toNat, 2, .b64⟩) false] }) ∧
    (g.acked g.issues = true → ∃ t, exec (.rfence h) s = .next t ∧
      IssueFrom s t h (returned (g.fabs ++ [new .rfence none true]))) ∧
    (g.acked g.issues = false → ∃ t, exec (.rfence h) s = .next t ∧ WaitsAt s t .rfence) ∧
    (∀ x pa ct pb cb, s.blk.handg = some g.num → s.blk.inbox = some x →
      s.transl s.core s.blk.ctx .write 8 (x.desc + 0x18) = .ok (pa, ct) →
      s.transl s.core s.blk.ctx .read 8 (x.desc + 0x10) = .ok (pb, cb) → s.badAt pa 8 = false → s.badAt pb 8 = false →
      g.loadsDone g.issues = true →
      let head := s.phys pa 8
      (g.fabs.filter (fun o => match o.kind with
        | .mdone _ false true _ => true
        | _ => false)).length < (s.phys pb 8 + 2 ^ 64 - head) % 2 ^ 64 →
      s.sentBefore g.issues = true → (∀ o ∈ g.fabs, o.seq ≠ g.issues) →
      ∃ t u v, exec (.mdone h) s = .next t ∧
        v = ((((s.asksHost pb 8).asksHost pa 8).asksHost pa 8).storeCells
          (cellsFrom pa (leBytes ((head + 1) % 2 ^ 64) 8))).count 0x11 1 ∧
        u = State.consume { v with msgs := s.msgs.filter (fun m => !s.isMsg head m) } s.blk.job (s.msgPort head) ∧
        (∀ i, i < 8 → Memory.byte t.mem (pa + i) = BitVec.ofNat 8 ((head + 1) / 2 ^ (8 * i))) ∧ (Tbl.wf 0 j.cons = true → (u.job s.blk.job).c = j.c + 1) ∧
        OnlyGroup u t ∧ MemoryKept u t ∧ Issued u t h (fun _ pc => pcNext pc) ∧
        t.grp.fabs = retireFabs (g.fabs ++ [new (.mdone pa true true (s.msgPort head)) none true]) ∧
        RegsKept g t.grp noReg noReg noReg noReg) ∧
    (g.hmaskr.getLsbD 1 = false →
      (∀ o ∈ g.fabs, ∀ w x, o.kind = .quiet w x → o.done = true) → j.down = none →
      (s.sentBefore g.issues = false → ∃ t, exec (.quiet h) s = .next t ∧ WaitsAt s t .quiet ∧ t.grp.fabs = g.fabs) ∧
      (s.sentBefore g.issues = true → ∃ t, exec (.quiet h) s = .next t ∧ WaitsAt s t .quiet ∧
        t.grp.fabs = g.fabs ++ [{ new (.quiet j.arrived false) none false with seq := 2 ^ 48 + g.issues }])) ∧
    (∀ o w, g.hmaskr.getLsbD 1 = false →
      g.fabs.find? (fun o => match o.kind with
        | .quiet _ _ => !o.done
        | _ => false) = some o → o.kind = .quiet w true →
      ∃ t u, exec (.quiet h) s = .next t ∧ u = s.writesBack ⟨s.cur.pc, s.cur.quads⟩ (fun s => s.flushAll s.core) ∧
        SwapFrom u t h { returned (g.fabs.map (fun x => if x.seq = o.seq then { x with done := true } else x)) with
          asyncs := u.grp.asyncs } ∧
        ∀ y ∈ t.l1, y.core ≠ s.core) ∧
    (∀ bytes o, s.blk.restartable = false → g.hmaskr.getLsbD 1 = false → g.fabHeld = false → s.blk.colls = [] →
      (∃ x ∈ s.blk.groups, x.num ≠ g.num) → s.collCheck op a e c (s.collArgs op d b c e) = .ok bytes →
      o = new (.coll (g.read64 b 0)) none false →
      let rc := (g.readN e 0 0).toNat % 16
      let w := CollOp.regs op
      ∃ t r, exec (.coll h op d a b c e) s = .next t ∧
        IssueFrom ((s.asksCtx s.blk.ctx (g.read64 b 0) 128).modBlk (fun x => { x with colls := [r] })) t h
          { g with fabs := g.fabs ++ [o] } ∧
        r.op = op ∧ r.rc = rc ∧ r.ovt = (s.ctx s.blk.ctx).ovt ∧ r.dst = (g.read d 0).toNat ∧ r.obj = (g.read c 0).toNat ∧ r.desc = g.read64 b 0 ∧
        r.issued = [g.num] ∧ r.round = leNat ((bytes.drop 0x38).take 8) ∧ r.nmem = leNat (bytes.take 2) ∧
        r.pos = leNat ((bytes.drop 2).take 2) ∧
        (∀ l ∈ s.xs h, ∀ k, k < rc / w → Tbl.get [] r.contrib ((g.num * 96 + l) * (rc / w) + k) =
          (List.range w).map (fun i => g.readN a (w * k + i) l)))

/-! ### Class 0xD: control registers and the system -/

/-- Reading a control register (R6, R98 to R104, R224, R349, R403): every listed number gives its register's value, reserved bits
zero, those from 0x800 on in a privileged context; TIME gives its low half and captures the whole count (RANK and TIME are
stated of a launch that neither records nor replays); an unlisted number is an operand fault, and a privileged one in an unprivileged context a
protection fault with reason 4. -/
def Sys2Proof.Parts.RegisterReads : Prop :=
  ∀ (s : State) (h : Hdr) (n : BitVec 6) (k : BitVec 12) (v : Word), Seated s → s.xs h ≠ [] →
    let g := s.grp
    let x := s.blk.ctx
    let nat (m : Nat) : Word := BitVec.ofNat 32 m
    let priv := s.ctxPriv x
    (((k = 0x000 ∧ v = g.gmr) ∨ (k = 0x001 ∧ v = g.mxa &&& 0xFFFF0333) ∨ (k = 0x002 ∧ v = g.hvec &&& 0xFFFFFFC7) ∨
      (k = 0x003 ∧ v = g.hmaskr &&& 3) ∨ (k = 0x008 ∧ v = g.trec0 &&& 0xFFFF07FF) ∨ (k = 0x009 ∧ v = g.trec1 &&& 0x03FFFFFF) ∨ (k = 0x00A ∧ v = g.trec2) ∨ (k = 0x00B ∧ v = g.trec3) ∨
      (k = 0x010 ∧ v = nat g.num) ∨ (k = 0x011 ∧ v = nat s.blk.ref.block) ∨ (k = 0x012 ∧ v = nat s.blk.die) ∨
      (k = 0x013 ∧ v = launchId s.blk.ref.launch) ∨ (k = 0x014 ∧ v = nat s.blk.core) ∨ (k = 0x015 ∧ v = nat s.blk.die) ∨
      (k = 0x016 ∧ (∀ y ∈ s.launches, y.ref = s.blk.ref.launch → y.mode = 0) ∧ v = nat s.mgmt.rank) ∨ (k = 0x017 ∧ v = nat s.blk.job) ∨
      (k = 0x021 ∧ v = g.timeCap.extractLsb' 32 32) ∨
      (∃ m, m < 8 ∧ k.toNat = 0x30 + m ∧ v = Tbl.get 0 g.ecnt m) ∨
      (∃ m, m < 8 ∧ k.toNat = 0x38 + m ∧ v = Tbl.get 0 g.ecsel m &&& 0xFF) ∨
      (priv = true ∧
        ((k = 0x800 ∧ v = (s.ctx x).ovt) ∨ (k = 0x801 ∧ v = nat (s.ctxTenant x + 2 ^ 16 * s.ctxClass x)) ∨
         (k = 0x802 ∧ v = s.mgmt.keytab.extractLsb' 0 32) ∨ (k = 0x803 ∧ v = s.mgmt.keytab.extractLsb' 32 32) ∨
         (k = 0x804 ∧ v = (s.ctxBase x).extractLsb' 0 32) ∨ (k = 0x805 ∧ v = (s.ctxBase x).extractLsb' 32 32) ∨
         (k = 0x806 ∧ v = (s.recBase x).extractLsb' 0 32) ∨ (k = 0x807 ∧ v = (s.recBase x).extractLsb' 32 32) ∨
         (k = 0x808 ∧ v = (s.faultQ x).extractLsb' 0 32) ∨ (k = 0x809 ∧ v = (s.faultQ x).extractLsb' 32 32)))) →
      ∃ t, exec (.csrr h (.s n) k) s = .next t ∧ t.grp.sreg n.toNat = v ∧ LatchesKept g t.grp ∧
        RegisterFrame s t h false noReg noReg (sRegs (.s n) 1) noReg) ∧
    ((∀ y ∈ s.launches, y.ref = s.blk.ref.launch → y.mode = 0) →
      ∃ t, exec (.csrr h (.s n) 0x020) s = .next t ∧ t.grp.sreg n.toNat = nat s.time ∧
        t.grp.timeCap = BitVec.ofNat 64 s.time ∧ OnlyGroup s t ∧ MemoryKept s t ∧
        Issued s t h (fun _ pc => pcNext pc) ∧ RegsKept g t.grp noReg noReg (sRegs (.s n) 1) noReg ∧
        LatchesKept g t.grp ∧ SpecialKept { g with timeCap := t.grp.timeCap } t.grp) ∧
    (0x800 ≤ k.toNat → priv = false →
      exec (.csrr h (.s n) k) s = .next (s.trap { code := 0x11, info0 := 4, beat := s.beats.headD 0 })) ∧
    (k.toNat < 0x800 → csrListed k.toNat = false →
      exec (.csrr h (.s n) k) s = .next (s.trap { code := 0x03, hi := 6, beat := (s.xs h).headD 0 / 32 }))

/-- Writing a control register (R98 to R104, R229, R350, R378, R403): the writable bits of a register of access RW take the
source, the source's bits set, or the source's bits clear, where that leaves legal codes in MXA and HVEC; D takes the old
value; of the listed registers only this one differs from what the end of the issue leaves, so that a counter which is
written counts on from the value written (R104). -/
def Sys2Proof.Parts.RegisterWrites : Prop :=
  ∀ (s : State) (h : Hdr) (d a : Opnd) (k : BitVec 12) (i : Instr) (f : Word → Word), Seated s → s.xs h ≠ [] →
    (d = .zero ∨ ∃ n, d = .s n) →
    ((i = .csrw h d a k ∧ f = fun _ => s.grp.read a 0) ∨ (i = .csrs h d a k ∧ f = fun old => old ||| s.grp.read a 0) ∨
     (i = .csrc h d a k ∧ f = fun old => old &&& ~~~(s.grp.read a 0))) →
    (k.toNat < 4 ∨ (8 ≤ k.toNat ∧ k.toNat < 12) ∨ (0x30 ≤ k.toNat ∧ k.toNat < 0x40)) →
    let old := s.csrRead k.toNat
    let mask : Word :=
      if k = 0x001 then 0xFFFF0333
      else if k = 0x002 then 0xFFFFFFC7
      else if k = 0x003 then 1
      else if k = 0x008 then 0x400
      else if k = 0x009 then 0
      else if k = 0x00A ∨ k = 0x00B then (if s.ctxPriv s.blk.ctx then 0xFFFFFFFF else 0)
      else if 0x38 ≤ k.toNat then 0xFF
      else 0xFFFFFFFF
    let new := (old &&& ~~~mask) ||| (f old &&& mask)
    (k = 0x001 → new.toNat % 4 < 2) → (k = 0x002 → new.toNat % 8 < 5) →
    ∃ t u, exec i s = .next t ∧
      OnlyGroup s u ∧ MemoryKept s u ∧ Issued s u h (fun _ pc => pcNext pc) ∧ SpecialKept s.grp u.grp ∧
      t = u.setGrp t.grp ∧ t.csrRead k.toNat = new ∧
      (∀ m, csrListed m = true → m ≠ k.toNat → t.csrRead m = u.csrRead m) ∧
      t.grp = { u.grp with
        gmr := t.grp.gmr, mxa := t.grp.mxa, hvec := t.grp.hvec, hmaskr := t.grp.hmaskr, trec0 := t.grp.trec0
        trec1 := t.grp.trec1, trec2 := t.grp.trec2, trec3 := t.grp.trec3, ecnt := t.grp.ecnt, ecsel := t.grp.ecsel } ∧
      (∀ n, d = .s n → t.grp.sreg n.toNat = old) ∧
      RegsKept s.grp t.grp noReg noReg (sRegs d 1) noReg ∧ LatchesKept s.grp t.grp

/-- Control registers, read and written. -/
def Obligations.ControlRegisters : Prop := Parts.RegisterReads ∧ Parts.RegisterWrites

/-- `LAUNCH` and the privileged instructions (R56 to R58, R225, R351, R353, R354, R356): in its mode and with its
conditions met each has its effect: a queue with a place takes the packet under the next sequence number, which D
receives, after the core's L1 went home; `LDOVT` sets the context's overflow table; `TLBINV` drops the translations it
covers, makes the `WAITM`s of those contexts translate again, and goes on when no access that used one of them is in
flight (for `.va`, an access to a page of a translation dropped, or of a walk now); `HALT` of a context
with nothing resident ends at once with its hold set, when no other request stands before it. -/
def Obligations.SystemIssues : Prop :=
  ∀ (s : State) (h : Hdr) (n : BitVec 6) (a b : Opnd) (hold : Bool) (sc : TlbScope), Seated s → s.xs h ≠ [] →
    let g := s.grp
    let x := s.blk.ctx
    let home : State := s.writesBack ⟨s.cur.pc, s.cur.quads⟩ (fun s => s.writeBackAll s.core)
    (∀ pa ct q, q = (g.read b 0).toNat → q ≤ 63 → (s.queue q).ctl.getLsbD 3 = true → (s.queue q).grant.getLsbD x = true →
      s.transl s.core x .read 64 (g.read64 a 0) = .ok (pa, ct) → (s.launchesOf q).length < 256 →
      g.releaseMoves false = true → g.redsDone g.issues = true → g.spadHeld false = false → g.wait ≠ .release true false →
      home.badAt pa 64 = false →
      ∃ t l, exec (.launch h (.s n) a b) s = .next t ∧ t.grp.sreg n.toNat = (s.queue q).nextSeq ∧
        t.launches = home.launches ++ [l] ∧ l.ref = ⟨q, (s.queue q).nextSeq.toNat⟩ ∧ l.ctx = x ∧
        l.packet = Memory.bytes home.mem pa 64 ∧ l.addr = g.read64 a 0 ∧
        (s.ctxPriv x = false → l.tenant = s.blk.tenant ∧ l.job = s.blk.job) ∧
        (s.ctxPriv x = true → l.tenant = leNat ((l.packet.drop 0x1E).take 2) ∧
          l.job = leNat ((l.packet.drop 0x1C).take 1)) ∧
        (t.queue q).nextSeq = (s.queue q).nextSeq + 1 ∧ (∀ p, p ≠ q → t.queue p = s.queue p) ∧
        MemoryKept home t ∧ Issued s t h (fun _ pc => pcNext pc) ∧
        RegsKept g t.grp noReg noReg (sRegs (.s n) 1) noReg ∧ LatchesKept g t.grp ∧ SpecialKept home.grp t.grp) ∧
    (s.ctxPriv x = true →
      (let w := g.read a 0
       w.toNat < 64 → (∀ k, k < 3 → w.toNat / 4 ^ k % 4 ≠ 3) →
       ∃ t u, exec (.ldovt h a) s = .next t ∧ u = s.setCtx x { s.ctx x with ovt := w } ∧ (t.ctx x).ovt = w ∧
         IssueFrom u t h g) ∧
      (let c := (g.read b 0).toNat
       let keeps (e : TlbEntry) : Prop := match sc with
         | .va => ¬ (e.ctx = c ∧ (g.read64 a 0).toNat / e.leaf.size * e.leaf.size = e.vbase)
         | .ctx => e.ctx ≠ c
         | .all => False
       (sc = .all ∨ c ≤ 255) →
       let pages := if sc = .va then s.invPages c (g.read64 a 0) else []
       (∀ y ∈ s.blocks, (sc = .all ∨ y.ctx = c) →
         y.groups.any (fun z => z.accessing (invCovers sc pages)) = false) →
       ∃ t u, exec (.tlbinv h sc a b) s = .next t ∧
         u = { s with tlb := t.tlb, blocks := s.blocks.map (fun y =>
           if sc = .all ∨ y.ctx = c then { y with groups := y.groups.map Group.retranslate } else y) } ∧
         IssueFrom u t h { g with wait := .ready } ∧
         ∀ e, e ∈ t.tlb ↔ e ∈ s.tlb ∧ keeps e) ∧
      (let c := (g.read a 0).toNat
       c ≤ 255 → c ≠ x → (∀ y, g.wait ≠ .halt y) → s.mgmt.requests = [] → (∀ y ∈ s.blocks, y.ctx ≠ c) →
       ∃ t u, exec (.halt h hold a) s = .next t ∧ (t.ctx c).hold = hold ∧ u = s.setCtx c { s.ctx c with hold := hold } ∧
         IssueFrom { u with mgmt := { s.mgmt with tickets := s.mgmt.tickets + 1 } } t h g)) ∧
    (s.ctxPriv x = false → ∀ i, (i = .ldovt h a ∨ i = .tlbinv h sc a b ∨ i = .eret h ∨ i = .halt h hold a) →
      exec i s = .next (s.trap { code := 0x11, info0 := 4, beat := s.beats.headD 0 }))

/-- Launch numbers (R56): `LAUNCH` gives the launch the queue's NEXTSEQ, which rises by 1 modulo 2^32; LAUNCHID of a group reads
as zero in bits 31 and 30, the queue's number in bits 29 to 24 and the low 24 bits of the sequence number below. -/
def Obligations.LaunchNumbers : Prop :=
  ∀ (s : State) (h : Hdr) (n : BitVec 6) (a b : Opnd), Seated s → s.xs h ≠ [] →
    let home : State := s.writesBack ⟨s.cur.pc, s.cur.quads⟩ (fun s => s.writeBackAll s.core)
    (∀ pa ct q, q = (s.grp.read b 0).toNat → q ≤ 63 → (s.queue q).ctl.getLsbD 3 = true →
      (s.queue q).grant.getLsbD s.blk.ctx = true → s.transl s.core s.blk.ctx .read 64 (s.grp.read64 a 0) = .ok (pa, ct) →
      (s.launchesOf q).length < 256 → s.grp.releaseMoves false = true → s.grp.redsDone s.grp.issues = true →
      s.grp.spadHeld false = false → s.grp.wait ≠ .release true false → home.badAt pa 64 = false →
      ∃ t l, exec (.launch h (.s n) a b) s = .next t ∧ t.launches = home.launches ++ [l] ∧
        l.ref.queue = q ∧ l.ref.seq = (s.queue q).nextSeq.toNat ∧
        (t.queue q).nextSeq.toNat = ((s.queue q).nextSeq.toNat + 1) % 2 ^ 32) ∧
    ∃ t v, exec (.csrr h (.s n) 0x013) s = .next t ∧ v = t.grp.sreg n.toNat ∧ v.extractLsb' 30 2 = 0 ∧
      v.extractLsb' 24 6 = BitVec.ofNat 6 s.blk.ref.launch.queue ∧ v.extractLsb' 0 24 = BitVec.ofNat 24 s.blk.ref.launch.seq

/-- Words that are no instruction (R234, R393 to R395): a slot that is not valid runs as `NOP`; a word that does not decode
takes ILLEGAL_INSTRUCTION, RESERVED_FIELD or ILLEGAL_OPERAND with what it found; and such a word issues as itself. -/
def Obligations.IllegalWords : Prop :=
  (∀ s : State, Seated s → ∃ t, exec .invalidSlotIssue s = .next t ∧ IssueFrom s t ⟨⟨false, 7⟩, ⟨false, 7⟩, 0, false⟩ s.grp) ∧
  (∀ (s : State) (w : BitVec 96) (e : Illegal), decode w = .error e →
    decodeIssue w = .illegalInstructionIssue w ∧
    exec (.illegalInstructionIssue w) s = .next (s.trap (match e with
      | .opc => { code := 0x01, hi := 0, beat := s.beats.headD 0 }
      | .var => { code := 0x01, hi := 1, beat := s.beats.headD 0 }
      | .reserved n => { code := 0x02, hi := n, beat := s.beats.headD 0 }
      | .operand n => { code := 0x03, hi := n, beat := s.beats.headD 0 })))

/-! ### Events of memory, caches and waits -/

/-- Translations and lines of caches (R143, R149, R150, R173): a completed walk's leaf governs its address on that core
and changes no other core's translations; a failed one caches nothing (and either asks the host for what it reads in host
memory, R217); a line that the hints let its set evict (R152)
leaves its dirty bytes at home and is gone from L1, and one of a home slice leaves its contents at the home; any other
line stays. Which lines share a set is log entry 56, and what brings a line into a cache log entry 40: the model's
choices. -/
def Sys2Proof.Parts.CacheEvents : Prop :=
  ∀ (s : State) (c : CoreId) (ctx line : Nat) (va : Dword),
    (∀ l, signOk va = true → s.walk ctx va = .ok l → ∃ t, exec (.pageWalkComplete c ctx va) s = .next t ∧
      t = { s with tlb := t.tlb, out := t.out } ∧ t.leaf c ctx va = .ok l ∧ ∀ c' x v, c' ≠ c → t.leaf c' x v = s.leaf c' x v) ∧
    (∀ e, s.walk ctx va = .error e → ∃ t, exec (.pageWalkComplete c ctx va) s = .next t ∧ t = { s with out := t.out }) ∧
    ((∀ y, s.l1Find c line = some y → s.l1Evictable y = false) → exec (.l1Eviction c line) s = .next s) ∧
    ((∀ y, s.l1Find c line = some y → s.l1Evictable y = true) → s.badMem = [] →
      ∃ t, exec (.l1Eviction c line) s = .next t ∧ t.l1Find c line = none ∧
      (∀ x, Memory.byte t.mem x = if x / 128 = line then newest s c x else Memory.byte s.mem x) ∧
      (∀ c' k, c' ≠ c ∨ k ≠ line → t.l1Find c' k = s.l1Find c' k) ∧ t.blocks = s.blocks) ∧
    (∀ y, s.l2.find? (fun x => x.line == line) = some y →
      (s.l2Evictable y = false → exec (.l2Eviction line) s = .next s) ∧
      (s.l2Evictable y = true → ∃ t, exec (.l2Eviction line) s = .next t ∧ t = { s with l2 := t.l2 } ∧
        ∀ x, x ∈ t.l2 ↔ x ∈ s.l2 ∧ x.line ≠ line))

/-- Uncorrectable errors without a consumer (R383, R385, R387): the noted failure is taken from the list; where a context
last wrote the line, that context is halted, its blocks are asked to halt and held, and its saved blocks are held;
where none did, the telemetry counts it (log entry 58, the model's reading of R387), and nothing else changes. -/
def Sys2Proof.Parts.EccEvents : Prop :=
  ∀ (s : State) (a : Nat), a ∈ s.eccFail →
    ∃ t, exec (.eccAsyncFailure a) s = .next t ∧ (∀ x, x ∈ t.eccFail ↔ x ∈ s.eccFail ∧ x ≠ a) ∧
      ((∀ x ∈ s.l2, x.line = a / 128 → x.ctx = none) → t = ({ s with eccFail := t.eccFail } : State).countCorrected 5) ∧
      (∀ x k, s.l2.find? (fun x => x.line == a / 128) = some x → x.ctx = some k →
        (t.ctx k).halted = true ∧ t.blocks.length = s.blocks.length ∧
        (∀ b ∈ t.blocks, b.ctx = k → b.held = true ∧ b.halting.isSome = true) ∧
        (∀ y ∈ t.saved, y.blk.ctx = k → y.blk.held = true))

/-- Waits on pending counts (R148, R433): a line that has become full frees the groups that waited for it and for no
other empty line; a group that has waited longer than FETO at its instruction takes FE_TIMEOUT with reason 1 and the
line's offset. Stated of groups whose engines hold no source. -/
def Sys2Proof.Parts.CountWaits : Prop :=
  (∀ (s u : State) (b : BlockRef) (line : Nat), s.seatBlk b = some u →
    (u.blk.feCount line ≠ 0 → exec (.feReaderRelease b line) s = .next s) ∧
    (u.blk.feCount line = 0 → (∀ g ∈ u.blk.groups, g.copies = [] ∧ g.fabs = []) →
      ∃ v, exec (.feReaderRelease b line) s = .next { v with cur := s.cur } ∧ v = u.setBlk v.blk ∧
        v.blk = { u.blk with groups := v.blk.groups } ∧ v.blk.groups.length = u.blk.groups.length ∧
        ∀ (i : Nat) (g : Group), u.blk.groups[i]? = some g → ∃ g' : Group, v.blk.groups[i]? = some g' ∧
          (∀ ls, g.wait = .lineEmpty ls → line ∈ ls → (∀ k ∈ ls, u.blk.feCount k = 0) → g' = { g with wait := .ready }) ∧
          (∀ ls, g.wait = .lineEmpty ls → (line ∉ ls ∨ ∃ k ∈ ls, u.blk.feCount k ≠ 0) → g' = g) ∧
          ((∀ ls, g.wait ≠ .lineEmpty ls) → g' = g))) ∧
  (∀ (s : State) (r : GroupRef), AtGroup s r (.feTimeout r) (fun u v =>
    ∀ l ls, u.grp.wait = .lineEmpty (l :: ls) → u.blk.feCount l ≠ 0 → u.grp.copies = [] → u.grp.fabs = [] →
      (s.mgmt.feto ≠ 0 → 1000 * s.mgmt.feto < s.time - u.grp.waitSince → ∀ w, u.seatSet = some w →
        v = w.trap { code := 0x14, hi := 1, info0 := 128 * l, beat := w.waitBeat l }) ∧
      ((s.mgmt.feto = 0 ∨ s.time - u.grp.waitSince ≤ 1000 * s.mgmt.feto) → v = u)))

/-- What reaches a group at a boundary (R47, R376, R378, R380): an asynchronous fault that no handler takes is reported with
IMPREC, VALID, its code, PC and quads, and its block is held; a waiting message enters the handler, the frame saved,
every lane active, helper mode off, VALID clear and INH set, and no other register changes. -/
def Sys2Proof.Parts.Boundaries : Prop :=
  ∀ (s : State) (r : GroupRef),
    AtGroup s r (.asyncFaultDelivery r) (fun u v => ∀ f fs, u.grp.asyncs = f :: fs → u.grp.latchOnly = 0 →
      u.blk.halted = false → u.grp.active.isSome = true →
      (userCode f.code (u.ctxPriv u.blk.ctx) = false ∨ u.grp.hvec = 0 ∨ u.grp.hmaskr.getLsbD 1 = true) →
      v.grp.asyncs = fs ∧ v.grp.trec0.extractLsb' 0 8 = f.code ∧ v.grp.trec0.getLsbD 8 = true ∧
        v.grp.trec0.getLsbD 9 = true ∧ v.grp.trec3 ++ v.grp.trec2 = f.org.pc ∧
        v.grp.trec1.extractLsb' 0 24 = f.org.quads ∧ v.blk.held = true ∧ v.blk.halting.isSome = true ∧
        v.grp.quads = u.grp.quads ∧ RegsKept u.grp v.grp noReg noReg noReg noReg) ∧
    AtGroup s r (.handlerEntry r) (fun u v => u.handlerDue u.blk u.grp = true → u.grp.active.isSome = true →
      u.mayIssue = true → u.checkTarget true u.handlerPc = none →
      (∀ x, u.launch? u.blk.ref.launch = some x → x.mode = 0) →
      v.grp.frame = some u.grp.frameOf ∧ (∀ p ∈ v.grp.quads, p.pc = u.handlerPc ∧ p.exited = false ∧ p.wait = .run) ∧
        v.grp.quads.length = u.grp.quads.length ∧ v.grp.sreg 61 = 0xFFFFFFFF ∧ v.grp.sreg 62 = 0xFFFFFFFF ∧
        v.grp.sreg 63 = 0xFFFFFFFF ∧ v.grp.helper = false ∧ v.grp.hmaskr = u.grp.hmaskr ||| 2 ∧
        v.grp.trec0 = u.grp.trec0 &&& ~~~(0x100#32) ∧ RegsKept u.grp v.grp noReg noReg (fun n => 61 ≤ n ∧ n ≤ 63) noReg ∧
        LatchesKept u.grp v.grp ∧ OnlyGroup u.asksEntry v ∧ MemoryKept u v)

/-- Events of caches, of errors and of waits. -/
def Obligations.MemoryEvents : Prop := Parts.CacheEvents ∧ Parts.EccEvents ∧ Parts.CountWaits ∧ Parts.Boundaries

/-! ### From a launch to its completion -/

/-- A launch becomes eligible and is checked (R55, R61, R404, R405): before its dependences are met nothing happens; one that
passes its checks takes its header and its map, and the time from which its blocks wait (log entry 60, the model's
choice); one that fails takes the code of its fault as its status and stops. What the checks read of the host's memory
is asked of the host (R217). Stated of launches that are no gang's and neither record nor replay. -/
def Sys2Proof.Parts.Eligibility : Prop :=
  ∀ (s : State) (r : LaunchRef) (l : Launch), s.launch? r = some l → l.eligible = false →
    (((∃ i, i < 4 ∧ s.depOk (l.field (0x28 + 4 * i) 4) = false) ∨ s.predAllows l = false) →
      exec (.launchEligible r) s = .next s) ∧
    ((∀ i, i < 4 → s.depOk (l.field (0x28 + 4 * i) 4) = true) → s.predAllows l = true → l.isGang = false → l.mode = 0 →
      (∀ h m, s.checkLaunch l = .ok (h, m) → ∃ t, exec (.launchEligible r) s = .next t ∧ t = { s with launches := t.launches, out := t.out } ∧
        t.launch? r = some { l with eligible := true, header := some h, map := m, members := [], waitSince := s.time } ∧
        ∀ x, x ≠ r → t.launch? x = s.launch? x) ∧
      (∀ e, s.checkLaunch l = .error e → ∃ t, exec (.launchEligible r) s = .next t ∧ t.blocks = s.blocks ∧
        t.launch? r = some { l with stopped := true, eligible := true, status := l.status <|> some e.code.toNat }))

/-- A die's dispatcher places the one block that it can (R32, R67, R68, R186): a block of the launch's groups at their
entry, with the header's GMR, the packet's address in s0 and s1 and every lane active, on its core, whose L1 is empty
then. Stated where one launch alone is live and one block of it waits, on a core in use (R461). -/
def Sys2Proof.Parts.Dispatch : Prop :=
  ∀ (s : State) (l : Launch) (n die c : Nat), s.launches = [l] → s.saved = [] → l.eligible = true → l.cosched = false →
    l.steady = false → l.stopped = false → l.again = [] → l.next = l.grid → l.waiting = [(n, die, c)] →
    l.ref.queue < 64 → s.ctxRuns l.ctx = true → s.coreOk die c = true → s.hasRoom ⟨die, c⟩ l.gpb l.spad = true →
    ∃ (t : State) (b : Block), exec (.blockDispatch die) s = .next t ∧ t.blocks = s.blocks ++ [b] ∧ b.ref = ⟨l.ref, n⟩ ∧ b.ctx = l.ctx ∧
      b.job = l.job ∧ b.tenant = l.tenant ∧ b.die = die ∧ b.core = c ∧ b.spad = l.spad ∧ b.spm = [] ∧ b.fe = [] ∧
      b.groups.length = l.gpb ∧
      (∀ (i : Nat) (g : Group), b.groups[i]? = some g → g.num = i ∧ g.quads = List.replicate 24 ⟨l.entry, 0, false, .run⟩ ∧
        g.gmr = l.head.gmr0 ∧ g.mxa = 0x7F800000 ∧ g.hvec = 0 ∧ g.sreg 0 = l.addr.extractLsb' 0 32 ∧
        g.sreg 1 = l.addr.extractLsb' 32 32 ∧ g.sreg 61 = 0xFFFFFFFF ∧ g.sreg 62 = 0xFFFFFFFF ∧
        g.sreg 63 = 0xFFFFFFFF ∧ (∀ k, 2 ≤ k → k ≤ 60 → g.sreg k = 0) ∧ g.vregs = [] ∧ g.preds = []) ∧
      (∀ x ∈ t.l1, x.core ≠ ⟨die, c⟩) ∧
      ∃ y, t.launch? l.ref = some y ∧ y.dispatched = l.dispatched + 1 ∧ y.waiting = []

/-- A group, its block and its launch end (R28, R33, R62, R186, R212, R220): a group whose operations have all completed, and whose block passes no
chunk of a collective on in its name any more, retires; with the last group its block leaves the core and counts; a launch with nothing left leaves its queue: DONESEQ rises, the
L1s that ran it are clean, and its vector is sent, where the mask bit of its MSI-X entry, bit 0 of byte 12 (log entry 9,
PRESUMED from PCI Express), is clear. -/
def Sys2Proof.Parts.Endings : Prop :=
  (∀ (s : State) (r : GroupRef), AtGroup s r (.groupRetire r) (fun u v => u.grp.retired = false → u.grp.allDone = true →
    u.blk.halted = false → u.passesOn = false →
    ((∃ (i : Nat) (g : Group), i ≠ u.cur.grp ∧ u.blk.groups[i]? = some g ∧ g.retired = false) →
      v = u.setGrp { u.grp with retired := true, active := none, pins := [] }) ∧
    ((∀ (i : Nat) (g : Group), i ≠ u.cur.grp → u.blk.groups[i]? = some g → g.retired = true) → u.blk.buffers = false →
      u.mgmt.requests = [] → v.blocks = u.blocks.eraseIdx u.cur.blk ∧ v.mem = u.mem ∧
      ∀ x, u.launch? u.blk.ref.launch = some x →
        v.launch? u.blk.ref.launch = some { x with retired := x.retired + 1 }))) ∧
  (∀ (s : State) (r : LaunchRef) (l : Launch), s.launch? r = some l → s.launchDone l = true → l.isGang = false →
    s.mgmt.hlctl.getLsbD 30 = true →
    ∃ t, exec (.launchCompletion r) s = .next t ∧ (∀ x ∈ t.launches, x.ref ≠ r) ∧
      ((∀ b ∈ s.blocks, ∀ g ∈ b.groups, g.polls = false) → t.blocks = s.blocks) ∧
      ((s.queue r.queue).done = [] → (s.queue r.queue).doneSeq.toNat = r.seq →
        (t.queue r.queue).doneSeq = (s.queue r.queue).doneSeq + 1) ∧
      (∀ c ∈ l.cores, ∀ k x, t.l1Find c k = some x → x.dirty = 0) ∧
      ((s.queue r.queue).msi.getLsbD 31 = true →
        (s.msixByte (16 * ((s.queue r.queue).msi.toNat % 2 ^ 11) + 12)).getLsbD 0 = false →
        Out.msi ((s.queue r.queue).msi.toNat % 2 ^ 11) ∈ t.out))

/-- Launches become eligible, their blocks are dispatched, and they end. -/
def Obligations.Launching : Prop := Parts.Eligibility ∧ Parts.Dispatch ∧ Parts.Endings

/-- Priority pre-emption (R69): a block that has waited longer than its queue's WAITIV asks the victims on its core to halt, when
they make room; one that has not waits on. A block that was discarded waits since then, for the core that its map names
(log entry 60, the model's choice). -/
def Sys2Proof.Parts.Preemption : Prop :=
  ∀ (s : State) (b : BlockRef) (since : Nat) (c : CoreId) (g n : Nat), s.waits b = some (since, [(c, g, n)]) →
    let q := s.queue b.launch.queue
    ((q.waitIv = 0 ∨ s.time - since ≤ 1000 * q.waitIv) → exec (.preemptionTrigger b) s = .next s) ∧
    (∀ vs, q.waitIv ≠ 0 → 1000 * q.waitIv < s.time - since →
      takeVictims g n (s.roomUsed c) (s.victims c q.prio) = some vs →
      (∀ v ∈ vs, v ∈ s.blocks ∧ (v.halting.isSome = true ∨ (s.queue v.ref.launch.queue).prio < q.prio)) ∧
      ∃ t, exec (.preemptionTrigger b) s = .next t ∧ t = { s with blocks := t.blocks } ∧
        t.blocks.length = s.blocks.length ∧
        ∀ (i : Nat) (x : Block), s.blocks[i]? = some x → t.blocks[i]? = some
          (if (∃ v ∈ vs, v.ref = x.ref) ∧ x.halting = none then
             { x with halting := some .priority, haltSince := s.time, haltClock := s.clock, overdue := false }
           else x)) ∧
    (∀ (l : Launch) (x : Rerun), s.launch? b.launch = some l → s.ctxRuns l.ctx = true →
      s.saved.find? (fun y => y.blk.ref == b && !y.blk.held) = none → l.again.find? (fun y => y.block == b.block) = some x →
      s.waits b = some (x.since, [(⟨x.die, x.core⟩, l.gpb, l.spad)]))

/-- A halt completes (R44, R70, R71, R280, R281, R380): after a fault the block's live groups stand halted, waiting quads at their
waiting instructions, a fence that waits takes its actions from the first at resume, no register changed; an unpinned restartable block that is pre-empted is discarded with its buffer and
queued to run again. -/
def Sys2Proof.Parts.Halts : Prop :=
  ∀ (s u : State) (b : BlockRef), s.seatBlk b = some u → u.blk.halted = false → u.haltDone = true →
    (u.blk.halting = some .fault → u.blk.buffers = false → ∃ v, exec (.blockHalt b) s = .next { v with cur := s.cur } ∧
      v = u.setBlk v.blk ∧ v.blk = { u.blk with halted := true, groups := v.blk.groups } ∧
      v.blk.groups.length = u.blk.groups.length ∧
      ∀ (i : Nat) (g : Group), u.blk.groups[i]? = some g → ∃ g' : Group, v.blk.groups[i]? = some g' ∧ (g.retired = true → g' = g) ∧
        (g.retired = false → g'.wait = .ready ∧ g'.quads = g.quads.map Quad.unwait ∧
          RegsKept g g' noReg noReg noReg noReg ∧ LatchesKept g g' ∧ g'.memops = g.memops ∧ g'.frame = g.frame ∧
          g'.fences = g.fences.map Fence.withdraw)) ∧
    (u.blk.halting = some .priority → (s.queue b.launch.queue).preempt = true → u.blk.buffers = true → s.mgmt.requests = [] →
      (∀ x, s.launch? b.launch = some x → x.mode = 0) →
      ∃ t, exec (.blockHalt b) s = .next t ∧ t.blocks = s.blocks.eraseIdx u.cur.blk ∧ t.mem = s.mem ∧
        ∀ x, s.launch? b.launch = some x →
          t.launch? b.launch = some { x with again := x.again ++ [⟨b.block, u.blk.die, u.blk.named, s.time⟩] })

/-- A halted block leaves its core (R105, R384, R408), stated where no request for a context waits: one whose launch was ended
is dropped; any other that has drained is saved, its record in the lowest free place of its context's save area; and a
halt that lasts longer than 50 µs, once for each block, halts the context and takes the core out of dispatch. -/
def Sys2Proof.Parts.SaveOrStop : Prop :=
  ∀ (s u : State) (b : BlockRef), s.seatBlk b = some u → s.mgmt.requests = [] →
    (u.blk.halted = true → u.blk.stuck = false → u.blk.halting = some .ended →
      (∀ g ∈ u.blk.groups, g.dropReady = true) →
      ∃ t, exec (.blockSave b) s = .next t ∧ t.blocks = s.blocks.eraseIdx u.cur.blk ∧ t.mem = s.mem ∧ t.saved = s.saved) ∧
    (let r := u.blockRecord
     let va := placeFrom r.length (s.ctxBase u.blk.ctx).toNat (s.savedSpans u.blk.ctx)
     u.blk.halted = true → u.blk.stuck = false → u.blk.halting ≠ some .ended → u.blk.halting ≠ some .broken →
     (∀ g ∈ u.blk.groups, g.retired = true ∨ g.drained = true) →
     va + r.length ≤ (s.ctxBase u.blk.ctx).toNat + s.ctxSize u.blk.ctx →
     s.ctxCheck u.blk.ctx (BitVec.ofNat 64 va) r.length = .ok () →
     ∃ (t : State) (x : Saved), exec (.blockSave b) s = .next t ∧ t.blocks = s.blocks.eraseIdx u.cur.blk ∧ t.saved = s.saved ++ [x] ∧
       x.va = BitVec.ofNat 64 va ∧ x.bytes = r.length ∧ x.since = s.time ∧
       x.blk = { u.blk with groups := x.blk.groups } ∧ x.blk.groups.length = u.blk.groups.length ∧
       t.mem = (s.ctxStore u.blk.ctx (BitVec.ofNat 64 va) r).mem) ∧
    (u.blk.halting.isSome = true → u.blk.halted = false → 50000 < s.time - u.blk.haltSince →
     u.blk.overdue = false →
     ∃ t, exec (.haltTimeout b) s = .next t ∧
       t.plat.dead = (if s.physCore u.core ∈ s.plat.dead then s.plat.dead else s.plat.dead ++ [s.physCore u.core]) ∧
       (t.ctx u.blk.ctx).halted = true ∧ (∀ x ∈ t.blocks, x.ctx = u.blk.ctx → x.held = true) ∧
       ∀ x, s.launch? b.launch = some x → ∃ y, t.launch? b.launch = some y ∧ y.status = (x.status <|> some 0x51))

/-- Pre-emption, halts and saves. -/
def Obligations.Halting : Prop := Parts.Preemption ∧ Parts.Halts ∧ Parts.SaveOrStop

/-! ### The fabric's events -/

/-- Requests that arrive (R13, R188, R190, R193, R195, R202, R205, R213, R217, R230, R437, R440): the next request of a sender,
admitted, performs at its home in one step, is counted at the DFI of its port (a message not before its `MDONE`, the
writes of one chunk with the last, log 66) and answered; one that is refused, at its key or, with reason 4 for an address
or an inbox that fails translation or protection and reason 5 for an inbox that is not bound or full, at its home, changes
no memory, counts a refusal at the receiving port and is answered with its reason; one that is early is held, a late one is discarded, and through a port
that carries no traffic nothing comes in. Accesses to host memory go out as memory requests, page walks and the words of an
inbox's descriptor among them (log 53, the model's choice).
Stated of requests of another rank, with nothing held early and no round of a collective open. -/
def Obligations.RemoteRequests : Prop :=
  ∀ (s : State) (p : Packet) (a : Admit), p.dst = s.rank → p.src ≠ s.rank → (s.peer p.src).early = [] →
    (s.peer p.src).discard ≤ p.seq → (∀ b ∈ s.blocks, b.colls = []) → s.rings = [] →
    (s.portCarries p.port = false → exec (arrival p) s = .next s) ∧ (s.portCarries p.port = true →
    let x := s.peer p.src
    let j := s.job p.job
    -- the frame of every request that performs: its answer, its place in the sequence, its count
    let done (t : State) (pas : List Nat) (answer : Resp) (counts : Bool) : Prop :=
      (∃ m : List Out, t.out = s.out ++ m ++ [.response p.src p.seq answer] ∧ ((∀ pa ∈ pas, inHost pa = false) →
          (∀ v ∈ PktBody.addrs p.body, ∀ b ∈ s.walkBytes a.ctx (BitVec.ofNat 64 v), inHost b = false) → m = []) ∧
        ∀ o ∈ m, (∃ a n, o = .hostReads a n) ∨ ∃ a bytes, o = .hostWrites a bytes) ∧
      t.peer p.src = { x with rxSeq := p.seq + 1, perf := p.seq } ∧
      t.job p.job = (if counts then { j with cons := j.cons.raise (dfiOf p.port) } else j) ∧ t.blocks = s.blocks ∧
      t.l1 = s.l1 ∧ t.cur = s.cur
    let stored (t : State) (pas : List Nat) (bytes : List Byte) : Prop :=
      (∀ (i : Nat) (pa : Nat) (b : Byte), pas[i]? = some pa → bytes[i]? = some b → Memory.byte t.mem pa = b) ∧
      ∀ pa, pa ∉ pas → Memory.byte t.mem pa = Memory.byte s.mem pa
    let refused (e : Nat) (asks : Bool) : Prop := ∃ (t : State) (m : List Out), exec (arrival p) s = .next t ∧
      t.out = s.out ++ m ++ [.response p.src p.seq (.refused e)] ∧
      (asks = false → m = []) ∧ (∀ o ∈ m, ∃ a n, o = .hostReads a n) ∧ t.peer p.src = { x with rxSeq := p.seq + 1 } ∧
      t.jobs = s.jobs ∧ t.blocks = s.blocks ∧ t.l1 = s.l1 ∧ t.cur = s.cur ∧ t.mem = s.mem ∧
      t.port p.port = { s.port p.port with refusals := (s.port p.port).refusals + 1 } ∧
      ∀ k, k ≠ p.port → t.port k = s.port k
    (p.seq = x.rxSeq → s.admission p = .ok a →
      (∀ w, (match p.body with
          | .read _ _ => w = Use.read
          | .write _ | .chunk _ _ _ | .notice _ _ => w = Use.write
          | .atomic _ _ _ _ _ _ => w = Use.atomic
          | .message _ _ _ => False) → s.pasOf a.ctx w (PktBody.addrs p.body) = none → refused 4 true) ∧
      (∀ n tag payload, p.body = .message n tag payload →
        (s.inboxOf a n = none → refused 5 false) ∧
        ∀ ctx inb, s.inboxOf a n = some (ctx, inb) →
          (let word (off k : Nat) := s.ctxNat ctx (inb.desc + BitVec.ofNat 64 off) k
           ((∃ off k e, (off, k) ∈ [(0, 8), (8, 1), (0x10, 8), (0x18, 8)] ∧ word off k = .error e) →
            (∀ off k e, (off, k) ∈ [(0, 8), (8, 1), (0x10, 8), (0x18, 8)] → word off k = .error e → e.code ≠ 0x50) →
            refused 4 true) ∧
           ∀ ring lg tail head, word 0 8 = .ok ring → word 8 1 = .ok lg → word 0x10 8 = .ok tail → word 0x18 8 = .ok head →
             ((tail + 2 ^ 64 - head) % 2 ^ 64 = 2 ^ lg → refused 5 true) ∧
             ((tail + 2 ^ 64 - head) % 2 ^ 64 ≠ 2 ^ lg → payload.length ≤ 30 →
               ∀ e, s.ctxCheck ctx (BitVec.ofNat 64 (ring + 128 * (tail % 2 ^ lg))) 128 = .error e → e.code ≠ 0x50 →
                 refused 4 true))) ∧
      (∀ va n pas, p.body = .read va n → s.pasOf a.ctx .read (PktBody.addrs p.body) = some pas →
        (∀ pa ∈ pas, pa / 8 ∉ s.badMem) →
        ∃ t, exec (.remoteReadRequest p) s = .next t ∧ done t pas (.read (pas.map (Memory.byte s.mem))) true ∧ t.mem = s.mem) ∧
      (∀ cells pas, p.body = .write cells → s.pasOf a.ctx .write (PktBody.addrs p.body) = some pas → pas.Nodup →
        s.keepsBad pas = false →
        ∃ t, exec (.remoteWriteRequest p) s = .next t ∧ done t pas .write true ∧
          stored t pas (cells.map (fun c => c.2))) ∧
      (∀ op ty va d c ret pas, p.body = .atomic op ty va d c ret →
        s.pasOf a.ctx .atomic (PktBody.addrs p.body) = some pas → pas.Nodup → (∀ pa ∈ pas, pa / 8 ∉ s.badMem) →
        let old := leNat (pas.map (Memory.byte s.mem))
        ∃ t, exec (.remoteAtomicRequest p) s = .next t ∧
          done t pas (if ret then .atomic (BitVec.ofNat 64 old) else .write) true ∧
          stored t pas (leBytes (atomResult op ty old d.toNat c.toNat) (ATy.bytes ty))) ∧
      (∀ n tag payload ctx inb ring lg tail head, p.body = .message n tag payload → s.inboxOf a n = some (ctx, inb) →
        s.ctxNat ctx inb.desc 8 = .ok ring → s.ctxNat ctx (inb.desc + 8) 1 = .ok lg →
        s.ctxNat ctx (inb.desc + 0x10) 8 = .ok tail → s.ctxNat ctx (inb.desc + 0x18) 8 = .ok head →
        (tail + 2 ^ 64 - head) % 2 ^ 64 ≠ 2 ^ lg → payload.length ≤ 30 →
        let va := BitVec.ofNat 64 (ring + 128 * (tail % 2 ^ lg))
        s.ctxCheck ctx va 128 = .ok () → s.ctxCheck ctx (inb.desc + 0x10) 8 = .ok () →
        ∃ t slot pas, exec (.messageDelivery p) s = .next t ∧ done t pas .write false ∧ slot.length = 128 ∧
          slot.take (8 + 4 * payload.length) =
            leBytes p.src 2 ++ leBytes payload.length 1 ++ [0] ++ leBytes tag.toNat 4 ++ wordBytes payload ∧
          t.mem = ((s.ctxStore ctx va slot).ctxStore ctx (inb.desc + 0x10) (leBytes ((tail + 1) % 2 ^ 64) 8)).mem ∧
          t.msgs = s.msgs.filter (fun m => !(m.ctx == ctx && m.desc == inb.desc && m.index == tail)) ++
            [⟨ctx, inb.desc, tail, p.port⟩]) ∧
      (∀ va c k pas, p.body = .chunk va c k → s.pasOf a.ctx .write (PktBody.addrs p.body) = some pas → pas.Nodup →
        s.keepsBad pas = false →
        ∃ t, exec (.collChunkArrival p) s = .next t ∧ done t pas .write (k + 1 == Chunk.lines c) ∧
          ((∀ y ∈ s.chunks, ¬ (y.ctx = a.ctx ∧ y.addr = va)) → t.chunks = s.chunks ++ [⟨a.ctx, va, c, [k]⟩]) ∧
          (∀ (i : Nat) (pa : Nat) (b : Byte), k = 0 → pas[i]? = some pa →
            (leBytes c.round 8 ++ leBytes (if c.gather then 1 else 0) 4 ++ leBytes c.index 4 ++
              leBytes c.flags.toNat 4)[i]? = some b → Memory.byte t.mem pa = b) ∧
          ∀ pa, pa ∉ pas → Memory.byte t.mem pa = Memory.byte s.mem pa) ∧
      (∀ va head pas, p.body = .notice va head → s.pasOf a.ctx .write (PktBody.addrs p.body) = some pas → pas.Nodup →
        s.keepsBad pas = false →
        ∃ t, exec (.slotReleaseNotice p) s = .next t ∧ done t pas .write true ∧ stored t pas (leBytes head.toNat 8))) ∧
    (∀ e, p.seq = x.rxSeq → s.admission p = .error e → refused e false) ∧
    (x.rxSeq < p.seq → ∃ t, exec (arrival p) s = .next t ∧ t = { s with peers := t.peers } ∧
      t.peer p.src = { x with early := [p] }) ∧
    (p.seq < x.rxSeq → exec (arrival p) s = .next s))

/-- Answers that come back (R13, R187, R195, R196, R205, R223, R341, R438, R440, R458), stated where some port carries traffic and no
round of a collective is open: the request leaves the device's queue; its lanes are no
longer open and hold what came back; when none is open any more the operation ends: values and the status predicate
are written, F returns in order, the object receives its arrival; a refusal counts in C, and a form without `.S` that
met it notes one fault with its reason and the time it was found (R382). That the object receives its arrival after a
refused request too, and that reason 7 is left out, rests on log entry 46 (the model's reading of R342 and R446). -/
def Obligations.FabricResponses : Prop :=
  ∀ (s u : State) (peer seq : Nat) (r : Req) (o : FabOp), s.reqFor peer seq = some r → peer ≠ s.rank →
    s.seat r.owner = some u → u.grp.fab? r.op = some o → o.done = false → o.kind.ends = true → (∀ d, o.kind ≠ .tile d) →
    o.src.unread = [] → s.linked = true → (∀ b ∈ s.blocks, b.colls = []) → s.rings = [] →
    (∀ y, u.launch? u.blk.ref.launch = some y → y.mode = 0) →
    let left := o.open_.filter (fun l => !r.lanes.any (fun x => x.1 == l))
    let closed (got : List (Nat × Nat)) (fails : List FabFail) : FabOp :=
      { o with open_ := left, got := o.got ++ got, fails := o.fails ++ fails }
    let after (t : State) (got : List (Nat × Nat)) (fails : List FabFail) : Prop := ∃ v, t.seat r.owner = some v ∧
      t.mem = s.mem ∧ t.reqs = s.reqs.filter (fun x => !(x.pkt.dst == peer && x.left && x.pkt.seq == seq)) ∧
      (left ≠ [] → v.grp.fab? r.op = some (closed got fails) ∧ RegsKept u.grp v.grp noReg noReg noReg noReg ∧
        v.grp.asyncs = u.grp.asyncs ∧ v.blk.spm = u.blk.spm) ∧
      (left = [] →
        (∀ d, o.dst = some d → Delivered u.grp v.grp d (o.got ++ got)) ∧
        RegsKept u.grp v.grp (fun n => ∃ d, o.dst = some d ∧ inDest d false n) noReg
          (fun n => ∃ d, o.dst = some d ∧ inDest d true n) (fun n => ∃ p, o.ps = some p ∧ pReg p n) ∧
        (∀ p, o.ps = some p → HoldsP u v (fun l => o.lanes.contains l) p
          (fun l => !(o.fails ++ fails).any (fun f => f.lanes.contains l))) ∧
        (o.obj = none → v.blk.spm = u.blk.spm) ∧
        (∀ b, o.obj = some b → u.blk.spadBad b 64 = false → Arrived u.blk v.blk b 1 0) ∧
        (∀ x ∈ v.grp.fabs, x.seq = r.op → x.done = true))
    (∀ va n bytes sz, r.pkt.body = .read va n → o.kind = .rld sz → ∃ t, exec (.readResponse peer seq bytes) s = .next t ∧
      after t (r.lanes.map (fun x => (x.1, leNat (bytes.drop x.2) % 2 ^ (8 * sz.bytes)))) [] ∧ t.jobs = s.jobs) ∧
    (∀ op ty va d c old, r.pkt.body = .atomic op ty va d c true → o.kind = .ratom ty →
      ∃ t, exec (.atomicResponse peer seq old) s = .next t ∧
        after t (r.lanes.map (fun x => (x.1, old.toNat % 2 ^ (8 * ATy.bytes ty)))) [] ∧ t.jobs = s.jobs) ∧
    ((∀ va n, r.pkt.body ≠ .read va n) → (∀ op ty va d c, r.pkt.body ≠ .atomic op ty va d c true) →
      ∃ t, exec (.writeCompletion peer seq) s = .next t ∧ after t [] [] ∧ t.jobs = s.jobs) ∧
    (∀ reason, reason ≠ 7 → ∃ t f, exec (.refusalResponse peer seq reason) s = .next t ∧ after t [] [f] ∧
      f.code = 0x30 ∧ f.detail = reason ∧ f.peer = peer ∧ f.lanes = r.lanes.map (fun x => x.1) ∧
      (t.job r.pkt.job).cons = (if PktBody.counts r.pkt.body then (s.job r.pkt.job).cons.raise (dfiOf r.pkt.port)
        else (s.job r.pkt.job).cons) ∧
      (left = [] → o.stat = false → o.fails = [] → ∀ v, t.seat r.owner = some v → o.obj = none →
        v.grp.asyncs = u.grp.asyncs ++ [⟨0x30, reason, o.org, some f.addr, false, peer, 2 ^ 32, s.time⟩]))

/-- A control packet that waits in the class of no tenant for its port (R190, R199). -/
def Sys2Proof.heldControl (dst : Nat) (c : Ctl) : Held := ⟨dst, none, none, .control dst c⟩

/-- The settle wave (R190, R205, R207 to R209), stated where some port carries traffic: the leader learns of a pending `QUIET`; it starts a wave with its own snapshot and passes the
token on; a member adds its snapshot; equal totals twice with I equal to C settle the wave, which every other member
is told, and any other total is kept for the next wave; a member that is told completes the `QUIET`s that the wave
covers. I, C and L are the sums over the DFIs; a control packet that comes in is answered. -/
def Obligations.Settlement : Prop :=
  ∀ (s : State) (j : Nat), (s.job j).down = none → s.linked = true →
    let x := s.job j
    let only (t : State) : Prop :=
      t = { s with jobs := t.jobs, out := t.out, heldq := t.heldq } ∧ ∀ k, k ≠ j → t.job k = s.job k
    let answered (t : State) : Prop := t.out = s.out ++ [.controlDone]
    (s.leader j = s.rank → ∃ t, exec (.quietNotice j) s = .next t ∧ only t ∧ t.job j = { x with noticed := true } ∧
      answered t ∧ t.heldq = s.heldq) ∧
    (∀ m, s.member j s.rank = true → s.leader j = s.rank → x.noticed = true → x.tokenOut = false →
      (∀ t0, x.waveStart = some t0 → s.settlePeriod j ≤ s.time - t0) → (s.members j).find? (fun m => s.rank < m) = some m →
      ∃ t, exec (.settleWaveStart j) s = .next t ∧ only t ∧
        t.job j = { x with nextWave := x.nextWave + 1, tokenOut := true, waveStart := some s.time,
                           arrived := x.nextWave + 1 } ∧
        t.out = s.out ∧ t.heldq = s.heldq ++ [heldControl m (.token j x.nextWave x.i (x.c + x.l))]) ∧
    (∀ t0, x.waveStart = some t0 → s.time - t0 < s.settlePeriod j → exec (.settleWaveStart j) s = .next s) ∧
    (∀ k si sc, s.member j s.rank = true → s.leader j ≠ s.rank →
      ∃ t, exec (.settleToken j k si sc) s = .next t ∧ only t ∧ t.job j = { x with arrived := k + 1 } ∧
        answered t ∧ t.heldq = s.heldq ++ [heldControl (((s.members j).find? (fun m => s.rank < m)).getD (s.leader j))
          (.token j k (si + x.i) (sc + (x.c + x.l)))]) ∧
    (∀ k si sc, s.leader j = s.rank → x.tokenOut = true → k + 1 = x.nextWave →
      ∃ t, exec (.settleTokenReturn j k si sc) s = .next t ∧ (t.job j).tokenOut = false ∧ answered t ∧
        (x.prev = some (si, sc) → si = sc →
          (t.job j).wave = max x.wave k ∧ (t.job j).prev = none ∧
          t.heldq = s.heldq ++ ((s.members j).filter (fun m => m ≠ s.rank)).map (fun m => heldControl m (.settled j k))) ∧
        ((x.prev ≠ some (si, sc) ∨ si ≠ sc) → only t ∧ t.heldq = s.heldq ∧
          t.job j = { x with tokenOut := false, prev := some (si, sc) })) ∧
    (∀ k, ∃ t, exec (.settledReceipt j k) s = .next t ∧ (t.job j).wave = max x.wave k ∧ t.mem = s.mem ∧ answered t ∧
      ∀ b ∈ t.blocks, b.job = j → ∀ g ∈ b.groups, ∀ o ∈ g.fabs, ∀ w f, o.kind = .quiet w f → w + 1 ≤ k → f = true)

/-- What a device does when it finds a peer down (R437, R444, R445): the peer is marked, no request to it stands, each of its
unacknowledged requests counts as lost in its job at its DFI, and every job that includes it is marked and its other
members are told. -/
def FoundDown (s t : State) (r : Nat) : Prop :=
  (t.peer r).down = true ∧ (t.peer r).settling = none ∧ (t.peer r).query = none ∧ (∀ q ∈ t.reqs, q.pkt.dst ≠ r) ∧
  (∀ j d, Tbl.get 0 (t.job j).lost d = Tbl.get 0 (s.job j).lost d +
    ((s.unacked r).filter (fun q => q.pkt.job = j ∧ PktBody.counts q.pkt.body = true ∧ dfiOf q.pkt.port = d)).length) ∧
  ∀ j, j < 256 → s.member j r = true → (t.job j).down.isSome = true ∧
    ∀ m ∈ s.members j, m ≠ s.rank → heldControl m (.down j r) ∈ t.heldq

/-- Links and peers (R187, R190, R193, R199, R205, R437, R443 to R445): a replayed flit is only counted; an exhausted replay, with requests
that are unacknowledged or not yet sent, and a passed ACKTO start to settle with a query, which is sent again twice at most; a peer whose port
does not come back, or that never answers, is found down; a query is answered and bars late arrivals; a reply ends the
settling and what had not performed is lost; a request leaves by the arbiter's turn with its sequence number and counts
in I at its port's DFI, its flits covered by the class's deficit. Stated where no collective round is open, no gang is live
and some port carries traffic. -/
def Obligations.Links : Prop :=
  ∀ (s : State) (r n : Nat), (∀ b ∈ s.blocks, b.colls = []) → s.rings = [] → (∀ l ∈ s.launches, l.isGang = false) → r ≠ s.rank →
    s.linked = true →
    let x := s.peer r
    (∃ t, exec (.linkReplay n) s = .next t ∧ t = { s with ports := t.ports } ∧
      t.port n = { s.port n with replays := (s.port n).replays + 1 } ∧ ∀ k, k ≠ n → t.port k = s.port k) ∧
    (x.map.getLsbD 31 = true → x.settling = none → x.down = false → r < 1024 →
      (∃ t, exec (.replayExhausted r) s = .next t ∧ (t.peer r).settling = some s.time ∧ t.mem = s.mem ∧ t.reqs = s.reqs ∧
        (t.port (s.portOf r)).exhausted = (s.port (s.portOf r)).exhausted + 1) ∧
      ((∃ q ∈ s.unacked r, 1000 * s.mgmt.ackto < s.time - q.sentAt) → x.query = none →
        ∃ t, exec (.ackTimeout r) s = .next t ∧ t = { s with peers := t.peers, heldq := t.heldq } ∧
          (t.peer r).settling = some s.time ∧
          (s.portCarries (s.portOf r) = true →
            t.heldq = s.heldq ++ [heldControl r (.query x.txSeq)] ∧ (t.peer r).query = some ⟨x.txSeq, 1, s.time⟩))) ∧
    (∀ t0, x.settling = some t0 → x.query = none →
      (s.time - t0 < 1000000 * s.mgmt.linkto → exec (.linkWaitTimeout r) s = .next s) ∧
      (1000000 * s.mgmt.linkto ≤ s.time - t0 → ∃ t, exec (.linkWaitTimeout r) s = .next t ∧ FoundDown s t r)) ∧
    (∀ q, x.query = some q → 1000 * s.mgmt.ackto ≤ s.time - q.at_ →
      (q.sends < 3 → ∃ t, exec (.queryResend r) s = .next t ∧ t = { s with peers := t.peers, heldq := t.heldq } ∧
        t.heldq = s.heldq ++ [heldControl r (.query q.n)] ∧
        t.peer r = { x with query := some { q with sends := q.sends + 1, at_ := s.time } }) ∧
      (3 ≤ q.sends → ∃ t, exec (.queryResend r) s = .next t ∧ FoundDown s t r)) ∧
    (x.early = [] → ∃ t, exec (.peerQuery r n) s = .next t ∧ t = { s with peers := t.peers, out := t.out, heldq := t.heldq } ∧
      t.out = s.out ++ [.controlDone] ∧ t.heldq = s.heldq ++ [heldControl r (.reply x.perf)] ∧
      t.peer r = { x with rxSeq := max x.rxSeq n, discard := max x.discard n }) ∧
    (x.query.isSome = true → ∃ t, exec (.peerQueryReply r n) s = .next t ∧ (t.peer r).settling = none ∧
      (t.peer r).query = none ∧ t.mem = s.mem ∧ (∀ q ∈ t.reqs, q.pkt.dst = r → q.left = false) ∧
      ∀ j d, Tbl.get 0 (t.job j).lost d = Tbl.get 0 (s.job j).lost d +
        ((s.unacked r).filter (fun q => q.pkt.job = j ∧ PktBody.counts q.pkt.body = true ∧ dfiOf q.pkt.port = d ∧
          n < q.pkt.seq)).length) ∧
    (∀ j, ∃ t, exec (.downNotice j r) s = .next t ∧ (t.job j).down = ((s.job j).down <|> some r) ∧
      (t.job j).tokenOut = false ∧ t.mem = s.mem ∧
      ∀ b ∈ t.blocks, b.job = j → ∀ g ∈ b.groups, ∀ o ∈ g.fabs, ∀ w f, o.kind = .quiet w f → f = true ∨ o.done = true) ∧
    (∀ q port, s.reqs = [q] → s.mayLeave q = true → q.pkt.dst = r → q.pkt.cls < 16 → x.map.getLsbD 31 = true →
      port = s.portOf r → s.portCarries port = true → (∀ k, (s.peer k).oldPort = none) → s.heldq = [] →
      q.flits < Packet.flits q.pkt →
      64 * (Packet.flits q.pkt - q.flits) ≤
        Tbl.get 0 (s.port port).deficits q.pkt.cls + 64 * Tbl.get 1 (s.port port).weights q.pkt.cls →
      let p := { q.pkt with seq := x.txSeq, port := port }
      ∃ t, exec (.arbiterTurn port) s = .next t ∧ t.out = s.out ++ [.request p] ∧
        t.reqs = [{ q with pkt := p, left := true, sentAt := s.time, flits := Packet.flits q.pkt }] ∧
        t.peer r = { x with txSeq := x.txSeq + 1 } ∧
        (t.job p.job).inj = (if PktBody.counts p.body then (s.job p.job).inj.raise (dfiOf port) else (s.job p.job).inj) ∧
        Tbl.get 0 (t.port port).deficits q.pkt.cls = 0 ∧ t.mem = s.mem ∧ t.blocks = s.blocks)

/-- A control packet of the gang protocol that waits, with the tenant class of its launch (R72). -/
def Sys2Proof.heldGang (s : State) (l : Launch) (dst : Nat) (c : Ctl) : Held :=
  ⟨dst, none, some (s.launchClass l), .gang (s.launchClass l) dst c⟩

/-- Gangs and rounds (R72 to R74, R216, R225, R412, R413, R442), stated where some port carries traffic: an acknowledgement is noted, and the last one commits the gang at its
leader, which tells every member of the job's table as it stands; a commit makes a member dispatch its reserved blocks, once
its context runs and where no core of its map has become unusable; a reserved gang gives way to a smaller identifier; the
leader answers a withdrawal with the commit that it has sent, its own launch live or ended, or with a release; a release
returns the reservation; a refusal and an abort end a gang that has not committed with status 0x62, and stop the blocks of
one that has; the leader's abort of a gang that this device has not seen is noted for its launch, and one from after a commit
is late (log entry 55, the model's choice); a request to withdraw from a gang not seen here is answered with a release in its
own class; a
reduce pass that has waited past its timeout for chunks that have not arrived is closed. -/
def Obligations.GangsAndRounds : Prop :=
  (∀ (s : State) (id rank cls : Nat) (after : Bool) (l : Launch), s.gangOf id = some l → s.linked = true →
    let answered : State := { s with out := s.out ++ [.controlDone] }
    (∃ t, exec (.gangReserveAck id rank) s = .next t ∧
      (l.gang ≠ .reserved → rank ∈ t.acks id ∧ t = { answered with gangAcks := t.gangAcks }) ∧
      (l.gang = .reserved → l.leader = s.rank → (∀ m ∈ l.members, m = rank ∨ m ∈ s.acks id) →
        (∀ m ∈ s.members l.job, m ≠ s.rank → heldGang s l m (.commit id) ∈ t.heldq) ∧
        ∃ y, t.launch? l.ref = some y ∧ y.gang = .committed)) ∧
    (l.gang = .reserved ∨ l.gang = .withdrawing → s.launch? l.ref = some l → s.ctxRuns l.ctx = false →
      ∃ t, exec (.gangCommit id) s = .next t ∧ t = { answered with launches := t.launches } ∧
        t.launch? l.ref = some { l with gang := .committed }) ∧
    (l.gang = .reserved ∨ l.gang = .withdrawing → s.launch? l.ref = some l → s.ctxRuns l.ctx = true → s.deadIn l = none →
      ∃ t, exec (.gangCommit id) s = .next t ∧ t.blocks.length = s.blocks.length + l.map.length ∧
        (∃ y, t.launch? l.ref = some y ∧ y.gang = .committed ∧ y.dispatched = l.dispatched + l.map.length) ∧
        ∀ (i : Nat) (c : Nat × Nat), l.map[i]? = some c →
          ∃ b ∈ t.blocks, b.ref = ⟨l.ref, i⟩ ∧ b.die = c.1 ∧ b.core = c.2) ∧
    (rank < 1024 → ∃ t, exec (.gangWithdrawRequest id (rank + 1024 * cls)) s = .next t ∧
      (l.gang = .committed ∨ l.gang = .broken → t = { answered with heldq := s.heldq ++ [heldGang s l rank (.commit id)] }) ∧
      (l.gang ≠ .committed → l.gang ≠ .broken →
        t = { answered with gangAcks := t.gangAcks, heldq := s.heldq ++ [heldGang s l rank (.release id)] } ∧
        rank ∉ t.acks id)) ∧
    (l.gang = .withdrawing → s.launch? l.ref = some l → ∃ t, exec (.gangRelease id) s = .next t ∧
      t = { answered with launches := t.launches } ∧ t.launch? l.ref = some { l with gang := .idle }) ∧
    (l.eligible = true → s.launch? l.ref = some l →
      (l.gang = .idle ∨ l.gang = .reserved ∨ l.gang = .withdrawing →
        (∃ t y, exec (.gangAbort (id + if after then 65536 else 0)) s = .next t ∧ t.launch? l.ref = some y ∧ y.gang = .aborted ∧ y.stopped = true ∧
          y.status = (l.status <|> some 0x62) ∧ t.blocks = s.blocks) ∧
        (∃ t y, exec (.gangRefusal id rank) s = .next t ∧ t.launch? l.ref = some y ∧ y.gang = .aborted ∧
          y.stopped = true ∧ y.status = (l.status <|> some 0x62) ∧
          ∀ m ∈ s.members l.job, m ≠ s.rank → heldGang s l m (.abort id false) ∈ t.heldq)) ∧
      (l.gang = .committed → ∃ t y, exec (.gangAbort (id + if after then 65536 else 0)) s = .next t ∧ t.launch? l.ref = some y ∧ y.gang = .broken ∧
        y.status = (l.status <|> some 0x62) ∧ (∀ b ∈ t.blocks, b.ref.launch = l.ref → b.halting.isSome = true) ∧
        ∀ z ∈ t.saved, z.blk.ref.launch ≠ l.ref))) ∧
  (∀ (s : State) (id rank cls : Nat) (e : EndedGang), s.gangOf id = none → s.ended? id = some e → s.linked = true → rank < 1024 →
    ∃ t, exec (.gangWithdrawRequest id (rank + 1024 * cls)) s = .next t ∧
      t = { s with out := s.out ++ [.controlDone], gangAcks := t.gangAcks
                   heldq := s.heldq ++ [⟨rank, none, some e.cls, .gang e.cls rank (if e.committed then .commit id else .release id)⟩] } ∧
      (e.committed = true → t.gangAcks = s.gangAcks)) ∧
  (∀ (s : State) (id : Nat), s.gangOf id = none → (∀ e ∈ s.gangEnded, e.id ≠ id) → s.linked = true → id < 65536 →
    exec (.gangAbort id) s = .next { s with out := s.out ++ [.controlDone], gangAborts := addOnce s.gangAborts id } ∧
    exec (.gangAbort (id + 65536)) s = .next { s with out := s.out ++ [.controlDone] }) ∧
  (∀ (s : State) (id rank cls : Nat), s.gangOf id = none → s.ended? id = none → s.linked = true → rank < 1024 → cls < 16 →
    ∃ t, exec (.gangWithdrawRequest id (rank + 1024 * cls)) s = .next t ∧
      t = { s with out := s.out ++ [.controlDone], gangAcks := t.gangAcks
                   heldq := s.heldq ++ [⟨rank, none, some cls, .gang cls rank (.release id)⟩] }) ∧
  (∀ (s : State) (r : LaunchRef) (l m : Launch), s.launch? r = some l → l.gang = .reserved → m ∈ s.launches →
    m.isGang = true → m.eligible = true → m.stopped = false → m.gang = .idle → m.gangId < l.gangId → s.mapFits m = false →
    ∃ t, exec (.gangWithdraw r) s = .next t ∧
      (l.leader = s.rank → t.launch? r = some { l with gang := .idle } ∧ s.rank ∉ t.acks l.gangId ∧ t.heldq = s.heldq) ∧
      (l.leader ≠ s.rank → t.launch? r = some { l with gang := .withdrawing } ∧
        t.heldq = s.heldq ++ [heldGang s l l.leader (.withdraw l.gangId s.rank)])) ∧
  (∀ (s u : State) (b : BlockRef) (i : Nat) (r : CollRound), s.seatBlk b = some u → u.blk.colls[i]? = some r →
    r.timeout ≠ 0 → r.pos ≠ 0 → r.finished = false → r.failed = false → u.blk.allIssued r = true →
    r.timedOut = false → 1000 * r.timeout ≤ s.time - r.since → u.collArrived r < u.blk.collChunks r (u.collDesc r) →
    ∃ t v r', exec (.collTimeout b) s = .next t ∧ t.seatBlk b = some v ∧ v.blk.colls[i]? = some r' ∧ r'.timedOut = true)

/-! ### The host and the platform -/

/-- The host port (R5, R59, R217, R387): a write of HBM4 stores its bytes at their homes, but for those of a failing word that
it would change in part, which keeps its bits and is noted (logs 8 and 41, the model's choice); a read returns what stands there; the management
window is reached behind BAR0; and any other address stops the model by name. -/
def Sys2Proof.Parts.HostPort : Prop :=
  ∀ (s : State) (a n : Nat) (v : Dword) (bytes : List Byte),
    (let kept := s.partBad ((cellsFrom a bytes).map (fun c => c.1))
     a + bytes.length ≤ 0xC000000000 → ∃ t, exec (.hostWrite a bytes) s = .next t ∧
      (∀ (i : Nat) (b : Byte), bytes[i]? = some b →
        Memory.byte t.mem (a + i) = if (a + i) / 8 ∈ kept then Memory.byte s.mem (a + i) else b) ∧
      MemoryKeptBut s t a bytes.length ∧ (∀ w ∈ kept, 8 * w ∈ t.eccFail ∧ w ∈ t.badMem) ∧
      t.blocks = s.blocks ∧ t.l1 = s.l1 ∧ t.mgmt = s.mgmt ∧ t.out = s.out) ∧
    (a + n ≤ 0xC000000000 → (∀ i, i < n → (a + i) / 8 ∉ s.badMem) → ∃ t, exec (.hostRead a n) s = .next t ∧
      t = { s with out := s.out ++ [.hostData (Memory.bytes s.mem a n)], free := t.free }) ∧
    (a + n ≤ 2 ^ 26 → exec (.hostWrite (2 ^ 40 + a) (leBytes v.toNat n)) s = exec (.mgmtRegisterWrite a n v) s) ∧
    (a + n ≤ 2 ^ 26 → 0 < n → ∃ t, exec (.hostRead (2 ^ 40 + a) n) s = .next t ∧
      t = { s with out := s.out ++ [.hostData ((List.range n).map (fun i => s.windowByte (a + i)))] }) ∧
    (0xC000000000 ≤ a → a + bytes.length ≤ 2 ^ 40 → 0 < bytes.length → exec (.hostWrite a bytes) s = .fault .hostReserved) ∧
    (0xC000000000 ≤ a → a + n ≤ 2 ^ 40 → 0 < n → exec (.hostRead a n) s = .fault .hostReserved)

/-- Requests by the management window (R13, R56 to R58, R192, R223, R225, R226, R356, R383, R384, R388 to R390, R428, R439): PREQ asks
the blocks of a context to halt, and is done at once when it has none; its hold is released; a request waits for its turn
behind one that is not done; HLCTL launches a packet; JOBRESET clears a job's counts, and (log 48, the model's reading) its
lost requests; FAULTCTL releases the held blocks of a
launch or ends it; RESYNC starts the summary unless it is under way, an entry at a step (log 50); the
repair register takes L out of I at each DFI. -/
def Sys2Proof.Parts.ManagementRequests : Prop :=
  ∀ (s : State) (w : Word),
    let c := w.toNat % 256
    let j := s.job c
    (s.mgmt.preq.getLsbD 29 = true → s.mgmt.requests = [] → ∃ t, exec (.preqGo w) s = .next t ∧
      (t.ctx c).hold = w.getLsbD 30 ∧ t.mem = s.mem ∧
      ((∀ b ∈ s.blocks, b.ctx ≠ c) → t.mgmt.preq.getLsbD 29 = true ∧ t.blocks = s.blocks) ∧
      ((∃ b ∈ s.blocks, b.ctx = c) → t.mgmt.preq.getLsbD 29 = false ∧ t.blocks.length = s.blocks.length ∧
        ∀ b ∈ t.blocks, b.ctx = c → b.halting.isSome = true)) ∧
    (s.mgmt.preq.getLsbD 29 = false → exec (.preqGo w) s = .next s) ∧
    (s.mgmt.requests = [] → ∃ t, exec (.preqHoldRelease w) s = .next t ∧ (t.ctx c).hold = false ∧
      t = { s with ctxs := t.ctxs, mgmt := { s.mgmt with preq := t.mgmt.preq, tickets := s.mgmt.tickets + 1 } }) ∧
    (∀ r rs, s.mgmt.requests = r :: rs → r.begun = true → r.go = true → s.ctxResident r.ctx = true →
      exec (.preqHoldRelease w) s = .next { s with mgmt := { s.mgmt with
        preq := (s.mgmt.preq &&& 0x20000000) ||| (w &&& 0xFF), tickets := s.mgmt.tickets + 1
        requests := s.mgmt.requests ++ [⟨s.mgmt.tickets, c, false, false, true, false⟩] } }) ∧
    (let q := w.toNat % 64
     let k := w.toNat / 256 % 256
     s.mgmt.hlctl.getLsbD 30 = true → s.ctxValid k = true →
     ((s.queue q).ctl.getLsbD 3 = true → (s.queue q).grant.getLsbD k = true → (s.launchesOf q).length < 256 →
       (∀ pa ct, s.transl devCore k .read 64 s.mgmt.hladdr = .ok (pa, ct) → s.badAt pa 64 = false →
         ∃ t l, exec (.hostLaunch w) s = .next t ∧ t.launches = s.launches ++ [l] ∧
           l.ref = ⟨q, (s.queue q).nextSeq.toNat⟩ ∧ l.ctx = k ∧ l.packet = Memory.bytes s.mem pa 64 ∧
           l.tenant = leNat ((l.packet.drop 0x1E).take 2) ∧ l.job = leNat ((l.packet.drop 0x1C).take 1) ∧
           t.mgmt.hlseq = (s.queue q).nextSeq ∧ t.mgmt.hlctl.getLsbD 30 = true ∧ t.mgmt.hlctl.getLsbD 29 = false ∧
           (t.queue q).nextSeq = (s.queue q).nextSeq + 1 ∧ t.mem = s.mem)) ∧
     (((s.queue q).ctl.getLsbD 3 = false ∨ (s.queue q).grant.getLsbD k = false) →
       ∃ t, exec (.hostLaunch w) s = .next t ∧ t.mgmt.hlctl.getLsbD 30 = true ∧ t.mgmt.hlctl.getLsbD 29 = true ∧
         t.launches.length = s.launches.length)) ∧
    (∃ t, exec (.jobreset w) s = .next t ∧ t = { s with jobs := t.jobs } ∧ (t.job c).inj = [] ∧ (t.job c).cons = [] ∧
      (t.job c).lost = [] ∧ (t.job c).wave = 0 ∧ ∀ k, k ≠ c → t.job k = s.job k) ∧
    (∀ l, s.faultTarget w = some l →
      ((∃ b ∈ s.blocks, b.ref.launch = l.ref ∧ b.held = true) → ∃ t, exec (.faultctlRelease w) s = .next t ∧
        t.mem = s.mem ∧ (∀ b ∈ t.blocks, b.ref.launch = l.ref → b.held = false) ∧
        (∀ x ∈ t.saved, x.blk.ref.launch = l.ref → x.blk.held = false)) ∧
      (∃ t y, exec (.faultctlEnd w) s = .next t ∧ t.mem = s.mem ∧ (∀ x ∈ t.saved, x.blk.ref.launch ≠ l.ref) ∧
        (∀ b ∈ t.blocks, b.ref.launch = l.ref → b.halting = some .ended ∧ b.held = false) ∧
        t.launch? l.ref = some y ∧ y.stopped = true ∧ y.waiting = [] ∧ y.again = [] ∧ y.status.isSome = true)) ∧
    (w.getLsbD 31 = true → s.mgmt.resync = none →
      exec (.resync w) s = .next { s with mgmt := { s.mgmt with resync := some (s.mgmt.resynca.toNat, 0), resyncDone := false } }) ∧
    (s.mgmt.resync.isSome = true → exec (.resync w) s = .next s) ∧
    (∀ t xs base k, s.dueDiscard = none → s.dueRerun = none → s.dueLate = none → t = { s.settle.servePreq with clock := s.clock + 1 } → t.eccFail = [] →
      t.agenda = .resync :: xs → t.mgmt.resync = some (base, k) → k < 705 → ∃ v, step s = .next v ∧
        (∀ (i : Nat) (b : Byte), (t.resyncEntry k).2[i]? = some b → Memory.byte v.mem (base + (t.resyncEntry k).1 + i) = b) ∧
        MemoryKeptBut t v (base + (t.resyncEntry k).1) (t.resyncEntry k).2.length ∧
        (k < 704 → v.mgmt = { t.mgmt with resync := some (base, k + 1) }) ∧
        (k = 704 → v.mgmt = { t.mgmt with resync := none, resyncDone := true }) ∧
        (k = 0 → Memory.read v.mem base 4 = 0x4E595352 ∧ Memory.read v.mem (base + 12) 4 = t.mgmt.rank % 2 ^ 32)) ∧
    (w.getLsbD 31 = true → ∃ t, exec (.jobRepair w) s = .next t ∧ t = { s with jobs := t.jobs } ∧
      t.job c = { j with inj := (t.job c).inj, lost := [] } ∧
      (∀ d, d < 4 → Tbl.get 0 (t.job c).inj d = Tbl.get 0 j.inj d - Tbl.get 0 j.lost d) ∧ ∀ k, k ≠ c → t.job k = s.job k)

/-- Registers of the window that hold what is written (R17, R191, R199, R218, R219, R223, R226 to R228, R386, R388, R428, R441, R443): ports
train when enabled and go down when disabled; an enabled queue starts at sequence zero; class weights and ACKTO of zero are
stored as 1; a zero clears a counter of corrected errors; a write of 8 bytes reaches both halves of a register. The model's
choice (log 50): STATUS bit 3 rises when HBM4 and every enabled port have trained, and POWERCAP is stored as written. -/
def Sys2Proof.Parts.ManagementWrites : Prop :=
  ∀ (s : State) (w : Word) (v : Dword) (n k : Nat) (mode : Byte) (voxgo : Bool),
    (∃ t, exec (.portEnable n mode) s = .next t ∧ (t.port n).mode = (mode &&& 7) ||| 0x20 ∧ (t.port n).trained = false ∧
      ∀ m, m ≠ n → t.port m = s.port m) ∧
    (∃ t, exec (.portDisable n mode) s = .next t ∧ (t.port n).mode = mode &&& 7 ∧ (t.port n).trained = false ∧
      ∀ m, m ≠ n → t.port m = s.port m) ∧
    ((s.port n).mode.getLsbD 5 = true → ∃ t, exec (.portTrained n voxgo) s = .next t ∧
      t.port n = { s.port n with trained := true, voxgo := voxgo && (s.port n).mode.getLsbD 2 } ∧
      t.mgmt = { s.mgmt with status :=
        (if s.mgmt.status.getLsbD 2 && t.ports.all (fun x => !x.2.mode.getLsbD 5 || x.2.trained) then s.mgmt.status ||| 8
         else s.mgmt.status) } ∧
      ∀ m, m ≠ n → t.port m = s.port m) ∧
    ((s.port n).mode.getLsbD 5 = false → exec (.portTrained n voxgo) s = .next s) ∧
    ((s.queue n).ctl.getLsbD 3 = false → ∃ t, exec (.queueEnable n w) s = .next t ∧ t = { s with queues := t.queues } ∧
      t.queue n = { s.queue n with ctl := (w ||| 8) &&& 0xFFFFF03F, nextSeq := 0, doneSeq := 0, done := [] } ∧
      ∀ m, m ≠ n → t.queue m = s.queue m) ∧
    ((s.queue n).ctl.getLsbD 3 = true → ∃ t, exec (.queueDisable n w) s = .next t ∧ t = { s with queues := t.queues } ∧
      t.queue n = { s.queue n with ctl := (s.queue n).ctl &&& ~~~(8#32) } ∧ ∀ m, m ≠ n → t.queue m = s.queue m) ∧
    (∃ t, exec (.peerMapWrite n w) s = .next t ∧ (t.peer n).map = w &&& 0x8000007F ∧ ∀ m, m ≠ n → t.peer m = s.peer m) ∧
    (exec (.acktoWrite w) s = .next { s with mgmt := { s.mgmt with ackto := max 1 (w.toNat % 2 ^ 16) } }) ∧
    (∃ t, exec (.portWeightWrite n k mode) s = .next t ∧ Tbl.get 1 (t.port n).weights k = max 1 mode.toNat ∧
      (∀ m, m ≠ k → Tbl.get 1 (t.port n).weights m = Tbl.get 1 (s.port n).weights m) ∧ ∀ m, m ≠ n → t.port m = s.port m) ∧
    (∃ t, exec (.eccCounterClear k w) s = .next t ∧
      (∀ m, Tbl.get 0 t.plat.corrected m = if w = 0 ∧ m = k then 0 else Tbl.get 0 s.plat.corrected m) ∧
      t = { s with plat := { s.plat with corrected := t.plat.corrected } }) ∧
    (exec (.powercapWrite w) s = .next { s with
      mgmt := { s.mgmt with powercap := w.toNat % 2 ^ 13 }
      plat := { s.plat with above := (s.plat.clock == 500 && s.plat.gate == 1 &&
        decide (1000 * min 4200 (max 2000 (w.toNat % 2 ^ 13)) < s.plat.sensors.package)) } }) ∧
    (exec (.mgmtRegisterWrite 0x1000 8 v) s = .next { s with mgmt := { s.mgmt with ctxtab := v } } ∧
     exec (.mgmtRegisterWrite 0x1008 8 v) s = .next { s with mgmt := { s.mgmt with jobtab := v } } ∧
     exec (.mgmtRegisterWrite 0x1010 8 v) s = .next { s with mgmt := { s.mgmt with keytab := v } } ∧
     exec (.mgmtRegisterWrite 0x1030 8 v) s = .next { s with mgmt := { s.mgmt with resynca := v } } ∧
     exec (.mgmtRegisterWrite 0x1050 8 v) s = .next { s with mgmt := { s.mgmt with hladdr := v } } ∧
     exec (.mgmtRegisterWrite 0x000C 4 v) s = .next { s with mgmt := { s.mgmt with rank := v.toNat % 1024 } } ∧
     exec (.mgmtRegisterWrite 0x1020 4 v) s = .next { s with mgmt := { s.mgmt with teniso := v.setWidth 32 &&& 1 } } ∧
     exec (.mgmtRegisterWrite 0x1044 4 v) s = .next { s with mgmt := { s.mgmt with feto := v.toNat % 2 ^ 24 } } ∧
     exec (.mgmtRegisterWrite 0x1048 4 v) s = .next { s with mgmt := { s.mgmt with linkto := v.toNat % 2 ^ 16 } } ∧
     exec (.mgmtRegisterWrite 0x0008 4 v) s = .next s)

/-- Bring-up and the controller's loops (R16, R17, R218, R227, R228, R461): a device reset leaves every register at its reset value,
STATUS bit 0 and the logical core maps; each training sets its bit of STATUS after the one before, the ports' bit 3 when the
last enabled port has trained after HBM4, and HBM4's writes zeros; the clock steps by 25 MHz
within 500 to 850 MHz, the issue gate by one at 500 MHz, and whichever loop finds a junction at 105 °C stops issue until
100 °C. Also by log 50: POWERCAP's limit within 2,000 W and 4,200 W, the clock rising only with the gate at 16, and r = 1
after a thermal stop. -/
def Sys2Proof.Parts.BringUp : Prop :=
  ∀ (s : State) (x : Sensors),
    let limit := 1000 * min 4200 (max 2000 s.mgmt.powercap)
    let draws : Prop := 2300000 < x.coreDraw ∨ 2300000 < x.consumers.getD 0 0 ∨ 480000 < x.consumers.getD 3 0 ∨ limit < x.package
    let stops (t : State) (gate : Nat) : Prop := t.plat.gate =
      if s.plat.gate = 0 ∨ 1050 ≤ x.junction then
        (if 1050 ≤ x.junction then 0 else if s.plat.gate = 0 ∧ x.junction ≤ 1000 then 1 else s.plat.gate)
      else gate
    (∃ t, exec .deviceReset s = .next t ∧
      t = { State.reset with
        agenda := s.agenda, mem := s.mem, badMem := s.badMem, fuses := s.fuses, out := s.out, free := s.free,
        mgmt := { Mgmt.reset with status := 1, coreMap := t.mgmt.coreMap } } ∧
      ∀ (d c p : Nat), d < 4 → c < 160 →
        ((List.range 168).filter (fun k => (Tbl.get fusesDefault s.fuses d).getLsbD k))[c]? = some p →
        Tbl.get 0 t.mgmt.coreMap (256 * d + c) = BitVec.ofNat 8 p) ∧
    (s.mgmt.status.getLsbD 0 = true → s.mgmt.status.getLsbD 1 = false →
      exec .pcieLinkTrained s = .next { s with mgmt := { s.mgmt with status := s.mgmt.status ||| 2 } }) ∧
    (s.mgmt.status.getLsbD 1 = true → s.mgmt.status.getLsbD 2 = false → ∃ t, exec .hbmTrained s = .next t ∧
      t.mgmt = { s.mgmt with status := s.mgmt.status ||| 4 } ∧
      ∀ a, Memory.byte t.mem a = if a < 0xC000000000 then 0 else Memory.byte s.mem a) ∧
    (∀ (n : Nat) (voxgo : Bool), (s.port n).mode.getLsbD 5 = true → ∃ t, exec (.portTrained n voxgo) s = .next t ∧
      (t.port n).trained = true ∧
      (s.mgmt.status.getLsbD 2 = true → t.ports.all (fun y => !y.2.mode.getLsbD 5 || y.2.trained) = true →
        t.mgmt.status = s.mgmt.status ||| 8) ∧
      ((s.mgmt.status.getLsbD 2 = false ∨ t.ports.all (fun y => !y.2.mode.getLsbD 5 || y.2.trained) = false) →
        t.mgmt.status = s.mgmt.status)) ∧
    (∃ t, exec (.clockStep x) s = .next t ∧ stops t s.plat.gate ∧ t.plat.sensors = x ∧
      (draws ∨ 950 < x.junction → t.plat.clock = max 500 (s.plat.clock - 25)) ∧
      (¬ draws → x.junction ≤ 950 → t.plat.clock =
        if s.plat.gate = 16 then min 850 (s.plat.clock + 25) else s.plat.clock)) ∧
    (∃ t, exec (.issueGateStep x) s = .next t ∧ t.plat.clock = s.plat.clock ∧
      stops t (if limit < x.package ∨ 950 < x.junction then
           (if s.plat.clock = 500 then max 1 (s.plat.gate - 1) else s.plat.gate)
         else min 16 (s.plat.gate + 1)) ∧
      t.plat.above = (t.plat.clock == 500 && t.plat.gate == 1 && decide (limit < x.package))) ∧
    (∃ t, exec (.thermalIssueStop x) s = .next t ∧ t.plat.clock = s.plat.clock ∧ stops t s.plat.gate)

/-- The host port, the management window and bring-up. -/
def Obligations.HostAndPlatform : Prop :=
  Parts.HostPort ∧ Parts.ManagementRequests ∧ Parts.ManagementWrites ∧ Parts.BringUp

/-! ### The form of memory, and reset -/

/-- Memory and the scratchpad windows of the resident blocks stand in their canonical form: addresses strictly rising,
no entry equal to what an unlisted byte reads as. -/
def FormKept (s : State) : Prop := Memory.wf s.mem = true ∧ ∀ b ∈ s.blocks, Memory.wf b.spm = true

/-- Every step keeps the canonical form, so that equal memories are equal data after any run. -/
def Obligations.MemoryFormKept : Prop := ∀ s t : State, FormKept s → step s = .next t → FormKept t

/-- Reset (R17, R32, R103, R137, R199, R218, R219, R223, R226 to R228, R428): values that the spec gives, with nothing
resident and nothing listed in memory, whose form is canonical. -/
def Obligations.ResetLeaves : Prop :=
  FormKept State.reset ∧ State.reset.blocks = [] ∧ State.reset.launches = [] ∧ State.reset.time = 0 ∧
  State.reset.mgmt.hlctl = 0x40000000 ∧ State.reset.mgmt.hladdr = 0 ∧
  State.reset.mgmt.hlseq = 0 ∧ State.reset.mgmt.powercap = 4200 ∧ State.reset.mgmt.ackto = 1000 ∧
  State.reset.mgmt.feto = 10000 ∧ State.reset.mgmt.linkto = 10 ∧
  (∀ q, (State.reset.queue q).ctl = 4) ∧ (∀ c, (State.reset.ctx c).ovt = 0x15) ∧
  (∀ p k, (State.reset.port p).mode.getLsbD 5 = false ∧ Tbl.get 1 (State.reset.port p).weights k = 1)
end

