-- ==== Sys2Proof/Laws/Tbl.lean ====
section
/-! SUPPORT. Laws of sparse tables and of byte memory: read after write, and the canonical form kept. -/

namespace Sys2Proof.Machine

variable {α : Type}

/-! ### Canonical form -/

/-- Keys above a bound rise from every lower bound too. -/
theorem Tbl.rising_weaken {a b : Nat} (h : a ≤ b) {t : Tbl α} (ht : Tbl.rising (some b) t = true) :
    Tbl.rising (some a) t = true := by
  cases t with
  | nil => rfl
  | cons e t =>
    simp only [Tbl.rising, Bool.and_eq_true, decide_eq_true_eq] at ht ⊢
    exact ⟨by omega, ht.2⟩

/-- Keys that rise from a bound rise. -/
theorem Tbl.rising_none {a : Nat} {t : Tbl α} (ht : Tbl.rising (some a) t = true) : Tbl.rising none t = true := by
  cases t with
  | nil => rfl
  | cons e t =>
    simp only [Tbl.rising, Bool.and_eq_true] at ht
    exact ht.2

/-- The bound of a table's keys, with no bound as the lowest. -/
theorem Tbl.rising_tail {lo : Option Nat} {k : Nat} {v : α} {t : Tbl α} (h : Tbl.rising lo ((k, v) :: t) = true) :
    Tbl.rising (some k) t = true := by
  cases lo with
  | none => exact h
  | some a =>
    simp only [Tbl.rising, Bool.and_eq_true] at h
    exact h.2

theorem Tbl.rising_insert {k : Nat} {v : α} {t : Tbl α} {lo : Option Nat} (hk : ∀ a, lo = some a → a < k)
    (h : Tbl.rising lo t = true) : Tbl.rising lo (Tbl.insert t k v) = true := by
  induction t generalizing lo with
  | nil =>
    cases lo with
    | none => rfl
    | some a => simp [Tbl.insert, Tbl.rising, hk a rfl]
  | cons e t ih =>
    obtain ⟨k', v'⟩ := e
    have ht := Tbl.rising_tail h
    by_cases h1 : k < k'
    · cases lo with
      | none => simp [Tbl.insert, h1, Tbl.rising, ht]
      | some a => simp [Tbl.insert, h1, Tbl.rising, ht, hk a rfl]
    · by_cases h2 : k = k'
      · subst h2
        cases lo with
        | none => simp [Tbl.insert, Tbl.rising, ht]
        | some a => simp [Tbl.insert, Tbl.rising, ht, hk a rfl]
      · have hlt : k' < k := by omega
        have := ih (lo := some k') (by intro a ha; cases ha; exact hlt) ht
        cases lo with
        | none => simp [Tbl.insert, h1, h2, Tbl.rising, this]
        | some a =>
          simp only [Tbl.rising, Bool.and_eq_true, decide_eq_true_eq] at h
          simp [Tbl.insert, h1, h2, Tbl.rising, this, h.1]

theorem Tbl.rising_filter {p : Nat × α → Bool} {t : Tbl α} {lo : Option Nat} (h : Tbl.rising lo t = true) :
    Tbl.rising lo (t.filter p) = true := by
  induction t generalizing lo with
  | nil => simpa using h
  | cons e t ih =>
    obtain ⟨k', v'⟩ := e
    have ht := Tbl.rising_tail h
    by_cases hp : p (k', v') = true
    · have := ih ht
      cases lo with
      | none => simp [List.filter, hp, Tbl.rising, this]
      | some a =>
        simp only [Tbl.rising, Bool.and_eq_true, decide_eq_true_eq] at h
        simp [List.filter, hp, Tbl.rising, this, h.1]
    · simp only [Bool.not_eq_true] at hp
      simp only [List.filter, hp]
      cases lo with
      | none => exact ih (Tbl.rising_none ht)
      | some a =>
        simp only [Tbl.rising, Bool.and_eq_true, decide_eq_true_eq] at h
        exact ih (Tbl.rising_weaken (Nat.le_of_lt h.1) ht)

theorem Tbl.mem_insert {k : Nat} {v : α} {t : Tbl α} {e : Nat × α} (h : e ∈ Tbl.insert t k v) :
    e = (k, v) ∨ e ∈ t := by
  induction t with
  | nil => simpa [Tbl.insert] using h
  | cons e' t ih =>
    obtain ⟨k', v'⟩ := e'
    simp only [Tbl.insert] at h
    split at h
    · simpa using h
    · split at h
      · rcases List.mem_cons.mp h with h | h
        · exact .inl h
        · exact .inr (List.mem_cons_of_mem _ h)
      · rcases List.mem_cons.mp h with h | h
        · exact .inr (h ▸ List.mem_cons_self)
        · exact (ih h).imp_right (List.mem_cons_of_mem _)

/-- A write keeps the canonical form. -/
theorem Tbl.wf_set [DecidableEq α] {d : α} {t : Tbl α} (h : Tbl.wf d t = true) (k : Nat) (v : α) :
    Tbl.wf d (Tbl.set d t k v) = true := by
  simp only [Tbl.wf, Bool.and_eq_true, List.all_eq_true, Bool.not_eq_true', decide_eq_false_iff_not] at h ⊢
  unfold Tbl.set
  split
  · exact ⟨Tbl.rising_filter h.1, fun e he => h.2 e ((List.mem_filter.mp he).1)⟩
  · rename_i hv
    refine ⟨Tbl.rising_insert (by simp) h.1, fun e he => ?_⟩
    rcases Tbl.mem_insert he with rfl | he
    · exact hv
    · exact h.2 e he

/-! ### Read after write -/

theorem Tbl.erase_cons (k k' : Nat) (v : α) (t : Tbl α) :
    Tbl.erase ((k', v) :: t) k = if k' = k then Tbl.erase t k else (k', v) :: Tbl.erase t k := by
  by_cases h : k' = k <;> simp [Tbl.erase, h]

theorem Tbl.get_erase_same (d : α) (t : Tbl α) (k : Nat) : Tbl.get d (Tbl.erase t k) k = d := by
  induction t with
  | nil => rfl
  | cons e t ih =>
    rw [Tbl.erase_cons]
    split
    · exact ih
    · rename_i h
      simpa [Tbl.get, Ne.symm h] using ih

theorem Tbl.get_erase_other (d : α) (t : Tbl α) {k k' : Nat} (h : k' ≠ k) :
    Tbl.get d (Tbl.erase t k) k' = Tbl.get d t k' := by
  induction t with
  | nil => rfl
  | cons e t ih =>
    rw [Tbl.erase_cons]
    split
    · rename_i hj
      simpa [Tbl.get, hj, h] using ih
    · by_cases h' : k' = e.1
      · simp [Tbl.get, h']
      · simpa [Tbl.get, h'] using ih

theorem Tbl.get_insert_same (d : α) (t : Tbl α) (k : Nat) (v : α) : Tbl.get d (Tbl.insert t k v) k = v := by
  induction t with
  | nil => simp [Tbl.insert, Tbl.get]
  | cons e t ih =>
    obtain ⟨k', v'⟩ := e
    simp only [Tbl.insert]
    split
    · simp [Tbl.get]
    · split
      · simp [Tbl.get]
      · rename_i h
        simpa [Tbl.get, h] using ih

theorem Tbl.get_insert_other (d : α) (t : Tbl α) {k k' : Nat} (v : α) (h : k' ≠ k) :
    Tbl.get d (Tbl.insert t k v) k' = Tbl.get d t k' := by
  induction t with
  | nil => simp [Tbl.insert, Tbl.get, h]
  | cons e t ih =>
    obtain ⟨j, v'⟩ := e
    simp only [Tbl.insert]
    split
    · simp [Tbl.get, h]
    · split
      · rename_i h2
        subst h2
        simp [Tbl.get, h]
      · by_cases h' : k' = j
        · simp [Tbl.get, h']
        · simpa [Tbl.get, h'] using ih

/-- A read after a write to the same key gives the value written. -/
@[simp] theorem Tbl.get_set_same [DecidableEq α] (d : α) (t : Tbl α) (k : Nat) (v : α) :
    Tbl.get d (Tbl.set d t k v) k = v := by
  unfold Tbl.set
  split
  · rename_i h
    rw [h]
    exact Tbl.get_erase_same d t k
  · exact Tbl.get_insert_same d t k v

/-- A write leaves every other key alone. -/
theorem Tbl.get_set_other [DecidableEq α] (d : α) (t : Tbl α) {k k' : Nat} (v : α) (h : k' ≠ k) :
    Tbl.get d (Tbl.set d t k v) k' = Tbl.get d t k' := by
  unfold Tbl.set
  split
  · exact Tbl.get_erase_other d t h
  · exact Tbl.get_insert_other d t v h

/-! ### Memory -/

@[simp] theorem Memory.byte_setByte_same (m : Memory) (a : Nat) (b : Byte) : (m.setByte a b).byte a = b :=
  Tbl.get_set_same 0 m a b

theorem Memory.byte_setByte_other (m : Memory) {a a' : Nat} (b : Byte) (h : a' ≠ a) :
    (m.setByte a b).byte a' = m.byte a' := Tbl.get_set_other 0 m b h

/-- Storing a byte keeps the canonical form. -/
theorem Memory.wf_setByte {m : Memory} (h : m.wf = true) (a : Nat) (b : Byte) : (m.setByte a b).wf = true :=
  Tbl.wf_set h a b

/-- Storing bytes keeps the canonical form. -/
theorem Memory.wf_setBytes {m : Memory} (h : m.wf = true) (a : Nat) (bs : List Byte) :
    (m.setBytes a bs).wf = true := by
  induction bs generalizing m a with
  | nil => exact h
  | cons b bs ih => exact ih (Memory.wf_setByte h a b) (a + 1)

/-- Storing a number keeps the canonical form. -/
theorem Memory.wf_write {m : Memory} (h : m.wf = true) (a n v : Nat) : (m.write a n v).wf = true :=
  Memory.wf_setBytes h a _

/-- A store leaves every byte outside its range alone. -/
theorem Memory.byte_setBytes_other (m : Memory) (a : Nat) (bs : List Byte) {a' : Nat}
    (h : a' < a ∨ a + bs.length ≤ a') : (m.setBytes a bs).byte a' = m.byte a' := by
  induction bs generalizing m a with
  | nil => rfl
  | cons b bs ih =>
    simp only [List.length_cons] at h
    rw [Memory.setBytes, ih _ _ (by omega), Memory.byte_setByte_other _ _ (by omega)]

/-- A store gives each byte of its range the byte stored there. -/
theorem Memory.byte_setBytes (m : Memory) (a : Nat) (bs : List Byte) {i : Nat} (h : i < bs.length) :
    (m.setBytes a bs).byte (a + i) = bs[i] := by
  induction bs generalizing m a i with
  | nil => simp at h
  | cons b bs ih =>
    rw [Memory.setBytes]
    cases i with
    | zero =>
      rw [Memory.byte_setBytes_other _ _ _ (by omega)]
      simp
    | succ i =>
      have := ih (m := m.setByte a b) (a := a + 1) (i := i) (by simpa using h)
      simpa [Nat.add_assoc, Nat.add_comm 1 i] using this

@[simp] theorem length_leBytes (v n : Nat) : (leBytes v n).length = n := by
  induction n generalizing v with
  | zero => rfl
  | succ n ih => simp [leBytes, ih]

/-- The bytes of a number give the number back, cut to their width. -/
theorem leNat_leBytes (v n : Nat) : leNat (leBytes v n) = v % 256 ^ n := by
  induction n generalizing v with
  | zero => simp [leBytes, leNat, Nat.mod_one]
  | succ n ih =>
    simp only [leBytes, leNat, ih, BitVec.toNat_ofNat]
    rw [Nat.pow_succ' (m := 256) (n := n), Nat.mod_mul]

/-- A number read where it was written is that number, cut to its width. -/
theorem Memory.read_write (m : Memory) (a n v : Nat) : (m.write a n v).read a n = v % 256 ^ n := by
  have key : ∀ (bs : List Byte) (m : Memory) (a : Nat), (m.setBytes a bs).bytes a bs.length = bs := by
    intro bs
    induction bs with
    | nil => intro m a; rfl
    | cons b bs ih =>
      intro m a
      simp only [List.length_cons, Memory.bytes, Memory.setBytes]
      rw [ih, Memory.byte_setBytes_other _ _ _ (by omega)]
      simp
  have := key (leBytes v n) m a
  rw [length_leBytes] at this
  rw [Memory.read, Memory.write, this, leNat_leBytes]

end Sys2Proof.Machine
end

