-- ==== Sys2Proof/Laws/Fabric.lean ====
section
/-! SUPPORT. Reads after writes of the fabric's tables, and what sending a packet leaves alone. -/

namespace Sys2Proof.Machine

variable (s : State)

@[simp] theorem State.job_setJob (j : Nat) (x : Job) : (s.setJob j x).job j = x := Tbl.get_set_same _ _ _ _
theorem State.job_setJob_other {j k : Nat} (x : Job) (h : k ≠ j) : (s.setJob j x).job k = s.job k :=
  Tbl.get_set_other _ _ _ h
@[simp] theorem State.peer_setPeer (r : Nat) (x : Peer) : (s.setPeer r x).peer r = x := Tbl.get_set_same _ _ _ _
theorem State.peer_setPeer_other {r k : Nat} (x : Peer) (h : k ≠ r) : (s.setPeer r x).peer k = s.peer k :=
  Tbl.get_set_other _ _ _ h
@[simp] theorem State.port_setPort (n : Nat) (x : Port) : (s.setPort n x).port n = x := Tbl.get_set_same _ _ _ _
theorem State.port_setPort_other {n k : Nat} (x : Port) (h : k ≠ n) : (s.setPort n x).port k = s.port k :=
  Tbl.get_set_other _ _ _ h

@[simp] theorem State.job_setPeer (r j : Nat) (x : Peer) : (s.setPeer r x).job j = s.job j := rfl
@[simp] theorem State.job_setPort (n j : Nat) (x : Port) : (s.setPort n x).job j = s.job j := rfl
@[simp] theorem State.peer_setJob (j r : Nat) (x : Job) : (s.setJob j x).peer r = s.peer r := rfl
@[simp] theorem State.peer_setPort (n r : Nat) (x : Port) : (s.setPort n x).peer r = s.peer r := rfl
@[simp] theorem State.port_setJob (j n : Nat) (x : Job) : (s.setJob j x).port n = s.port n := rfl
@[simp] theorem State.port_setPeer (r n : Nat) (x : Peer) : (s.setPeer r x).port n = s.port n := rfl
@[simp] theorem State.mem_setJob (j : Nat) (x : Job) : (s.setJob j x).mem = s.mem := rfl
@[simp] theorem State.mem_setPeer (r : Nat) (x : Peer) : (s.setPeer r x).mem = s.mem := rfl
@[simp] theorem State.mem_setPort (n : Nat) (x : Port) : (s.setPort n x).mem = s.mem := rfl

@[simp] theorem State.job_control (dst j : Nat) (c : Ctl) : (s.control dst c).job j = s.job j := rfl
@[simp] theorem State.peer_control (dst r : Nat) (c : Ctl) : (s.control dst c).peer r = s.peer r := rfl
@[simp] theorem State.mem_control (dst : Nat) (c : Ctl) : (s.control dst c).mem = s.mem := rfl
@[simp] theorem State.blocks_control (dst : Nat) (c : Ctl) : (s.control dst c).blocks = s.blocks := rfl
@[simp] theorem State.launches_control (dst : Nat) (c : Ctl) : (s.control dst c).launches = s.launches := rfl
@[simp] theorem State.out_control (dst : Nat) (c : Ctl) : (s.control dst c).out = s.out := rfl
@[simp] theorem State.heldq_control (dst : Nat) (c : Ctl) :
    (s.control dst c).heldq = s.heldq ++ [⟨dst, none, none, .control dst c⟩] := rfl

/-- A count at one DFI rises by one, and no other changes. -/
@[simp] theorem Tbl.get_raise (t : Tbl Nat) (d : Nat) : Tbl.get 0 (t.raise d) d = Tbl.get 0 t d + 1 :=
  Tbl.get_set_same _ _ _ _
theorem Tbl.get_raise_other (t : Tbl Nat) {d k : Nat} (h : k ≠ d) : Tbl.get 0 (t.raise d) k = Tbl.get 0 t k :=
  Tbl.get_set_other _ _ _ h

/-- What a consumed request changes: C of its job at the DFI of its port (R13, R205). -/
theorem State.consume_job (j port : Nat) :
    (s.consume j port).job j = { s.job j with cons := (s.job j).cons.raise (dfiOf port) } := State.job_setJob _ _ _

/-- What a lost request changes: L of its job at the DFI of its port (R437). -/
theorem State.lose_job (j port : Nat) :
    (s.lose j port).job j = { s.job j with lost := (s.job j).lost.raise (dfiOf port) } := State.job_setJob _ _ _

/-- A turn of the arbiter with nothing to send through a class leaves it, and its deficit is forfeited (R199). -/
theorem State.sendClass_empty {port cls k : Nat} (d : Nat) (h : s.classWaits port cls = false) :
    s.sendClass port cls (k + 1) d = (s, 0) := by simp [State.sendClass, h]

end Sys2Proof.Machine
end

