-- ==== Sys2Proof/Laws/State.lean ====
section
/-! SUPPORT. What each update of the state leaves alone, field by field, and what the present group reads as after
it. -/

namespace Sys2Proof.Machine

variable (s : State)

@[simp] theorem State.setBlk_cur (b : Block) : (s.setBlk b).cur = s.cur := rfl
@[simp] theorem State.modBlk_cur (f : Block → Block) : (s.modBlk f).cur = s.cur := rfl
@[simp] theorem State.setGrp_cur (g : Group) : (s.setGrp g).cur = s.cur := rfl
@[simp] theorem State.modGrp_cur (f : Group → Group) : (s.modGrp f).cur = s.cur := rfl
@[simp] theorem State.setBlk_agenda (b : Block) : (s.setBlk b).agenda = s.agenda := rfl
@[simp] theorem State.modBlk_agenda (f : Block → Block) : (s.modBlk f).agenda = s.agenda := rfl
@[simp] theorem State.setGrp_agenda (g : Group) : (s.setGrp g).agenda = s.agenda := rfl
@[simp] theorem State.modGrp_agenda (f : Group → Group) : (s.modGrp f).agenda = s.agenda := rfl
@[simp] theorem State.setBlk_mem (b : Block) : (s.setBlk b).mem = s.mem := rfl
@[simp] theorem State.modBlk_mem (f : Block → Block) : (s.modBlk f).mem = s.mem := rfl
@[simp] theorem State.setGrp_mem (g : Group) : (s.setGrp g).mem = s.mem := rfl
@[simp] theorem State.modGrp_mem (f : Group → Group) : (s.modGrp f).mem = s.mem := rfl
@[simp] theorem State.setBlk_badMem (b : Block) : (s.setBlk b).badMem = s.badMem := rfl
@[simp] theorem State.modBlk_badMem (f : Block → Block) : (s.modBlk f).badMem = s.badMem := rfl
@[simp] theorem State.setGrp_badMem (g : Group) : (s.setGrp g).badMem = s.badMem := rfl
@[simp] theorem State.modGrp_badMem (f : Group → Group) : (s.modGrp f).badMem = s.badMem := rfl
@[simp] theorem State.setBlk_eccFail (b : Block) : (s.setBlk b).eccFail = s.eccFail := rfl
@[simp] theorem State.modBlk_eccFail (f : Block → Block) : (s.modBlk f).eccFail = s.eccFail := rfl
@[simp] theorem State.setGrp_eccFail (g : Group) : (s.setGrp g).eccFail = s.eccFail := rfl
@[simp] theorem State.modGrp_eccFail (f : Group → Group) : (s.modGrp f).eccFail = s.eccFail := rfl
@[simp] theorem State.setBlk_l1 (b : Block) : (s.setBlk b).l1 = s.l1 := rfl
@[simp] theorem State.modBlk_l1 (f : Block → Block) : (s.modBlk f).l1 = s.l1 := rfl
@[simp] theorem State.setGrp_l1 (g : Group) : (s.setGrp g).l1 = s.l1 := rfl
@[simp] theorem State.modGrp_l1 (f : Group → Group) : (s.modGrp f).l1 = s.l1 := rfl
@[simp] theorem State.setBlk_l2 (b : Block) : (s.setBlk b).l2 = s.l2 := rfl
@[simp] theorem State.modBlk_l2 (f : Block → Block) : (s.modBlk f).l2 = s.l2 := rfl
@[simp] theorem State.setGrp_l2 (g : Group) : (s.setGrp g).l2 = s.l2 := rfl
@[simp] theorem State.modGrp_l2 (f : Group → Group) : (s.modGrp f).l2 = s.l2 := rfl
@[simp] theorem State.setBlk_tlb (b : Block) : (s.setBlk b).tlb = s.tlb := rfl
@[simp] theorem State.modBlk_tlb (f : Block → Block) : (s.modBlk f).tlb = s.tlb := rfl
@[simp] theorem State.setGrp_tlb (g : Group) : (s.setGrp g).tlb = s.tlb := rfl
@[simp] theorem State.modGrp_tlb (f : Group → Group) : (s.modGrp f).tlb = s.tlb := rfl
@[simp] theorem State.setBlk_used (b : Block) : (s.setBlk b).used = s.used := rfl
@[simp] theorem State.modBlk_used (f : Block → Block) : (s.modBlk f).used = s.used := rfl
@[simp] theorem State.setGrp_used (g : Group) : (s.setGrp g).used = s.used := rfl
@[simp] theorem State.modGrp_used (f : Group → Group) : (s.modGrp f).used = s.used := rfl
@[simp] theorem State.setBlk_saved (b : Block) : (s.setBlk b).saved = s.saved := rfl
@[simp] theorem State.modBlk_saved (f : Block → Block) : (s.modBlk f).saved = s.saved := rfl
@[simp] theorem State.setGrp_saved (g : Group) : (s.setGrp g).saved = s.saved := rfl
@[simp] theorem State.modGrp_saved (f : Group → Group) : (s.modGrp f).saved = s.saved := rfl
@[simp] theorem State.setBlk_launches (b : Block) : (s.setBlk b).launches = s.launches := rfl
@[simp] theorem State.modBlk_launches (f : Block → Block) : (s.modBlk f).launches = s.launches := rfl
@[simp] theorem State.setGrp_launches (g : Group) : (s.setGrp g).launches = s.launches := rfl
@[simp] theorem State.modGrp_launches (f : Group → Group) : (s.modGrp f).launches = s.launches := rfl
@[simp] theorem State.setBlk_queues (b : Block) : (s.setBlk b).queues = s.queues := rfl
@[simp] theorem State.modBlk_queues (f : Block → Block) : (s.modBlk f).queues = s.queues := rfl
@[simp] theorem State.setGrp_queues (g : Group) : (s.setGrp g).queues = s.queues := rfl
@[simp] theorem State.modGrp_queues (f : Group → Group) : (s.modGrp f).queues = s.queues := rfl
@[simp] theorem State.setBlk_ctxs (b : Block) : (s.setBlk b).ctxs = s.ctxs := rfl
@[simp] theorem State.modBlk_ctxs (f : Block → Block) : (s.modBlk f).ctxs = s.ctxs := rfl
@[simp] theorem State.setGrp_ctxs (g : Group) : (s.setGrp g).ctxs = s.ctxs := rfl
@[simp] theorem State.modGrp_ctxs (f : Group → Group) : (s.modGrp f).ctxs = s.ctxs := rfl
@[simp] theorem State.setBlk_turns (b : Block) : (s.setBlk b).turns = s.turns := rfl
@[simp] theorem State.modBlk_turns (f : Block → Block) : (s.modBlk f).turns = s.turns := rfl
@[simp] theorem State.setGrp_turns (g : Group) : (s.setGrp g).turns = s.turns := rfl
@[simp] theorem State.modGrp_turns (f : Group → Group) : (s.modGrp f).turns = s.turns := rfl
@[simp] theorem State.setBlk_rounds (b : Block) : (s.setBlk b).rounds = s.rounds := rfl
@[simp] theorem State.modBlk_rounds (f : Block → Block) : (s.modBlk f).rounds = s.rounds := rfl
@[simp] theorem State.setGrp_rounds (g : Group) : (s.setGrp g).rounds = s.rounds := rfl
@[simp] theorem State.modGrp_rounds (f : Group → Group) : (s.modGrp f).rounds = s.rounds := rfl
@[simp] theorem State.setBlk_gangAcks (b : Block) : (s.setBlk b).gangAcks = s.gangAcks := rfl
@[simp] theorem State.modBlk_gangAcks (f : Block → Block) : (s.modBlk f).gangAcks = s.gangAcks := rfl
@[simp] theorem State.setGrp_gangAcks (g : Group) : (s.setGrp g).gangAcks = s.gangAcks := rfl
@[simp] theorem State.modGrp_gangAcks (f : Group → Group) : (s.modGrp f).gangAcks = s.gangAcks := rfl
@[simp] theorem State.setBlk_gangAborts (b : Block) : (s.setBlk b).gangAborts = s.gangAborts := rfl
@[simp] theorem State.setBlk_gangEnded (b : Block) : (s.setBlk b).gangEnded = s.gangEnded := rfl
@[simp] theorem State.setBlk_heldq (b : Block) : (s.setBlk b).heldq = s.heldq := rfl
@[simp] theorem State.setBlk_rings (b : Block) : (s.setBlk b).rings = s.rings := rfl
@[simp] theorem State.modBlk_gangAborts (f : Block → Block) : (s.modBlk f).gangAborts = s.gangAborts := rfl
@[simp] theorem State.modBlk_gangEnded (f : Block → Block) : (s.modBlk f).gangEnded = s.gangEnded := rfl
@[simp] theorem State.modBlk_heldq (f : Block → Block) : (s.modBlk f).heldq = s.heldq := rfl
@[simp] theorem State.modBlk_rings (f : Block → Block) : (s.modBlk f).rings = s.rings := rfl
@[simp] theorem State.setGrp_gangAborts (g : Group) : (s.setGrp g).gangAborts = s.gangAborts := rfl
@[simp] theorem State.setGrp_gangEnded (g : Group) : (s.setGrp g).gangEnded = s.gangEnded := rfl
@[simp] theorem State.setGrp_heldq (g : Group) : (s.setGrp g).heldq = s.heldq := rfl
@[simp] theorem State.setGrp_rings (g : Group) : (s.setGrp g).rings = s.rings := rfl
@[simp] theorem State.modGrp_gangAborts (f : Group → Group) : (s.modGrp f).gangAborts = s.gangAborts := rfl
@[simp] theorem State.modGrp_gangEnded (f : Group → Group) : (s.modGrp f).gangEnded = s.gangEnded := rfl
@[simp] theorem State.modGrp_heldq (f : Group → Group) : (s.modGrp f).heldq = s.heldq := rfl
@[simp] theorem State.modGrp_rings (f : Group → Group) : (s.modGrp f).rings = s.rings := rfl
@[simp] theorem State.setBlk_dispatchCount (b : Block) : (s.setBlk b).dispatchCount = s.dispatchCount := rfl
@[simp] theorem State.modBlk_dispatchCount (f : Block → Block) : (s.modBlk f).dispatchCount = s.dispatchCount := rfl
@[simp] theorem State.setGrp_dispatchCount (g : Group) : (s.setGrp g).dispatchCount = s.dispatchCount := rfl
@[simp] theorem State.modGrp_dispatchCount (f : Group → Group) : (s.modGrp f).dispatchCount = s.dispatchCount := rfl
@[simp] theorem State.setBlk_jobs (b : Block) : (s.setBlk b).jobs = s.jobs := rfl
@[simp] theorem State.modBlk_jobs (f : Block → Block) : (s.modBlk f).jobs = s.jobs := rfl
@[simp] theorem State.setGrp_jobs (g : Group) : (s.setGrp g).jobs = s.jobs := rfl
@[simp] theorem State.modGrp_jobs (f : Group → Group) : (s.modGrp f).jobs = s.jobs := rfl
@[simp] theorem State.setBlk_peers (b : Block) : (s.setBlk b).peers = s.peers := rfl
@[simp] theorem State.modBlk_peers (f : Block → Block) : (s.modBlk f).peers = s.peers := rfl
@[simp] theorem State.setGrp_peers (g : Group) : (s.setGrp g).peers = s.peers := rfl
@[simp] theorem State.modGrp_peers (f : Group → Group) : (s.modGrp f).peers = s.peers := rfl
@[simp] theorem State.setBlk_ports (b : Block) : (s.setBlk b).ports = s.ports := rfl
@[simp] theorem State.modBlk_ports (f : Block → Block) : (s.modBlk f).ports = s.ports := rfl
@[simp] theorem State.setGrp_ports (g : Group) : (s.setGrp g).ports = s.ports := rfl
@[simp] theorem State.modGrp_ports (f : Group → Group) : (s.modGrp f).ports = s.ports := rfl
@[simp] theorem State.setBlk_reqs (b : Block) : (s.setBlk b).reqs = s.reqs := rfl
@[simp] theorem State.modBlk_reqs (f : Block → Block) : (s.modBlk f).reqs = s.reqs := rfl
@[simp] theorem State.setGrp_reqs (g : Group) : (s.setGrp g).reqs = s.reqs := rfl
@[simp] theorem State.modGrp_reqs (f : Group → Group) : (s.modGrp f).reqs = s.reqs := rfl
@[simp] theorem State.setBlk_chunks (b : Block) : (s.setBlk b).chunks = s.chunks := rfl
@[simp] theorem State.modBlk_chunks (f : Block → Block) : (s.modBlk f).chunks = s.chunks := rfl
@[simp] theorem State.setGrp_chunks (g : Group) : (s.setGrp g).chunks = s.chunks := rfl
@[simp] theorem State.modGrp_chunks (f : Group → Group) : (s.modGrp f).chunks = s.chunks := rfl
@[simp] theorem State.setBlk_msgs (b : Block) : (s.setBlk b).msgs = s.msgs := rfl
@[simp] theorem State.setBlk_loopResp (b : Block) : (s.setBlk b).loopResp = s.loopResp := rfl
@[simp] theorem State.modBlk_msgs (f : Block → Block) : (s.modBlk f).msgs = s.msgs := rfl
@[simp] theorem State.modBlk_loopResp (f : Block → Block) : (s.modBlk f).loopResp = s.loopResp := rfl
@[simp] theorem State.setGrp_msgs (g : Group) : (s.setGrp g).msgs = s.msgs := rfl
@[simp] theorem State.setGrp_loopResp (g : Group) : (s.setGrp g).loopResp = s.loopResp := rfl
@[simp] theorem State.modGrp_msgs (f : Group → Group) : (s.modGrp f).msgs = s.msgs := rfl
@[simp] theorem State.modGrp_loopResp (f : Group → Group) : (s.modGrp f).loopResp = s.loopResp := rfl
@[simp] theorem State.setBlk_out (b : Block) : (s.setBlk b).out = s.out := rfl
@[simp] theorem State.modBlk_out (f : Block → Block) : (s.modBlk f).out = s.out := rfl
@[simp] theorem State.setGrp_out (g : Group) : (s.setGrp g).out = s.out := rfl
@[simp] theorem State.modGrp_out (f : Group → Group) : (s.modGrp f).out = s.out := rfl
@[simp] theorem State.setBlk_mgmt (b : Block) : (s.setBlk b).mgmt = s.mgmt := rfl
@[simp] theorem State.modBlk_mgmt (f : Block → Block) : (s.modBlk f).mgmt = s.mgmt := rfl
@[simp] theorem State.setGrp_mgmt (g : Group) : (s.setGrp g).mgmt = s.mgmt := rfl
@[simp] theorem State.modGrp_mgmt (f : Group → Group) : (s.modGrp f).mgmt = s.mgmt := rfl
@[simp] theorem State.setBlk_plat (b : Block) : (s.setBlk b).plat = s.plat := rfl
@[simp] theorem State.modBlk_plat (f : Block → Block) : (s.modBlk f).plat = s.plat := rfl
@[simp] theorem State.setGrp_plat (g : Group) : (s.setGrp g).plat = s.plat := rfl
@[simp] theorem State.modGrp_plat (f : Group → Group) : (s.modGrp f).plat = s.plat := rfl
@[simp] theorem State.setBlk_fuses (b : Block) : (s.setBlk b).fuses = s.fuses := rfl
@[simp] theorem State.modBlk_fuses (f : Block → Block) : (s.modBlk f).fuses = s.fuses := rfl
@[simp] theorem State.setGrp_fuses (g : Group) : (s.setGrp g).fuses = s.fuses := rfl
@[simp] theorem State.modGrp_fuses (f : Group → Group) : (s.modGrp f).fuses = s.fuses := rfl
@[simp] theorem State.setBlk_time (b : Block) : (s.setBlk b).time = s.time := rfl
@[simp] theorem State.modBlk_time (f : Block → Block) : (s.modBlk f).time = s.time := rfl
@[simp] theorem State.setGrp_time (g : Group) : (s.setGrp g).time = s.time := rfl
@[simp] theorem State.modGrp_time (f : Group → Group) : (s.modGrp f).time = s.time := rfl
@[simp] theorem State.setBlk_clock (b : Block) : (s.setBlk b).clock = s.clock := rfl
@[simp] theorem State.modBlk_clock (f : Block → Block) : (s.modBlk f).clock = s.clock := rfl
@[simp] theorem State.setGrp_clock (g : Group) : (s.setGrp g).clock = s.clock := rfl
@[simp] theorem State.modGrp_clock (f : Group → Group) : (s.modGrp f).clock = s.clock := rfl
@[simp] theorem State.setBlk_free (b : Block) : (s.setBlk b).free = s.free := rfl
@[simp] theorem State.modBlk_free (f : Block → Block) : (s.modBlk f).free = s.free := rfl
@[simp] theorem State.setGrp_free (g : Group) : (s.setGrp g).free = s.free := rfl
@[simp] theorem State.modGrp_free (f : Group → Group) : (s.modGrp f).free = s.free := rfl

variable (g : Group)

@[simp] theorem Group.setS_num (n : Nat) (w : Word) : (g.setS n w).num = g.num := rfl
@[simp] theorem Group.setS_slot (n : Nat) (w : Word) : (g.setS n w).slot = g.slot := rfl
@[simp] theorem Group.setS_active (n : Nat) (w : Word) : (g.setS n w).active = g.active := rfl
@[simp] theorem Group.setS_vregs (n : Nat) (w : Word) : (g.setS n w).vregs = g.vregs := rfl
@[simp] theorem Group.setS_preds (n : Nat) (w : Word) : (g.setS n w).preds = g.preds := rfl
@[simp] theorem Group.setS_oregs (n : Nat) (w : Word) : (g.setS n w).oregs = g.oregs := rfl
@[simp] theorem Group.setS_lt0 (n : Nat) (w : Word) : (g.setS n w).lt0 = g.lt0 := rfl
@[simp] theorem Group.setS_lt1 (n : Nat) (w : Word) : (g.setS n w).lt1 = g.lt1 := rfl
@[simp] theorem Group.setS_latchOnly (n : Nat) (w : Word) : (g.setS n w).latchOnly = g.latchOnly := rfl
@[simp] theorem Group.setS_quads (n : Nat) (w : Word) : (g.setS n w).quads = g.quads := rfl
@[simp] theorem Group.setS_issues (n : Nat) (w : Word) : (g.setS n w).issues = g.issues := rfl
@[simp] theorem Group.setS_helper (n : Nat) (w : Word) : (g.setS n w).helper = g.helper := rfl
@[simp] theorem Group.setS_gmr (n : Nat) (w : Word) : (g.setS n w).gmr = g.gmr := rfl
@[simp] theorem Group.setS_mxa (n : Nat) (w : Word) : (g.setS n w).mxa = g.mxa := rfl
@[simp] theorem Group.setS_hvec (n : Nat) (w : Word) : (g.setS n w).hvec = g.hvec := rfl
@[simp] theorem Group.setS_hmaskr (n : Nat) (w : Word) : (g.setS n w).hmaskr = g.hmaskr := rfl
@[simp] theorem Group.setS_trec0 (n : Nat) (w : Word) : (g.setS n w).trec0 = g.trec0 := rfl
@[simp] theorem Group.setS_trec1 (n : Nat) (w : Word) : (g.setS n w).trec1 = g.trec1 := rfl
@[simp] theorem Group.setS_trec2 (n : Nat) (w : Word) : (g.setS n w).trec2 = g.trec2 := rfl
@[simp] theorem Group.setS_trec3 (n : Nat) (w : Word) : (g.setS n w).trec3 = g.trec3 := rfl
@[simp] theorem Group.setS_ecnt (n : Nat) (w : Word) : (g.setS n w).ecnt = g.ecnt := rfl
@[simp] theorem Group.setS_ecsel (n : Nat) (w : Word) : (g.setS n w).ecsel = g.ecsel := rfl
@[simp] theorem Group.setS_timeCap (n : Nat) (w : Word) : (g.setS n w).timeCap = g.timeCap := rfl
@[simp] theorem Group.setS_arrivals (n : Nat) (w : Word) : (g.setS n w).arrivals = g.arrivals := rfl
@[simp] theorem Group.setS_wait (n : Nat) (w : Word) : (g.setS n w).wait = g.wait := rfl
@[simp] theorem Group.setS_part (n : Nat) (w : Word) : (g.setS n w).part = g.part := rfl
@[simp] theorem Group.setS_waitSince (n : Nat) (w : Word) : (g.setS n w).waitSince = g.waitSince := rfl
@[simp] theorem Group.setS_readyAt (n : Nat) (w : Word) : (g.setS n w).readyAt = g.readyAt := rfl
@[simp] theorem Group.setS_lastIssue (n : Nat) (w : Word) : (g.setS n w).lastIssue = g.lastIssue := rfl
@[simp] theorem Group.setS_tried (n : Nat) (w : Word) : (g.setS n w).tried = g.tried := rfl
@[simp] theorem Group.setS_stallUntil (n : Nat) (w : Word) : (g.setS n w).stallUntil = g.stallUntil := rfl
@[simp] theorem Group.setS_yielded (n : Nat) (w : Word) : (g.setS n w).yielded = g.yielded := rfl
@[simp] theorem Group.setS_swapped (n : Nat) (w : Word) : (g.setS n w).swapped = g.swapped := rfl
@[simp] theorem Group.setS_saveO (n : Nat) (w : Word) : (g.setS n w).saveO = g.saveO := rfl
@[simp] theorem Group.setS_memops (n : Nat) (w : Word) : (g.setS n w).memops = g.memops := rfl
@[simp] theorem Group.setS_landings (n : Nat) (w : Word) : (g.setS n w).landings = g.landings := rfl
@[simp] theorem Group.setS_copies (n : Nat) (w : Word) : (g.setS n w).copies = g.copies := rfl
@[simp] theorem Group.setS_mats (n : Nat) (w : Word) : (g.setS n w).mats = g.mats := rfl
@[simp] theorem Group.setS_matIssues (n : Nat) (w : Word) : (g.setS n w).matIssues = g.matIssues := rfl
@[simp] theorem Group.setS_fabs (n : Nat) (w : Word) : (g.setS n w).fabs = g.fabs := rfl
@[simp] theorem Group.setS_fences (n : Nat) (w : Word) : (g.setS n w).fences = g.fences := rfl
@[simp] theorem Group.setS_pins (n : Nat) (w : Word) : (g.setS n w).pins = g.pins := rfl
@[simp] theorem Group.setS_frame (n : Nat) (w : Word) : (g.setS n w).frame = g.frame := rfl
@[simp] theorem Group.setS_resumed (n : Nat) (w : Word) : (g.setS n w).resumed = g.resumed := rfl
@[simp] theorem Group.setS_asyncs (n : Nat) (w : Word) : (g.setS n w).asyncs = g.asyncs := rfl
@[simp] theorem Group.setS_badRegs (n : Nat) (w : Word) : (g.setS n w).badRegs = g.badRegs := rfl
@[simp] theorem Group.setS_owed (n : Nat) (w : Word) : (g.setS n w).owed = g.owed := rfl
@[simp] theorem Group.setS_matFree (n : Nat) (w : Word) : (g.setS n w).matFree = g.matFree := rfl
@[simp] theorem Group.setS_retired (n : Nat) (w : Word) : (g.setS n w).retired = g.retired := rfl
@[simp] theorem Group.setV_num (n : Nat) (r : VReg) : (g.setV n r).num = g.num := rfl
@[simp] theorem Group.setV_slot (n : Nat) (r : VReg) : (g.setV n r).slot = g.slot := rfl
@[simp] theorem Group.setV_active (n : Nat) (r : VReg) : (g.setV n r).active = g.active := rfl
@[simp] theorem Group.setV_sregs (n : Nat) (r : VReg) : (g.setV n r).sregs = g.sregs := rfl
@[simp] theorem Group.setV_preds (n : Nat) (r : VReg) : (g.setV n r).preds = g.preds := rfl
@[simp] theorem Group.setV_oregs (n : Nat) (r : VReg) : (g.setV n r).oregs = g.oregs := rfl
@[simp] theorem Group.setV_lt0 (n : Nat) (r : VReg) : (g.setV n r).lt0 = g.lt0 := rfl
@[simp] theorem Group.setV_lt1 (n : Nat) (r : VReg) : (g.setV n r).lt1 = g.lt1 := rfl
@[simp] theorem Group.setV_latchOnly (n : Nat) (r : VReg) : (g.setV n r).latchOnly = g.latchOnly := rfl
@[simp] theorem Group.setV_quads (n : Nat) (r : VReg) : (g.setV n r).quads = g.quads := rfl
@[simp] theorem Group.setV_issues (n : Nat) (r : VReg) : (g.setV n r).issues = g.issues := rfl
@[simp] theorem Group.setV_helper (n : Nat) (r : VReg) : (g.setV n r).helper = g.helper := rfl
@[simp] theorem Group.setV_gmr (n : Nat) (r : VReg) : (g.setV n r).gmr = g.gmr := rfl
@[simp] theorem Group.setV_mxa (n : Nat) (r : VReg) : (g.setV n r).mxa = g.mxa := rfl
@[simp] theorem Group.setV_hvec (n : Nat) (r : VReg) : (g.setV n r).hvec = g.hvec := rfl
@[simp] theorem Group.setV_hmaskr (n : Nat) (r : VReg) : (g.setV n r).hmaskr = g.hmaskr := rfl
@[simp] theorem Group.setV_trec0 (n : Nat) (r : VReg) : (g.setV n r).trec0 = g.trec0 := rfl
@[simp] theorem Group.setV_trec1 (n : Nat) (r : VReg) : (g.setV n r).trec1 = g.trec1 := rfl
@[simp] theorem Group.setV_trec2 (n : Nat) (r : VReg) : (g.setV n r).trec2 = g.trec2 := rfl
@[simp] theorem Group.setV_trec3 (n : Nat) (r : VReg) : (g.setV n r).trec3 = g.trec3 := rfl
@[simp] theorem Group.setV_ecnt (n : Nat) (r : VReg) : (g.setV n r).ecnt = g.ecnt := rfl
@[simp] theorem Group.setV_ecsel (n : Nat) (r : VReg) : (g.setV n r).ecsel = g.ecsel := rfl
@[simp] theorem Group.setV_timeCap (n : Nat) (r : VReg) : (g.setV n r).timeCap = g.timeCap := rfl
@[simp] theorem Group.setV_arrivals (n : Nat) (r : VReg) : (g.setV n r).arrivals = g.arrivals := rfl
@[simp] theorem Group.setV_wait (n : Nat) (r : VReg) : (g.setV n r).wait = g.wait := rfl
@[simp] theorem Group.setV_part (n : Nat) (r : VReg) : (g.setV n r).part = g.part := rfl
@[simp] theorem Group.setV_waitSince (n : Nat) (r : VReg) : (g.setV n r).waitSince = g.waitSince := rfl
@[simp] theorem Group.setV_readyAt (n : Nat) (r : VReg) : (g.setV n r).readyAt = g.readyAt := rfl
@[simp] theorem Group.setV_lastIssue (n : Nat) (r : VReg) : (g.setV n r).lastIssue = g.lastIssue := rfl
@[simp] theorem Group.setV_tried (n : Nat) (r : VReg) : (g.setV n r).tried = g.tried := rfl
@[simp] theorem Group.setV_stallUntil (n : Nat) (r : VReg) : (g.setV n r).stallUntil = g.stallUntil := rfl
@[simp] theorem Group.setV_yielded (n : Nat) (r : VReg) : (g.setV n r).yielded = g.yielded := rfl
@[simp] theorem Group.setV_swapped (n : Nat) (r : VReg) : (g.setV n r).swapped = g.swapped := rfl
@[simp] theorem Group.setV_saveO (n : Nat) (r : VReg) : (g.setV n r).saveO = g.saveO := rfl
@[simp] theorem Group.setV_memops (n : Nat) (r : VReg) : (g.setV n r).memops = g.memops := rfl
@[simp] theorem Group.setV_landings (n : Nat) (r : VReg) : (g.setV n r).landings = g.landings := rfl
@[simp] theorem Group.setV_copies (n : Nat) (r : VReg) : (g.setV n r).copies = g.copies := rfl
@[simp] theorem Group.setV_mats (n : Nat) (r : VReg) : (g.setV n r).mats = g.mats := rfl
@[simp] theorem Group.setV_matIssues (n : Nat) (r : VReg) : (g.setV n r).matIssues = g.matIssues := rfl
@[simp] theorem Group.setV_fabs (n : Nat) (r : VReg) : (g.setV n r).fabs = g.fabs := rfl
@[simp] theorem Group.setV_fences (n : Nat) (r : VReg) : (g.setV n r).fences = g.fences := rfl
@[simp] theorem Group.setV_pins (n : Nat) (r : VReg) : (g.setV n r).pins = g.pins := rfl
@[simp] theorem Group.setV_frame (n : Nat) (r : VReg) : (g.setV n r).frame = g.frame := rfl
@[simp] theorem Group.setV_resumed (n : Nat) (r : VReg) : (g.setV n r).resumed = g.resumed := rfl
@[simp] theorem Group.setV_asyncs (n : Nat) (r : VReg) : (g.setV n r).asyncs = g.asyncs := rfl
@[simp] theorem Group.setV_badRegs (n : Nat) (r : VReg) : (g.setV n r).badRegs = g.badRegs := rfl
@[simp] theorem Group.setV_owed (n : Nat) (r : VReg) : (g.setV n r).owed = g.owed := rfl
@[simp] theorem Group.setV_matFree (n : Nat) (r : VReg) : (g.setV n r).matFree = g.matFree := rfl
@[simp] theorem Group.setV_retired (n : Nat) (r : VReg) : (g.setV n r).retired = g.retired := rfl
@[simp] theorem Group.setO_num (n : Nat) (r : VReg) : (g.setO n r).num = g.num := rfl
@[simp] theorem Group.setO_slot (n : Nat) (r : VReg) : (g.setO n r).slot = g.slot := rfl
@[simp] theorem Group.setO_active (n : Nat) (r : VReg) : (g.setO n r).active = g.active := rfl
@[simp] theorem Group.setO_sregs (n : Nat) (r : VReg) : (g.setO n r).sregs = g.sregs := rfl
@[simp] theorem Group.setO_vregs (n : Nat) (r : VReg) : (g.setO n r).vregs = g.vregs := rfl
@[simp] theorem Group.setO_preds (n : Nat) (r : VReg) : (g.setO n r).preds = g.preds := rfl
@[simp] theorem Group.setO_lt0 (n : Nat) (r : VReg) : (g.setO n r).lt0 = g.lt0 := rfl
@[simp] theorem Group.setO_lt1 (n : Nat) (r : VReg) : (g.setO n r).lt1 = g.lt1 := rfl
@[simp] theorem Group.setO_latchOnly (n : Nat) (r : VReg) : (g.setO n r).latchOnly = g.latchOnly := rfl
@[simp] theorem Group.setO_quads (n : Nat) (r : VReg) : (g.setO n r).quads = g.quads := rfl
@[simp] theorem Group.setO_issues (n : Nat) (r : VReg) : (g.setO n r).issues = g.issues := rfl
@[simp] theorem Group.setO_helper (n : Nat) (r : VReg) : (g.setO n r).helper = g.helper := rfl
@[simp] theorem Group.setO_gmr (n : Nat) (r : VReg) : (g.setO n r).gmr = g.gmr := rfl
@[simp] theorem Group.setO_mxa (n : Nat) (r : VReg) : (g.setO n r).mxa = g.mxa := rfl
@[simp] theorem Group.setO_hvec (n : Nat) (r : VReg) : (g.setO n r).hvec = g.hvec := rfl
@[simp] theorem Group.setO_hmaskr (n : Nat) (r : VReg) : (g.setO n r).hmaskr = g.hmaskr := rfl
@[simp] theorem Group.setO_trec0 (n : Nat) (r : VReg) : (g.setO n r).trec0 = g.trec0 := rfl
@[simp] theorem Group.setO_trec1 (n : Nat) (r : VReg) : (g.setO n r).trec1 = g.trec1 := rfl
@[simp] theorem Group.setO_trec2 (n : Nat) (r : VReg) : (g.setO n r).trec2 = g.trec2 := rfl
@[simp] theorem Group.setO_trec3 (n : Nat) (r : VReg) : (g.setO n r).trec3 = g.trec3 := rfl
@[simp] theorem Group.setO_ecnt (n : Nat) (r : VReg) : (g.setO n r).ecnt = g.ecnt := rfl
@[simp] theorem Group.setO_ecsel (n : Nat) (r : VReg) : (g.setO n r).ecsel = g.ecsel := rfl
@[simp] theorem Group.setO_timeCap (n : Nat) (r : VReg) : (g.setO n r).timeCap = g.timeCap := rfl
@[simp] theorem Group.setO_arrivals (n : Nat) (r : VReg) : (g.setO n r).arrivals = g.arrivals := rfl
@[simp] theorem Group.setO_wait (n : Nat) (r : VReg) : (g.setO n r).wait = g.wait := rfl
@[simp] theorem Group.setO_part (n : Nat) (r : VReg) : (g.setO n r).part = g.part := rfl
@[simp] theorem Group.setO_waitSince (n : Nat) (r : VReg) : (g.setO n r).waitSince = g.waitSince := rfl
@[simp] theorem Group.setO_readyAt (n : Nat) (r : VReg) : (g.setO n r).readyAt = g.readyAt := rfl
@[simp] theorem Group.setO_lastIssue (n : Nat) (r : VReg) : (g.setO n r).lastIssue = g.lastIssue := rfl
@[simp] theorem Group.setO_tried (n : Nat) (r : VReg) : (g.setO n r).tried = g.tried := rfl
@[simp] theorem Group.setO_stallUntil (n : Nat) (r : VReg) : (g.setO n r).stallUntil = g.stallUntil := rfl
@[simp] theorem Group.setO_yielded (n : Nat) (r : VReg) : (g.setO n r).yielded = g.yielded := rfl
@[simp] theorem Group.setO_swapped (n : Nat) (r : VReg) : (g.setO n r).swapped = g.swapped := rfl
@[simp] theorem Group.setO_saveO (n : Nat) (r : VReg) : (g.setO n r).saveO = g.saveO := rfl
@[simp] theorem Group.setO_memops (n : Nat) (r : VReg) : (g.setO n r).memops = g.memops := rfl
@[simp] theorem Group.setO_landings (n : Nat) (r : VReg) : (g.setO n r).landings = g.landings := rfl
@[simp] theorem Group.setO_copies (n : Nat) (r : VReg) : (g.setO n r).copies = g.copies := rfl
@[simp] theorem Group.setO_mats (n : Nat) (r : VReg) : (g.setO n r).mats = g.mats := rfl
@[simp] theorem Group.setO_matIssues (n : Nat) (r : VReg) : (g.setO n r).matIssues = g.matIssues := rfl
@[simp] theorem Group.setO_fabs (n : Nat) (r : VReg) : (g.setO n r).fabs = g.fabs := rfl
@[simp] theorem Group.setO_fences (n : Nat) (r : VReg) : (g.setO n r).fences = g.fences := rfl
@[simp] theorem Group.setO_pins (n : Nat) (r : VReg) : (g.setO n r).pins = g.pins := rfl
@[simp] theorem Group.setO_frame (n : Nat) (r : VReg) : (g.setO n r).frame = g.frame := rfl
@[simp] theorem Group.setO_resumed (n : Nat) (r : VReg) : (g.setO n r).resumed = g.resumed := rfl
@[simp] theorem Group.setO_asyncs (n : Nat) (r : VReg) : (g.setO n r).asyncs = g.asyncs := rfl
@[simp] theorem Group.setO_badRegs (n : Nat) (r : VReg) : (g.setO n r).badRegs = g.badRegs := rfl
@[simp] theorem Group.setO_owed (n : Nat) (r : VReg) : (g.setO n r).owed = g.owed := rfl
@[simp] theorem Group.setO_matFree (n : Nat) (r : VReg) : (g.setO n r).matFree = g.matFree := rfl
@[simp] theorem Group.setO_retired (n : Nat) (r : VReg) : (g.setO n r).retired = g.retired := rfl
@[simp] theorem Group.bump_num (c n : Nat) : (g.bump c n).num = g.num := rfl
@[simp] theorem Group.bump_slot (c n : Nat) : (g.bump c n).slot = g.slot := rfl
@[simp] theorem Group.bump_active (c n : Nat) : (g.bump c n).active = g.active := rfl
@[simp] theorem Group.bump_sregs (c n : Nat) : (g.bump c n).sregs = g.sregs := rfl
@[simp] theorem Group.bump_vregs (c n : Nat) : (g.bump c n).vregs = g.vregs := rfl
@[simp] theorem Group.bump_preds (c n : Nat) : (g.bump c n).preds = g.preds := rfl
@[simp] theorem Group.bump_oregs (c n : Nat) : (g.bump c n).oregs = g.oregs := rfl
@[simp] theorem Group.bump_lt0 (c n : Nat) : (g.bump c n).lt0 = g.lt0 := rfl
@[simp] theorem Group.bump_lt1 (c n : Nat) : (g.bump c n).lt1 = g.lt1 := rfl
@[simp] theorem Group.bump_latchOnly (c n : Nat) : (g.bump c n).latchOnly = g.latchOnly := rfl
@[simp] theorem Group.bump_quads (c n : Nat) : (g.bump c n).quads = g.quads := rfl
@[simp] theorem Group.bump_issues (c n : Nat) : (g.bump c n).issues = g.issues := rfl
@[simp] theorem Group.bump_helper (c n : Nat) : (g.bump c n).helper = g.helper := rfl
@[simp] theorem Group.bump_gmr (c n : Nat) : (g.bump c n).gmr = g.gmr := rfl
@[simp] theorem Group.bump_mxa (c n : Nat) : (g.bump c n).mxa = g.mxa := rfl
@[simp] theorem Group.bump_hvec (c n : Nat) : (g.bump c n).hvec = g.hvec := rfl
@[simp] theorem Group.bump_hmaskr (c n : Nat) : (g.bump c n).hmaskr = g.hmaskr := rfl
@[simp] theorem Group.bump_trec0 (c n : Nat) : (g.bump c n).trec0 = g.trec0 := rfl
@[simp] theorem Group.bump_trec1 (c n : Nat) : (g.bump c n).trec1 = g.trec1 := rfl
@[simp] theorem Group.bump_trec2 (c n : Nat) : (g.bump c n).trec2 = g.trec2 := rfl
@[simp] theorem Group.bump_trec3 (c n : Nat) : (g.bump c n).trec3 = g.trec3 := rfl
@[simp] theorem Group.bump_ecsel (c n : Nat) : (g.bump c n).ecsel = g.ecsel := rfl
@[simp] theorem Group.bump_timeCap (c n : Nat) : (g.bump c n).timeCap = g.timeCap := rfl
@[simp] theorem Group.bump_arrivals (c n : Nat) : (g.bump c n).arrivals = g.arrivals := rfl
@[simp] theorem Group.bump_wait (c n : Nat) : (g.bump c n).wait = g.wait := rfl
@[simp] theorem Group.bump_part (c n : Nat) : (g.bump c n).part = g.part := rfl
@[simp] theorem Group.bump_waitSince (c n : Nat) : (g.bump c n).waitSince = g.waitSince := rfl
@[simp] theorem Group.bump_readyAt (c n : Nat) : (g.bump c n).readyAt = g.readyAt := rfl
@[simp] theorem Group.bump_lastIssue (c n : Nat) : (g.bump c n).lastIssue = g.lastIssue := rfl
@[simp] theorem Group.bump_tried (c n : Nat) : (g.bump c n).tried = g.tried := rfl
@[simp] theorem Group.bump_stallUntil (c n : Nat) : (g.bump c n).stallUntil = g.stallUntil := rfl
@[simp] theorem Group.bump_yielded (c n : Nat) : (g.bump c n).yielded = g.yielded := rfl
@[simp] theorem Group.bump_swapped (c n : Nat) : (g.bump c n).swapped = g.swapped := rfl
@[simp] theorem Group.bump_saveO (c n : Nat) : (g.bump c n).saveO = g.saveO := rfl
@[simp] theorem Group.bump_memops (c n : Nat) : (g.bump c n).memops = g.memops := rfl
@[simp] theorem Group.bump_landings (c n : Nat) : (g.bump c n).landings = g.landings := rfl
@[simp] theorem Group.bump_copies (c n : Nat) : (g.bump c n).copies = g.copies := rfl
@[simp] theorem Group.bump_mats (c n : Nat) : (g.bump c n).mats = g.mats := rfl
@[simp] theorem Group.bump_matIssues (c n : Nat) : (g.bump c n).matIssues = g.matIssues := rfl
@[simp] theorem Group.bump_fabs (c n : Nat) : (g.bump c n).fabs = g.fabs := rfl
@[simp] theorem Group.bump_fences (c n : Nat) : (g.bump c n).fences = g.fences := rfl
@[simp] theorem Group.bump_pins (c n : Nat) : (g.bump c n).pins = g.pins := rfl
@[simp] theorem Group.bump_frame (c n : Nat) : (g.bump c n).frame = g.frame := rfl
@[simp] theorem Group.bump_resumed (c n : Nat) : (g.bump c n).resumed = g.resumed := rfl
@[simp] theorem Group.bump_asyncs (c n : Nat) : (g.bump c n).asyncs = g.asyncs := rfl
@[simp] theorem Group.bump_badRegs (c n : Nat) : (g.bump c n).badRegs = g.badRegs := rfl
@[simp] theorem Group.bump_owed (c n : Nat) : (g.bump c n).owed = g.owed := rfl
@[simp] theorem Group.bump_matFree (c n : Nat) : (g.bump c n).matFree = g.matFree := rfl
@[simp] theorem Group.bump_retired (c n : Nat) : (g.bump c n).retired = g.retired := rfl

end Sys2Proof.Machine
end

