-- ==== Sys2Proof/Laws/Ops.lean ====
section
/-! SUPPORT. What the shared operations do, said once: the present group after an update, the end of an issue, and
the lane-wise results that most instructions are. -/

namespace Sys2Proof.Machine

variable {s : State}

/-! ### The seat -/

theorem getD_set_same {α : Type} (l : List α) {i : Nat} (a d : α) (h : i < l.length) : (l.set i a).getD i d = a := by
  simp [List.getD, h]

theorem State.setBlk_blk (hs : Seated s) (b : Block) : (s.setBlk b).blk = b := getD_set_same _ _ _ hs.1

theorem State.setGrp_grp (hs : Seated s) (g : Group) : (s.setGrp g).grp = g := by
  have h : (s.setGrp g).grp = ((s.blk.groups.set s.cur.grp g).getD s.cur.grp Group.nil) := by
    show ((s.setBlk _).blk).groups.getD _ _ = _
    rw [State.setBlk_blk hs]
    rfl
  rw [h, getD_set_same _ _ _ hs.2]

theorem State.setGrp_blk (hs : Seated s) (g : Group) :
    (s.setGrp g).blk = { s.blk with groups := s.blk.groups.set s.cur.grp g } := State.setBlk_blk hs _

theorem State.setGrp_seated (hs : Seated s) (g : Group) : Seated (s.setGrp g) := by
  refine ⟨?_, ?_⟩
  · simpa [State.setGrp, State.setBlk] using hs.1
  · rw [State.setGrp_blk hs]
    simpa using hs.2

theorem State.modGrp_grp (hs : Seated s) (f : Group → Group) : (s.modGrp f).grp = f s.grp := State.setGrp_grp hs _

theorem State.setGrp_setGrp (hs : Seated s) (g g' : Group) : (s.setGrp g).setGrp g' = s.setGrp g' := by
  have : (s.setGrp g).setGrp g' =
      (s.setGrp g).setBlk { (s.setGrp g).blk with groups := (s.setGrp g).blk.groups.set s.cur.grp g' } := rfl
  rw [this, State.setGrp_blk hs]
  simp [State.setGrp, State.setBlk]

/-- Updates of the present group compose. -/
theorem State.modGrp_modGrp (hs : Seated s) (f f' : Group → Group) :
    (s.modGrp f).modGrp f' = s.modGrp (fun g => f' (f g)) := by
  show (s.setGrp _).setGrp (f' (s.setGrp _).grp) = _
  rw [State.setGrp_grp hs, State.setGrp_setGrp hs]
  rfl

/-! ### Only the group -/

/-- The form every register-only instruction leaves the machine in. -/
def State.put (s : State) (g : Group) (k : Nat) (r : Tbl Nat) : State :=
  { s with free := k, rounds := r }.setGrp g

theorem State.put_grp (hs : Seated s) (g : Group) (k : Nat) (r : Tbl Nat) : (s.put g k r).grp = g :=
  State.setGrp_grp (s := { s with free := k, rounds := r }) hs g

theorem State.put_blk (hs : Seated s) (g : Group) (k : Nat) (r : Tbl Nat) :
    (s.put g k r).blk = { s.blk with groups := s.blk.groups.set s.cur.grp g } :=
  State.setGrp_blk (s := { s with free := k, rounds := r }) hs g

theorem State.put_seated (hs : Seated s) (g : Group) (k : Nat) (r : Tbl Nat) : Seated (s.put g k r) :=
  State.setGrp_seated (s := { s with free := k, rounds := r }) hs g

theorem State.put_onlyGroup (hs : Seated s) (g : Group) (k : Nat) (r : Tbl Nat) : OnlyGroup s (s.put g k r) := by
  unfold OnlyGroup
  rw [State.put_grp hs]
  rfl

theorem State.put_memoryKept (hs : Seated s) (g : Group) (k : Nat) (r : Tbl Nat) : MemoryKept s (s.put g k r) := by
  refine ⟨fun _ => rfl, fun a => ?_⟩
  rw [State.put_blk hs]

theorem State.put_modGrp (hs : Seated s) (g : Group) (k : Nat) (r : Tbl Nat) (f : Group → Group) :
    (s.put g k r).modGrp f = s.put (f g) k r := by
  show (s.put g k r).setGrp (f (s.put g k r).grp) = _
  rw [State.put_grp hs]
  exact State.setGrp_setGrp (s := { s with free := k, rounds := r }) hs g (f g)

theorem State.put_free (g : Group) (k k' : Nat) (r : Tbl Nat) :
    { s.put g k r with free := k' } = s.put g k' r := rfl

theorem State.put_self (hs : Seated s) : s.put s.grp s.free s.rounds = s := by
  have hb : s.blk.groups.set s.cur.grp s.grp = s.blk.groups := by
    have : s.grp = s.blk.groups[s.cur.grp]'hs.2 := by
      simp [State.grp, List.getD, hs.2]
    rw [this]
    exact List.set_getElem_self _
  have hl : s.blocks.set s.cur.blk s.blk = s.blocks := by
    have : s.blk = s.blocks[s.cur.blk]'hs.1 := by
      simp [State.blk, List.getD, hs.1]
    rw [this]
    exact List.set_getElem_self _
  show s.setBlk { s.blk with groups := s.blk.groups.set s.cur.grp s.grp } = s
  rw [hb]
  show { s with blocks := s.blocks.set s.cur.blk s.blk } = s
  rw [hl]

theorem State.modGrp_put (f : Group → Group) : s.modGrp f = s.put (f s.grp) s.free s.rounds := rfl

/-! ### The end of an issue -/

/-- The group at the end of an issue. -/
def Group.ended (g : Group) (c : Cur) (clock beats : Nat) (h : Hdr) (pcs : Nat → Dword → Dword) : Group :=
  (((({ g with
      quads := g.quads.mapIdx (fun i q => if c.quads.getLsbD i then { q with pc := pcs i q.pc, stamp := g.issues } else q)
      issues := g.issues + 1
      latchOnly := g.latchOnly - 1
      lastIssue := clock
      stallUntil := clock + max 1 h.stall.toNat
      yielded := h.yield
      swapped := false
      resumed := false
      owed := c.owes ++ g.owed
      badRegs := g.badRegs.filter (fun r => !c.renew.contains r)
      part := none
      wait := .ready } : Group).bump 3 1).bump 4 beats).bump 5 (if c.paired then 1 else 0)).bump 7 c.delay

/-! What the end of an issue leaves of the group's registers. -/

section
variable (g : Group) (c : Cur) (clock beats : Nat) (h : Hdr) (pcs : Nat → Dword → Dword)

@[simp] theorem Group.ended_sregs : (g.ended c clock beats h pcs).sregs = g.sregs := by simp [Group.ended]
@[simp] theorem Group.ended_vregs : (g.ended c clock beats h pcs).vregs = g.vregs := by simp [Group.ended]
@[simp] theorem Group.ended_preds : (g.ended c clock beats h pcs).preds = g.preds := by simp [Group.ended]
@[simp] theorem Group.ended_oregs : (g.ended c clock beats h pcs).oregs = g.oregs := by simp [Group.ended]
@[simp] theorem Group.ended_lt0 : (g.ended c clock beats h pcs).lt0 = g.lt0 := by simp [Group.ended]
@[simp] theorem Group.ended_lt1 : (g.ended c clock beats h pcs).lt1 = g.lt1 := by simp [Group.ended]
@[simp] theorem Group.ended_gmr : (g.ended c clock beats h pcs).gmr = g.gmr := by simp [Group.ended]
@[simp] theorem Group.ended_vreg (n : Nat) : (g.ended c clock beats h pcs).vreg n = g.vreg n := by simp [Group.vreg]
@[simp] theorem Group.ended_oreg (n : Nat) : (g.ended c clock beats h pcs).oreg n = g.oreg n := by simp [Group.oreg]
@[simp] theorem Group.ended_sreg (n : Nat) : (g.ended c clock beats h pcs).sreg n = g.sreg n := by simp [Group.sreg]

end

theorem State.put_rounds (g : Group) (k : Nat) (r r' : Tbl Nat) : { s.put g k r with rounds := r' } = s.put g k r' := rfl

theorem State.passRound_put (g : Group) (k : Nat) (r : Tbl Nat) :
    ∃ r', (s.put g k r).passRound = s.put g k r' := by
  unfold State.passRound
  split
  · exact ⟨_, State.put_rounds _ _ _ _⟩
  · exact ⟨r, rfl⟩

/-- `finTo` changes only the present group and the round. -/
theorem State.finTo_put (hs : Seated s) (g : Group) (k : Nat) (r : Tbl Nat) (h : Hdr) (pcs : Nat → Dword → Dword) :
    ∃ r', (s.put g k r).finTo h pcs = s.put (g.ended s.cur s.clock s.beats.length h pcs) k r' := by
  simp only [State.finTo, State.modQuads, State.put_modGrp hs, State.put_grp hs]
  exact State.passRound_put _ _ _

theorem Tbl.get_foldl_bump (sel : Tbl Word) (code : Nat) (w : Word) (j : Nat)
    (hj : (Tbl.get 0 sel j).toNat % 256 ≠ code) (l : List Nat) (t : Tbl Word) :
    Tbl.get 0 (l.foldl (fun t i =>
      if (Tbl.get 0 sel i).toNat % 256 = code ∧ code ≠ 0 then Tbl.set 0 t i (Tbl.get 0 t i + w) else t) t) j =
      Tbl.get 0 t j := by
  induction l generalizing t with
  | nil => rfl
  | cons i l ih =>
    rw [List.foldl_cons, ih]
    split
    · rename_i hi
      refine Tbl.get_set_other 0 t _ (fun e => ?_)
      subst e
      exact hj hi.1
    · rfl

/-- Event counters that select another event keep their counts. -/
theorem Group.bump_ecnt_other (g : Group) (code n j : Nat) (hj : (Tbl.get 0 g.ecsel j).toNat % 256 ≠ code) :
    Tbl.get 0 (g.bump code n).ecnt j = Tbl.get 0 g.ecnt j := Tbl.get_foldl_bump _ _ _ _ hj _ _

/-- After a latch update no register fails anew but lt1, and those outside the latches fail as before (R387). -/
theorem mem_latchBad {bs : List Nat} {r : Nat} : r ∈ latchBad bs ↔ (r ∈ bs ∧ r ≠ 200 ∧ r ≠ 201) ∨ (200 ∈ bs ∧ r = 201) := by
  unfold latchBad
  by_cases h : 200 ∈ bs <;> simp [h]

/-- What an issue that ends from a group changed in its registers, latches and GMR alone leaves. -/
theorem issued_put (hs : Seated s) {g : Group} {k : Nat} {r : Tbl Nat} {h : Hdr} {pcs : Nat → Dword → Dword}
    (hq : g.quads = s.grp.quads) (hi : g.issues = s.grp.issues) (hl : g.latchOnly = s.grp.latchOnly ∨ g.latchOnly = 3)
    (he : g.ecnt = s.grp.ecnt) (hsel : g.ecsel = s.grp.ecsel)
    (hb : g.badRegs = s.grp.badRegs ∨ g.badRegs = latchBad s.grp.badRegs) :
    Issued s (s.put (g.ended s.cur s.clock s.beats.length h pcs) k r) h pcs := by
  unfold Issued
  rw [State.put_grp hs]
  refine ⟨?_, ?_, rfl, ?_, rfl, fun r hr => ?_, fun r hr hn ho => ?_, fun i hn => ?_⟩
  · simp [Group.ended, hq, hi]
  · simp [Group.ended, hi]
  · rcases hl with hl | hl
    · exact .inl (by simp [Group.ended, hl])
    · exact .inr (by simp [Group.ended, hl])
  · have hr : r ∈ g.badRegs := (List.mem_filter.1 hr).1
    rcases hb with hb | hb <;> rw [hb] at hr
    · exact .inl hr
    · rcases mem_latchBad.1 hr with h | h
      · exact .inl h.1
      · exact .inr h.2
  · refine List.mem_filter.2 ⟨?_, by simpa using hn⟩
    show r ∈ g.badRegs
    rcases hb with hb | hb <;> rw [hb]
    · exact hr
    · exact mem_latchBad.2 (.inl ⟨hr, by omega, by omega⟩)
  · simp only [List.mem_cons, List.not_mem_nil, or_false, not_or] at hn
    obtain ⟨h3, h4, h5, h7⟩ := hn
    unfold Group.ended
    rw [Group.bump_ecnt_other _ _ _ _ (by simpa [hsel] using h7), Group.bump_ecnt_other _ _ _ _ (by simpa [hsel] using h5),
      Group.bump_ecnt_other _ _ _ _ (by simpa [hsel] using h4), Group.bump_ecnt_other _ _ _ _ (by simpa [hsel] using h3)]
    simp [he]

/-! ### Register files -/

@[simp] theorem Group.vreg_setV_same (g : Group) (n : Nat) (r : VReg) : (g.setV n r).vreg n = r :=
  Tbl.get_set_same _ _ _ _
theorem Group.vreg_setV_other (g : Group) {n n' : Nat} (r : VReg) (h : n' ≠ n) : (g.setV n r).vreg n' = g.vreg n' :=
  Tbl.get_set_other _ _ _ h
@[simp] theorem Group.oreg_setO_same (g : Group) (n : Nat) (r : VReg) : (g.setO n r).oreg n = r :=
  Tbl.get_set_same _ _ _ _
theorem Group.oreg_setO_other (g : Group) {n n' : Nat} (r : VReg) (h : n' ≠ n) : (g.setO n r).oreg n' = g.oreg n' :=
  Tbl.get_set_other _ _ _ h
@[simp] theorem Group.sreg_setS_same (g : Group) (n : Nat) (w : Word) : (g.setS n w).sreg n = w :=
  Tbl.get_set_same _ _ _ _
theorem Group.sreg_setS_other (g : Group) {n n' : Nat} (w : Word) (h : n' ≠ n) : (g.setS n w).sreg n' = g.sreg n' :=
  Tbl.get_set_other _ _ _ h

theorem VReg.read_g (f : Nat → Word) {l : Nat} (h : l < 96) :
    (VReg.g ((List.range numLanes).map f)).read l = f l := by
  have : l < (List.range numLanes).length := by simpa [numLanes] using h
  simp [VReg.read, List.getD, numLanes, h]

/-- A register after a lane-wise write reads the result where a lane wrote and its old value elsewhere, whatever tag
it takes, when the tag of a full write stands for the result. -/
theorem VReg.write_read (old : VReg) (lanes : Nat → Bool) (val : Nat → Word) (full : Option VReg)
    (hf : ∀ r, full = some r → ∀ l, l < 96 → r.read l = val l) {l : Nat} (h : l < 96) :
    (old.write lanes val full).read l = if lanes l then val l else old.read l := by
  unfold VReg.write
  split
  · rename_i r hr
    have hl : lanes l = true := by
      simp only [isFull, List.all_eq_true, List.mem_range] at hr
      exact hr l h
    rw [hl, if_pos rfl]
    exact hf _ rfl l h
  · exact VReg.read_g _ h

theorem latchHalf_read (lanes : Nat → Bool) (val u : Nat → Word) {l : Nat} (h : l < 96) (hl : lanes l = true) :
    (latchHalf lanes val u).read l = val l := by
  rw [latchHalf, VReg.read_g _ h, hl, if_pos rfl]

/-! ### Lane-wise results -/

/-- The latches of a group after an update (R89). -/
def Group.latched (g : Group) (lanes : Nat → Bool) (lo : Nat → Word) (hi : Option (Nat → Word)) (k : Nat) : Group :=
  { g with
    lt1 := g.lt0
    lt0 := ⟨latchHalf lanes lo (Config.freeWord k),
            latchHalf lanes (hi.getD (Config.freeWord (k + 1))) (Config.freeWord (k + 1))⟩
    badRegs := latchBad g.badRegs }

theorem State.latch_put (hs : Seated s) (g : Group) (k : Nat) (r : Tbl Nat) (lanes : Nat → Bool)
    (lo : Nat → Word) (hi : Option (Nat → Word)) :
    (s.put g k r).latch lanes lo hi = s.put (g.latched lanes lo hi k) (k + 2) r :=
  State.put_modGrp hs g (k + 2) r (fun g => g.latched lanes lo hi k)

/-- The group after a 32-bit result is written to D. -/
def Group.wrote (g : Group) (lanes : Nat → Bool) (d : Opnd) (val : Nat → Word) (full : Option VReg) (k : Nat) : Group :=
  match d with
  | .v n => (g.setV n.toNat ((g.vreg n.toNat).write lanes val full)).latched lanes val none k
  | .o n => (g.setO n.toNat ((g.oreg n.toNat).write lanes val none)).latched lanes val none k
  | .lt0 => { g.latched lanes val none k with latchOnly := 3 }
  | .s n =>
    match lowest lanes with
    | none => g
    | some l => g.setS n.toNat (val l)
  | _ => g

theorem State.write_put (hs : Seated s) (lanes : Nat → Bool) (d : Opnd) (val : Nat → Word) (full : Option VReg) :
    ∃ k, s.write lanes d val full = s.put (s.grp.wrote lanes d val full s.free) k s.rounds := by
  cases d with
  | v n => exact ⟨_, State.latch_put hs _ _ _ _ _ _⟩
  | o n => exact ⟨_, State.latch_put hs _ _ _ _ _ _⟩
  | lt0 =>
    refine ⟨s.free + 2, ?_⟩
    have h1 : s.latch lanes val none = s.put (s.grp.latched lanes val none s.free) (s.free + 2) s.rounds := rfl
    unfold State.write
    rw [h1, State.put_modGrp hs]
    rfl
  | s n =>
    refine ⟨s.free, ?_⟩
    simp only [State.write, Group.wrote]
    cases lowest lanes with
    | none => exact (State.put_self hs).symm
    | some l => rfl
  | lt1 => exact ⟨_, (State.put_self hs).symm⟩
  | zero => exact ⟨_, (State.put_self hs).symm⟩
  | lane => exact ⟨_, (State.put_self hs).symm⟩
  | quad => exact ⟨_, (State.put_self hs).symm⟩
  | int n => exact ⟨_, (State.put_self hs).symm⟩
  | flt n => exact ⟨_, (State.put_self hs).symm⟩
  | bad c => exact ⟨_, (State.put_self hs).symm⟩

/-- The end of an issue leaves the registers, the latches and GMR as they stand. -/
theorem holds32_ended {g : Group} {lanes : Nat → Bool} {d : Opnd} {val : Nat → Word} {full : Option VReg} {k : Nat}
    (hs : Seated s) (hg : g = s.grp.wrote lanes d val full s.free) (hf : ∀ r, full = some r → ∀ l, l < 96 → r.read l = val l)
    (r : Tbl Nat) (h : Hdr) (pcs : Nat → Dword → Dword) :
    Holds32 s (s.put (g.ended s.cur s.clock s.beats.length h pcs) k r) lanes d val := by
  subst hg
  cases d with
  | v n =>
    refine ⟨fun l hl => ?_, ?_⟩
    · rw [State.put_grp hs]
      show ((Group.ended _ _ _ _ _ _).vreg n.toNat).read l = _
      rw [Group.ended_vreg]
      exact (congrArg (VReg.read · l) (Group.vreg_setV_same _ _ _)).trans (VReg.write_read _ _ _ _ hf hl)
    · unfold LatchHolds
      rw [State.put_grp hs, Group.ended_lt0, Group.ended_lt1]
      exact ⟨rfl, fun l hl hx => ⟨latchHalf_read _ _ _ hl hx, fun f e => nomatch e⟩⟩
  | o n =>
    refine ⟨fun l hl => ?_, ?_⟩
    · rw [State.put_grp hs]
      show ((Group.ended _ _ _ _ _ _).oreg n.toNat).read l = _
      rw [Group.ended_oreg]
      exact (congrArg (VReg.read · l) (Group.oreg_setO_same _ _ _)).trans
        (VReg.write_read _ _ _ none (fun _ e => nomatch e) hl)
    · unfold LatchHolds
      rw [State.put_grp hs, Group.ended_lt0, Group.ended_lt1]
      exact ⟨rfl, fun l hl hx => ⟨latchHalf_read _ _ _ hl hx, fun f e => nomatch e⟩⟩
  | lt0 =>
    show LatchHolds _ _ _ _ _
    unfold LatchHolds
    rw [State.put_grp hs, Group.ended_lt0, Group.ended_lt1]
    exact ⟨rfl, fun l hl hx => ⟨latchHalf_read _ _ _ hl hx, fun f e => nomatch e⟩⟩
  | s n =>
    unfold Holds32 LatchesKept
    rw [State.put_grp hs]
    simp only [Group.wrote, Group.ended_lt0, Group.ended_lt1]
    cases lowest lanes with
    | none => exact ⟨Group.ended_sreg _ _ _ _ _ _ _, rfl, rfl⟩
    | some l => exact ⟨(Group.ended_sreg _ _ _ _ _ _ _).trans (Group.sreg_setS_same _ _ _), rfl, rfl⟩
  | lt1 | zero | lane | quad | int n | flt n | bad c =>
    unfold Holds32 LatchesKept
    rw [State.put_grp hs, Group.ended_lt0, Group.ended_lt1]
    exact ⟨rfl, rfl⟩

/-- A write to D leaves every other register alone. -/
theorem regsKept_wrote (g : Group) (lanes : Nat → Bool) (d : Opnd) (val : Nat → Word) (full : Option VReg) (k : Nat) :
    RegsKept g (g.wrote lanes d val full k) (vRegs d 1) (oRegs d 1) (sRegs d 1) noReg := by
  unfold RegsKept vRegs oRegs sRegs
  cases d with
  | v n =>
    refine ⟨fun m hm => Group.vreg_setV_other _ _ (fun e => hm ⟨n, rfl, by omega, by omega⟩), fun _ _ => rfl,
      fun _ _ => rfl, fun _ _ => rfl⟩
  | o n =>
    refine ⟨fun _ _ => rfl, fun m hm => Group.oreg_setO_other _ _ (fun e => hm ⟨n, rfl, by omega, by omega⟩),
      fun _ _ => rfl, fun _ _ => rfl⟩
  | s n =>
    simp only [Group.wrote]
    cases lowest lanes with
    | none => exact ⟨fun _ _ => rfl, fun _ _ => rfl, fun _ _ => rfl, fun _ _ => rfl⟩
    | some l =>
      exact ⟨fun _ _ => rfl, fun _ _ => rfl,
        fun m hm => Group.sreg_setS_other _ _ (fun e => hm ⟨n, rfl, by omega, by omega⟩), fun _ _ => rfl⟩
  | lt0 | lt1 | zero | lane | quad | int n | flt n | bad c =>
    exact ⟨fun _ _ => rfl, fun _ _ => rfl, fun _ _ => rfl, fun _ _ => rfl⟩

/-- A count that rises leaves the special registers alone. -/
theorem SpecialKept.bump {g x : Group} (hx : SpecialKept g x) (c n : Nat) : SpecialKept g (x.bump c n) := by
  unfold SpecialKept at hx ⊢
  cases x
  cases g
  simpa [Group.bump] using hx

/-- So does the end of an issue. -/
theorem SpecialKept.ended {g x : Group} (hx : SpecialKept g { x with wait := .ready, part := none }) (c : Cur) (clock beats : Nat) (h : Hdr)
    (pcs : Nat → Dword → Dword) : SpecialKept g (x.ended c clock beats h pcs) := by
  unfold Group.ended
  refine SpecialKept.bump (SpecialKept.bump (SpecialKept.bump (SpecialKept.bump ?_ _ _) _ _) _ _) _ _
  unfold SpecialKept at hx ⊢
  cases x
  cases g
  simpa using hx

/-- The end of an issue leaves every register alone. -/
theorem regsKept_ended {g x : Group} {v o sc p : Nat → Prop} (hx : RegsKept g x v o sc p) (c : Cur) (clock beats : Nat)
    (h : Hdr) (pcs : Nat → Dword → Dword) : RegsKept g (x.ended c clock beats h pcs) v o sc p := by
  simpa only [RegsKept, Group.ended_vreg, Group.ended_oreg, Group.ended_sreg, Group.ended_preds] using hx

theorem specialKept_wrote (g : Group) (lanes : Nat → Bool) (d : Opnd) (val : Nat → Word) (full : Option VReg) (k : Nat)
    (m : Cur) (clock beats : Nat) (h : Hdr) (pcs : Nat → Dword → Dword) :
    SpecialKept g ((g.wrote lanes d val full k).ended m clock beats h pcs) := by
  refine SpecialKept.ended ?_ _ _ _ _ _
  cases d with
  | s n =>
    simp only [Group.wrote]
    cases lowest lanes <;> rfl
  | v n | o n | lt0 | lt1 | zero | lane | quad | int n | flt n | bad c => rfl

theorem wrote_fields (g : Group) (lanes : Nat → Bool) (d : Opnd) (val : Nat → Word) (full : Option VReg) (k : Nat) :
    (g.wrote lanes d val full k).quads = g.quads ∧ (g.wrote lanes d val full k).issues = g.issues ∧
    ((g.wrote lanes d val full k).latchOnly = g.latchOnly ∨ (g.wrote lanes d val full k).latchOnly = 3) ∧
    (g.wrote lanes d val full k).ecnt = g.ecnt ∧ (g.wrote lanes d val full k).ecsel = g.ecsel ∧
    ((g.wrote lanes d val full k).badRegs = g.badRegs ∨ (g.wrote lanes d val full k).badRegs = latchBad g.badRegs) := by
  cases d with
  | s n =>
    simp only [Group.wrote]
    cases lowest lanes <;> exact ⟨rfl, rfl, .inl rfl, rfl, rfl, .inl rfl⟩
  | lt0 => exact ⟨rfl, rfl, .inr rfl, rfl, rfl, .inr rfl⟩
  | v n | o n => exact ⟨rfl, rfl, .inl rfl, rfl, rfl, .inr rfl⟩
  | lt1 | zero | lane | quad | int n | flt n | bad c => exact ⟨rfl, rfl, .inl rfl, rfl, rfl, .inl rfl⟩

/-- A 32-bit result written to D and the end of the issue: D holds the result in the lanes that execute, and
nothing else changes (R87, R89, R93). Every lane-wise instruction of classes 0x0 to 0x6 is one of these. -/
theorem State.write_done (hs : Seated s) (lanes : Nat → Bool) (h : Hdr) (d : Opnd) (val : Nat → Word)
    (full : Option VReg) (hf : ∀ r, full = some r → ∀ l, l < 96 → r.read l = val l) :
    ∃ t, (s.write lanes d val full).done h = .next t ∧ Holds32 s t lanes d val ∧
      RegisterFrame s t h false (vRegs d 1) (oRegs d 1) (sRegs d 1) noReg := by
  obtain ⟨k, hw⟩ := State.write_put hs lanes d val full
  rw [hw]
  obtain ⟨r, hr⟩ := State.finTo_put (s := s) hs (s.grp.wrote lanes d val full s.free) k s.rounds h (fun _ p => pcNext p)
  refine ⟨_, rfl, ?_⟩
  show Holds32 s (State.finTo _ _ _) _ _ _ ∧ RegisterFrame s (State.finTo _ _ _) _ _ _ _ _ _
  rw [hr]
  have hw' := wrote_fields s.grp lanes d val full s.free
  refine ⟨holds32_ended hs rfl hf _ _ _, State.put_onlyGroup hs _ _ _, State.put_memoryKept hs _ _ _,
    issued_put hs hw'.1 hw'.2.1 hw'.2.2.1 hw'.2.2.2.1 hw'.2.2.2.2.1 hw'.2.2.2.2.2, ?_, ?_⟩
  · rw [State.put_grp hs]
    exact regsKept_ended (regsKept_wrote _ _ _ _ _ _) _ _ _ _ _
  · rw [State.put_grp hs]
    exact specialKept_wrote _ _ _ _ _ _ _ _ _ _ _

/-- `laneWise` (R270). -/
theorem State.laneWise_spec (hs : Seated s) (h : Hdr) (d : Opnd) (val : Nat → Word) (full : Option VReg)
    (hf : ∀ r, full = some r → ∀ l, l < 96 → r.read l = val l) :
    ∃ t, s.laneWise h d val full = .next t ∧ Holds32 s t (s.lane h) d val ∧
      RegisterFrame s t h false (vRegs d 1) (oRegs d 1) (sRegs d 1) noReg :=
  State.write_done hs _ h d val full hf

end Sys2Proof.Machine
end

