-- ==== Sys2Proof/Laws/PerInstr.lean ====
section
/-! SUPPORT. Statements about every instruction as syntax, one lemma for each constructor of `Instr`. -/

namespace Sys2Proof.Laws.EncodesWhenWellFormed

/-- A well-formed instruction has a word (R237 to R241); an event of the device is no well-formed instruction. -/
def Statement (i : Instr) : Prop := i.wf = true → (encode i).isSome = true

theorem iadd (h : Hdr) (m : Mods) (t : ITy) (sat : Bool) (d a b : Opnd) :
    Statement (.iadd h m t sat d a b) := fun _ => rfl
theorem isub (h : Hdr) (m : Mods) (t : ITy) (sat : Bool) (d a b : Opnd) :
    Statement (.isub h m t sat d a b) := fun _ => rfl
theorem iadd3 (h : Hdr) (m : Mods) (t : ITy) (sat : Bool) (d a b c : Opnd) :
    Statement (.iadd3 h m t sat d a b c) := fun _ => rfl
theorem iaddc (h : Hdr) (m : Mods) (d a b : Opnd) (pc pe : PField) :
    Statement (.iaddc h m d a b pc pe) := fun _ => rfl
theorem isubb (h : Hdr) (m : Mods) (d a b : Opnd) (pc pe : PField) :
    Statement (.isubb h m d a b pc pe) := fun _ => rfl
theorem imul (h : Hdr) (m : Mods) (t : ITy) (sat : Bool) (d a b : Opnd) :
    Statement (.imul h m t sat d a b) := fun _ => rfl
theorem imulh (h : Hdr) (m : Mods) (t : ITy) (d a b : Opnd) :
    Statement (.imulh h m t d a b) := fun _ => rfl
theorem imad (h : Hdr) (m : Mods) (t : ITy) (sat : Bool) (d a b c : Opnd) :
    Statement (.imad h m t sat d a b c) := fun _ => rfl
theorem imadw (h : Hdr) (m : Mods) (t : ITy) (d a b c : Opnd) :
    Statement (.imadw h m t d a b c) := fun _ => rfl
theorem imin (h : Hdr) (m : Mods) (t : ITy) (d a b : Opnd) :
    Statement (.imin h m t d a b) := fun _ => rfl
theorem imax (h : Hdr) (m : Mods) (t : ITy) (d a b : Opnd) :
    Statement (.imax h m t d a b) := fun _ => rfl
theorem iabs (h : Hdr) (m : Mods) (t : ITy) (sat : Bool) (d a : Opnd) :
    Statement (.iabs h m t sat d a) := fun _ => rfl
theorem isad (h : Hdr) (m : Mods) (t : ITy) (d a b c : Opnd) :
    Statement (.isad h m t d a b c) := fun _ => rfl
theorem idot4 (h : Hdr) (m : Mods) (t : ITy) (sat : Bool) (d a b c : Opnd) :
    Statement (.idot4 h m t sat d a b c) := fun _ => rfl
theorem lea (h : Hdr) (m : Mods) (t : ITy) (k : BitVec 3) (d a b : Opnd) :
    Statement (.lea h m t k d a b) := fun _ => rfl
theorem iadd64 (h : Hdr) (m : Mods) (d a b : Opnd) :
    Statement (.iadd64 h m d a b) := fun _ => rfl
theorem isub64 (h : Hdr) (m : Mods) (d a b : Opnd) :
    Statement (.isub64 h m d a b) := fun _ => rfl
theorem mov (h : Hdr) (m : Mods) (w64 : Bool) (d a : Opnd) :
    Statement (.mov h m w64 d a) := fun _ => rfl
theorem movi (h : Hdr) (w64 : Bool) (d : Opnd) (imm : Word) :
    Statement (.movi h w64 d imm) := fun _ => rfl
theorem and (h : Hdr) (d a b : Opnd) :
    Statement (.and h d a b) := fun _ => rfl
theorem or (h : Hdr) (d a b : Opnd) :
    Statement (.or h d a b) := fun _ => rfl
theorem xor (h : Hdr) (d a b : Opnd) :
    Statement (.xor h d a b) := fun _ => rfl
theorem andn (h : Hdr) (d a b : Opnd) :
    Statement (.andn h d a b) := fun _ => rfl
theorem lop3 (h : Hdr) (lut : BitVec 8) (d a b c : Opnd) :
    Statement (.lop3 h lut d a b c) := fun _ => rfl
theorem shl (h : Hdr) (w64 : Bool) (d a b : Opnd) :
    Statement (.shl h w64 d a b) := fun _ => rfl
theorem shr (h : Hdr) (w64 : Bool) (d a b : Opnd) :
    Statement (.shr h w64 d a b) := fun _ => rfl
theorem sar (h : Hdr) (w64 : Bool) (d a b : Opnd) :
    Statement (.sar h w64 d a b) := fun _ => rfl
theorem fshl (h : Hdr) (d a b c : Opnd) :
    Statement (.fshl h d a b c) := fun _ => rfl
theorem fshr (h : Hdr) (d a b c : Opnd) :
    Statement (.fshr h d a b c) := fun _ => rfl
theorem rotl (h : Hdr) (d a b : Opnd) :
    Statement (.rotl h d a b) := fun _ => rfl
theorem bfe (h : Hdr) (t : ITy) (d a b c : Opnd) :
    Statement (.bfe h t d a b c) := fun _ => rfl
theorem bfi (h : Hdr) (d a b c e : Opnd) :
    Statement (.bfi h d a b c e) := fun _ => rfl
theorem brev (h : Hdr) (d a : Opnd) :
    Statement (.brev h d a) := fun _ => rfl
theorem popc (h : Hdr) (d a : Opnd) :
    Statement (.popc h d a) := fun _ => rfl
theorem clz (h : Hdr) (d a : Opnd) :
    Statement (.clz h d a) := fun _ => rfl
theorem ctz (h : Hdr) (d a : Opnd) :
    Statement (.ctz h d a) := fun _ => rfl
theorem prmt (h : Hdr) (d a b c : Opnd) :
    Statement (.prmt h d a b c) := fun _ => rfl
theorem icmp (h : Hdr) (m : Mods) (cond : Cond) (t : ITy) (pd : PField) (a b : Opnd) (pq : PField) :
    Statement (.icmp h m cond t pd a b pq) := fun _ => rfl
theorem fcmp (h : Hdr) (m : Mods) (cond : Cond) (ft : FTy) (pd : PField) (a b : Opnd) (pq : PField) :
    Statement (.fcmp h m cond ft pd a b pq) := fun _ => rfl
theorem sel (h : Hdr) (m : Mods) (d a b : Opnd) (pq : PField) :
    Statement (.sel h m d a b pq) := fun _ => rfl
theorem pset (h : Hdr) (lut : BitVec 8) (pd pa pb pc : PField) :
    Statement (.pset h lut pd pa pb pc) := fun _ => rfl
theorem pmovs (h : Hdr) (d : Opnd) (pa : PField) :
    Statement (.pmovs h d pa) := fun _ => rfl
theorem pmovp (h : Hdr) (m : Mods) (pd : PField) (a : Opnd) :
    Statement (.pmovp h m pd a) := fun _ => rfl
theorem qxchg (h : Hdr) (op : QxOp) (d a : Opnd) :
    Statement (.qxchg h op d a) := fun _ => rfl
theorem qbcst (h : Hdr) (k : BitVec 2) (d a : Opnd) :
    Statement (.qbcst h k d a) := fun _ => rfl
theorem qhelp (h : Hdr) (on : Bool) :
    Statement (.qhelp h on) := fun _ => rfl
theorem shfl (h : Hdr) (op : ShflOp) (d a b : Opnd) :
    Statement (.shfl h op d a b) := fun _ => rfl
theorem vote (h : Hdr) (form : VoteForm) (pa : PField) :
    Statement (.vote h form pa) := fun _ => rfl
theorem redg (h : Hdr) (op : RedOp) (t : ITy) (d a : Opnd) :
    Statement (.redg h op t d a) := fun _ => rfl
theorem scang (h : Hdr) (op : ScanOp) (ex : Bool) (t : ITy) (d a : Opnd) :
    Statement (.scang h op ex t d a) := fun _ => rfl
theorem zscan (h : Hdr) (f : Bool) (d a sc : Opnd) :
    Statement (.zscan h f d a sc) := fun _ => rfl
theorem rdlane (h : Hdr) (d a b : Opnd) :
    Statement (.rdlane h d a b) := fun _ => rfl
theorem wrlane (h : Hdr) (d a b : Opnd) :
    Statement (.wrlane h d a b) := fun _ => rfl
theorem bra (h : Hdr) (soff : BitVec 32) :
    Statement (.bra h soff) := fun _ => rfl
theorem brx (h : Hdr) (a : Opnd) :
    Statement (.brx h a) := fun _ => rfl
theorem call (h : Hdr) (link : Opnd) (soff : BitVec 32) :
    Statement (.call h link soff) := fun _ => rfl
theorem callx (h : Hdr) (link a : Opnd) :
    Statement (.callx h link a) := fun _ => rfl
theorem ret (h : Hdr) (a : Opnd) :
    Statement (.ret h a) := fun _ => rfl
theorem regang (h : Hdr) (a : Opnd) :
    Statement (.regang h a) := fun _ => rfl
theorem exit (h : Hdr) :
    Statement (.exit h) := fun _ => rfl
theorem yield (h : Hdr) :
    Statement (.yield h) := fun _ => rfl
theorem nop (h : Hdr) :
    Statement (.nop h) := fun _ => rfl
theorem trap (h : Hdr) (n : BitVec 8) :
    Statement (.trap h n) := fun _ => rfl
theorem bar (h : Hdr) (sc : BScope) (a : Opnd) :
    Statement (.bar h sc a) := fun _ => rfl
theorem bara (h : Hdr) (sc : BScope) (a : Opnd) :
    Statement (.bara h sc a) := fun _ => rfl
theorem barw (h : Hdr) (sc : BScope) (a : Opnd) :
    Statement (.barw h sc a) := fun _ => rfl
theorem hret (h : Hdr) :
    Statement (.hret h) := fun _ => rfl
theorem hset (h : Hdr) (a b c : Opnd) :
    Statement (.hset h a b c) := fun _ => rfl
theorem hmask (h : Hdr) (set : Bool) :
    Statement (.hmask h set) := fun _ => rfl
theorem fadd (h : Hdr) (m : Mods) (dm : DMod) (ft : FTy) (d a b : Opnd) :
    Statement (.fadd h m dm ft d a b) := fun _ => rfl
theorem fsub (h : Hdr) (m : Mods) (dm : DMod) (ft : FTy) (d a b : Opnd) :
    Statement (.fsub h m dm ft d a b) := fun _ => rfl
theorem fmul (h : Hdr) (m : Mods) (dm : DMod) (ft : FTy) (d a b : Opnd) :
    Statement (.fmul h m dm ft d a b) := fun _ => rfl
theorem ffma (h : Hdr) (m : Mods) (dm : DMod) (ft : FTy) (d a b c : Opnd) :
    Statement (.ffma h m dm ft d a b c) := fun _ => rfl
theorem fmin (h : Hdr) (m : Mods) (dm : DMod) (ft : FTy) (d a b : Opnd) :
    Statement (.fmin h m dm ft d a b) := fun _ => rfl
theorem fmax (h : Hdr) (m : Mods) (dm : DMod) (ft : FTy) (d a b : Opnd) :
    Statement (.fmax h m dm ft d a b) := fun _ => rfl
theorem frnd (h : Hdr) (m : Mods) (dm : DMod) (rm : RndSel) (ft : FTy) (d a : Opnd) :
    Statement (.frnd h m dm rm ft d a) := fun _ => rfl
theorem fclass (h : Hdr) (m : Mods) (ft : FTy) (d a : Opnd) :
    Statement (.fclass h m ft d a) := fun _ => rfl
theorem fscale (h : Hdr) (m : Mods) (dm : DMod) (ft : FTy) (d a b : Opnd) :
    Statement (.fscale h m dm ft d a b) := fun _ => rfl
theorem fdot2 (h : Hdr) (m : Mods) (dm : DMod) (ft : FTy) (d a b c : Opnd) :
    Statement (.fdot2 h m dm ft d a b c) := fun _ => rfl
theorem fcvt (h : Hdr) (m : Mods) (dm : DMod) (hi : Bool) (dft sft : FTy) (d a : Opnd) :
    Statement (.fcvt h m dm hi dft sft d a) := fun _ => rfl
theorem i2f (h : Hdr) (m : Mods) (dm : DMod) (dft : FTy) (it : ITy) (d a : Opnd) :
    Statement (.i2f h m dm dft it d a) := fun _ => rfl
theorem f2i (h : Hdr) (m : Mods) (scale : BitVec 3) (it : ITy) (sft : FTy) (d a : Opnd) :
    Statement (.f2i h m scale it sft d a) := fun _ => rfl
theorem packh (h : Hdr) (m : Mods) (dm : DMod) (ft : FTy) (d a b : Opnd) :
    Statement (.packh h m dm ft d a b) := fun _ => rfl
theorem frcp (h : Hdr) (m : Mods) (dm : DMod) (ft : FTy) (d a : Opnd) :
    Statement (.frcp h m dm ft d a) := fun _ => rfl
theorem frsq (h : Hdr) (m : Mods) (dm : DMod) (ft : FTy) (d a : Opnd) :
    Statement (.frsq h m dm ft d a) := fun _ => rfl
theorem fsqrt (h : Hdr) (m : Mods) (dm : DMod) (ft : FTy) (d a : Opnd) :
    Statement (.fsqrt h m dm ft d a) := fun _ => rfl
theorem fexp2 (h : Hdr) (m : Mods) (dm : DMod) (ft : FTy) (d a : Opnd) :
    Statement (.fexp2 h m dm ft d a) := fun _ => rfl
theorem flog2 (h : Hdr) (m : Mods) (dm : DMod) (ft : FTy) (d a : Opnd) :
    Statement (.flog2 h m dm ft d a) := fun _ => rfl
theorem fsin (h : Hdr) (m : Mods) (dm : DMod) (ft : FTy) (d a : Opnd) :
    Statement (.fsin h m dm ft d a) := fun _ => rfl
theorem fcos (h : Hdr) (m : Mods) (dm : DMod) (ft : FTy) (d a : Opnd) :
    Statement (.fcos h m dm ft d a) := fun _ => rfl
theorem ftanh (h : Hdr) (m : Mods) (dm : DMod) (ft : FTy) (d a : Opnd) :
    Statement (.ftanh h m dm ft d a) := fun _ => rfl
theorem fdiv (h : Hdr) (m : Mods) (dm : DMod) (ft : FTy) (d a b : Opnd) :
    Statement (.fdiv h m dm ft d a b) := fun _ => rfl
theorem stclr (h : Hdr) (d : Opnd) :
    Statement (.stclr h d) := fun _ => rfl
theorem stupd (h : Hdr) (m : Mods) (d a x : Opnd) :
    Statement (.stupd h m d a x) := fun _ => rfl
theorem stwupd (h : Hdr) (m : Mods) (d a x w : Opnd) :
    Statement (.stwupd h m d a x w) := fun _ => rfl
theorem stmrg (h : Hdr) (d a b : Opnd) :
    Statement (.stmrg h d a b) := fun _ => rfl
theorem stnrm (h : Hdr) (m : Mods) (smp : Bool) (d a eps : Opnd) :
    Statement (.stnrm h m smp d a eps) := fun _ => rfl
theorem stred (h : Hdr) (d a : Opnd) :
    Statement (.stred h d a) := fun _ => rfl
theorem stqred (h : Hdr) (d a : Opnd) :
    Statement (.stqred h d a) := fun _ => rfl
theorem ld (h : Hdr) (hint : BitVec 3) (ord : MOrd) (sz : Size) (d a b : Opnd) (off : BitVec 18) :
    Statement (.ld h hint ord sz d a b off) := fun _ => rfl
theorem st (h : Hdr) (hint : BitVec 3) (ord : MOrd) (sz : Size) (d a b : Opnd) (off : BitVec 18) :
    Statement (.st h hint ord sz d a b off) := fun _ => rfl
theorem stm (h : Hdr) (hint : BitVec 3) (d a b : Opnd) (off : BitVec 18) :
    Statement (.stm h hint d a b off) := fun _ => rfl
theorem sld (h : Hdr) (hint : BitVec 3) (ord : MOrd) (sz : Size) (d a b : Opnd) (off : BitVec 18) :
    Statement (.sld h hint ord sz d a b off) := fun _ => rfl
theorem sst (h : Hdr) (hint : BitVec 3) (ord : MOrd) (sz : Size) (d a b : Opnd) (off : BitVec 18) :
    Statement (.sst h hint ord sz d a b off) := fun _ => rfl
theorem atom (h : Hdr) (hint : BitVec 3) (ord : MOrd) (op : AOp) (d a b c e : Opnd) :
    Statement (.atom h hint ord op d a b c e) := fun _ => rfl
theorem red (h : Hdr) (hint : BitVec 3) (ord : MOrd) (op : AOp) (a b e : Opnd) :
    Statement (.red h hint ord op a b e) := fun _ => rfl
theorem pref (h : Hdr) (hint : BitVec 3) (l2 : Bool) (a b : Opnd) (off : BitVec 18) :
    Statement (.pref h hint l2 a b off) := fun _ => rfl
theorem cctl (h : Hdr) (hint : BitVec 3) (op : CctlOp) (a b : Opnd) (off : BitVec 18) :
    Statement (.cctl h hint op a b off) := fun _ => rfl
theorem fence (h : Hdr) (hint : BitVec 3) (kind : FKind) (sc : Scope) :
    Statement (.fence h hint kind sc) := fun _ => rfl
theorem fencex (h : Hdr) (hint : BitVec 3) (pa pb : Path) :
    Statement (.fencex h hint pa pb) := fun _ => rfl
theorem lds (h : Hdr) (hint : BitVec 3) (sz : Size) (d a b : Opnd) (off : BitVec 18) :
    Statement (.lds h hint sz d a b off) := fun _ => rfl
theorem sts (h : Hdr) (hint : BitVec 3) (sz : Size) (d a b : Opnd) (off : BitVec 18) :
    Statement (.sts h hint sz d a b off) := fun _ => rfl
theorem atoms (h : Hdr) (hint : BitVec 3) (op : AOp) (d a b c e : Opnd) :
    Statement (.atoms h hint op d a b c e) := fun _ => rfl
theorem sete (h : Hdr) (hint : BitVec 3) (a b : Opnd) (off : BitVec 18) :
    Statement (.sete h hint a b off) := fun _ => rfl
theorem setf (h : Hdr) (hint : BitVec 3) (a b : Opnd) (off : BitVec 18) :
    Statement (.setf h hint a b off) := fun _ => rfl
theorem tstf (h : Hdr) (hint : BitVec 3) (d a b : Opnd) (off : BitVec 18) :
    Statement (.tstf h hint d a b off) := fun _ => rfl
theorem dec (h : Hdr) (hint : BitVec 3) (delta : Bool) (d a b c : Opnd) (ps : PField) :
    Statement (.dec h hint delta d a b c ps) := fun _ => rfl
theorem cpy (h : Hdr) (hint : BitVec 3) (sz : XSize) (ss ds : Bool) (d a c e : Opnd) :
    Statement (.cpy h hint sz ss ds d a c e) := fun _ => rfl
theorem cpyt (h : Hdr) (hint : BitVec 3) (w : BitVec 2) (ss ds : Bool) (d a b c e : Opnd) :
    Statement (.cpyt h hint w ss ds d a b c e) := fun _ => rfl
theorem cpyc (h : Hdr) (hint : BitVec 3) (sz : XSize) (ss ds : Bool) (d a c e : Opnd) :
    Statement (.cpyc h hint sz ss ds d a c e) := fun _ => rfl
theorem ldct (h : Hdr) (hint : BitVec 3) (sp : Bool) (a e : Opnd) :
    Statement (.ldct h hint sp a e) := fun _ => rfl
theorem waitc (h : Hdr) (hint : BitVec 3) (path : Path) (a : Opnd) :
    Statement (.waitc h hint path a) := fun _ => rfl
theorem rdc (h : Hdr) (hint : BitVec 3) (path : Path) (d : Opnd) :
    Statement (.rdc h hint path d) := fun _ => rfl
theorem waitm (h : Hdr) (hint : BitVec 3) (cond : WCond) (w64 : Bool) (d a b : Opnd) :
    Statement (.waitm h hint cond w64 d a b) := fun _ => rfl
theorem abinit (h : Hdr) (hint : BitVec 3) (a b : Opnd) :
    Statement (.abinit h hint a b) := fun _ => rfl
theorem abarr (h : Hdr) (hint : BitVec 3) (a b c : Opnd) :
    Statement (.abarr h hint a b c) := fun _ => rfl
theorem abwait (h : Hdr) (hint : BitVec 3) (a b : Opnd) :
    Statement (.abwait h hint a b) := fun _ => rfl
theorem abflg (h : Hdr) (hint : BitVec 3) (d a : Opnd) :
    Statement (.abflg h hint d a) := fun _ => rfl
theorem mmq (h : Hdr) (body : Body) (cap : BitVec 2) (d a b c e : Opnd) :
    Statement (.mmq h body cap d a b c e) := fun _ => rfl
theorem mmf (h : Hdr) (fp16 : Bool) (d a b c e : Opnd) :
    Statement (.mmf h fp16 d a b c e) := fun _ => rfl
theorem mmd (h : Hdr) (d a b c e : Opnd) :
    Statement (.mmd h d a b c e) := fun _ => rfl
theorem tenc (h : Hdr) (body : Body) (cap sp : BitVec 2) (d a b e : Opnd) :
    Statement (.tenc h body cap sp d a b e) := fun _ => rfl
theorem tdec (h : Hdr) (body : Body) (cap : BitVec 2) (d b e : Opnd) :
    Statement (.tdec h body cap d b e) := fun _ => rfl
theorem tpin (h : Hdr) (body : Body) (cap : BitVec 2) (b c e : Opnd) :
    Statement (.tpin h body cap b c e) := fun _ => rfl
theorem tunpin (h : Hdr) (b e : Opnd) :
    Statement (.tunpin h b e) := fun _ => rfl
theorem mxcfg (h : Hdr) (a : Opnd) :
    Statement (.mxcfg h a) := fun _ => rfl
theorem tzero (h : Hdr) (d c e : Opnd) :
    Statement (.tzero h d c e) := fun _ => rfl
theorem tcvt (h : Hdr) (fmt : TFmt) (d a c e : Opnd) :
    Statement (.tcvt h fmt d a c e) := fun _ => rfl
theorem ldcbk (h : Hdr) (a e : Opnd) :
    Statement (.ldcbk h a e) := fun _ => rfl
theorem rld (h : Hdr) (stat : Bool) (sz : Size) (d a b : Opnd) (ps : PField) :
    Statement (.rld h stat sz d a b ps) := fun _ => rfl
theorem rst (h : Hdr) (stat : Bool) (sz : Size) (d a b : Opnd) (ps : PField) :
    Statement (.rst h stat sz d a b ps) := fun _ => rfl
theorem ratom (h : Hdr) (stat : Bool) (ty : ATy) (op : AOp) (d a b c : Opnd) (ps : PField) :
    Statement (.ratom h stat ty op d a b c ps) := fun _ => rfl
theorem rcpy (h : Hdr) (stat : Bool) (spad : Bool) (sz : XSize) (d a b c : Opnd) (ps : PField) :
    Statement (.rcpy h stat spad sz d a b c ps) := fun _ => rfl
theorem msend (h : Hdr) (stat : Bool) (spad : Bool) (d a b c : Opnd) (ps : PField) :
    Statement (.msend h stat spad d a b c ps) := fun _ => rfl
theorem mdone (h : Hdr) :
    Statement (.mdone h) := fun _ => rfl
theorem quiet (h : Hdr) :
    Statement (.quiet h) := fun _ => rfl
theorem qstat (h : Hdr) (sel : QSel) (d : Opnd) :
    Statement (.qstat h sel d) := fun _ => rfl
theorem coll (h : Hdr) (op : CollOp) (d a b c e : Opnd) :
    Statement (.coll h op d a b c e) := fun _ => rfl
theorem rfence (h : Hdr) :
    Statement (.rfence h) := fun _ => rfl
theorem csrr (h : Hdr) (d : Opnd) (csr : BitVec 12) :
    Statement (.csrr h d csr) := fun _ => rfl
theorem csrw (h : Hdr) (d a : Opnd) (csr : BitVec 12) :
    Statement (.csrw h d a csr) := fun _ => rfl
theorem csrs (h : Hdr) (d a : Opnd) (csr : BitVec 12) :
    Statement (.csrs h d a csr) := fun _ => rfl
theorem csrc (h : Hdr) (d a : Opnd) (csr : BitVec 12) :
    Statement (.csrc h d a csr) := fun _ => rfl
theorem launch (h : Hdr) (d a b : Opnd) :
    Statement (.launch h d a b) := fun _ => rfl
theorem sysc (h : Hdr) (n : BitVec 8) :
    Statement (.sysc h n) := fun _ => rfl
theorem ldovt (h : Hdr) (a : Opnd) :
    Statement (.ldovt h a) := fun _ => rfl
theorem tlbinv (h : Hdr) (sc : TlbScope) (a b : Opnd) :
    Statement (.tlbinv h sc a b) := fun _ => rfl
theorem eret (h : Hdr) :
    Statement (.eret h) := fun _ => rfl
theorem halt (h : Hdr) (hold : Bool) (a : Opnd) :
    Statement (.halt h hold a) := fun _ => rfl
theorem invalidSlotIssue : Statement .invalidSlotIssue := fun h => nomatch h
theorem illegalInstructionIssue (w : BitVec 96) :
    Statement (.illegalInstructionIssue w) := fun h => nomatch h
theorem loadReturn (g : GroupRef) (seq : Nat) :
    Statement (.loadReturn g seq) := fun h => nomatch h
theorem storePerform (g : GroupRef) :
    Statement (.storePerform g) := fun h => nomatch h
theorem atomicPerform (g : GroupRef) :
    Statement (.atomicPerform g) := fun h => nomatch h
theorem pageWalkComplete (c : CoreId) (ctx : Nat) (va : Dword) :
    Statement (.pageWalkComplete c ctx va) := fun h => nomatch h
theorem l1Eviction (c : CoreId) (line : Nat) :
    Statement (.l1Eviction c line) := fun h => nomatch h
theorem l2Eviction (line : Nat) :
    Statement (.l2Eviction line) := fun h => nomatch h
theorem feReaderRelease (b : BlockRef) (line : Nat) :
    Statement (.feReaderRelease b line) := fun h => nomatch h
theorem copyCompletion (g : GroupRef) (seq : Nat) :
    Statement (.copyCompletion g seq) := fun h => nomatch h
theorem matrixTileStep (c : CoreId) :
    Statement (.matrixTileStep c) := fun h => nomatch h
theorem scratchpadResultLanding (g : GroupRef) (seq : Nat) :
    Statement (.scratchpadResultLanding g seq) := fun h => nomatch h
theorem groupRetire (g : GroupRef) :
    Statement (.groupRetire g) := fun h => nomatch h
theorem launchEligible (l : LaunchRef) :
    Statement (.launchEligible l) := fun h => nomatch h
theorem blockDispatch (die : Nat) :
    Statement (.blockDispatch die) := fun h => nomatch h
theorem launchCompletion (l : LaunchRef) :
    Statement (.launchCompletion l) := fun h => nomatch h
theorem preemptionTrigger (b : BlockRef) :
    Statement (.preemptionTrigger b) := fun h => nomatch h
theorem blockHalt (b : BlockRef) :
    Statement (.blockHalt b) := fun h => nomatch h
theorem blockSave (b : BlockRef) :
    Statement (.blockSave b) := fun h => nomatch h
theorem haltTimeout (b : BlockRef) :
    Statement (.haltTimeout b) := fun h => nomatch h
theorem handlerEntry (g : GroupRef) :
    Statement (.handlerEntry g) := fun h => nomatch h
theorem asyncFaultDelivery (g : GroupRef) :
    Statement (.asyncFaultDelivery g) := fun h => nomatch h
theorem eccAsyncFailure (addr : Nat) :
    Statement (.eccAsyncFailure addr) := fun h => nomatch h
theorem feTimeout (g : GroupRef) :
    Statement (.feTimeout g) := fun h => nomatch h
theorem remoteReadRequest (p : Packet) :
    Statement (.remoteReadRequest p) := fun h => nomatch h
theorem remoteWriteRequest (p : Packet) :
    Statement (.remoteWriteRequest p) := fun h => nomatch h
theorem remoteAtomicRequest (p : Packet) :
    Statement (.remoteAtomicRequest p) := fun h => nomatch h
theorem messageDelivery (p : Packet) :
    Statement (.messageDelivery p) := fun h => nomatch h
theorem readResponse (peer seq : Nat) (bytes : List Byte) :
    Statement (.readResponse peer seq bytes) := fun h => nomatch h
theorem writeCompletion (peer seq : Nat) :
    Statement (.writeCompletion peer seq) := fun h => nomatch h
theorem atomicResponse (peer seq : Nat) (old : Dword) :
    Statement (.atomicResponse peer seq old) := fun h => nomatch h
theorem refusalResponse (peer seq reason : Nat) :
    Statement (.refusalResponse peer seq reason) := fun h => nomatch h
theorem quietNotice (job : Nat) :
    Statement (.quietNotice job) := fun h => nomatch h
theorem settleWaveStart (job : Nat) :
    Statement (.settleWaveStart job) := fun h => nomatch h
theorem settleToken (job wave si sc : Nat) :
    Statement (.settleToken job wave si sc) := fun h => nomatch h
theorem settleTokenReturn (job wave si sc : Nat) :
    Statement (.settleTokenReturn job wave si sc) := fun h => nomatch h
theorem settledReceipt (job wave : Nat) :
    Statement (.settledReceipt job wave) := fun h => nomatch h
theorem linkReplay (port : Nat) :
    Statement (.linkReplay port) := fun h => nomatch h
theorem replayExhausted (peer : Nat) :
    Statement (.replayExhausted peer) := fun h => nomatch h
theorem ackTimeout (peer : Nat) :
    Statement (.ackTimeout peer) := fun h => nomatch h
theorem linkWaitTimeout (peer : Nat) :
    Statement (.linkWaitTimeout peer) := fun h => nomatch h
theorem queryResend (peer : Nat) :
    Statement (.queryResend peer) := fun h => nomatch h
theorem peerQuery (peer n : Nat) :
    Statement (.peerQuery peer n) := fun h => nomatch h
theorem peerQueryReply (peer r : Nat) :
    Statement (.peerQueryReply peer r) := fun h => nomatch h
theorem downNotice (job rank : Nat) :
    Statement (.downNotice job rank) := fun h => nomatch h
theorem collChunkArrival (p : Packet) :
    Statement (.collChunkArrival p) := fun h => nomatch h
theorem slotReleaseNotice (p : Packet) :
    Statement (.slotReleaseNotice p) := fun h => nomatch h
theorem collTimeout (b : BlockRef) :
    Statement (.collTimeout b) := fun h => nomatch h
theorem gangReserveAck (gang rank : Nat) :
    Statement (.gangReserveAck gang rank) := fun h => nomatch h
theorem gangCommit (gang : Nat) :
    Statement (.gangCommit gang) := fun h => nomatch h
theorem gangWithdraw (l : LaunchRef) :
    Statement (.gangWithdraw l) := fun h => nomatch h
theorem gangWithdrawRequest (gang rank : Nat) :
    Statement (.gangWithdrawRequest gang rank) := fun h => nomatch h
theorem gangRelease (gang : Nat) :
    Statement (.gangRelease gang) := fun h => nomatch h
theorem gangRefusal (gang rank : Nat) :
    Statement (.gangRefusal gang rank) := fun h => nomatch h
theorem gangAbort (gang : Nat) :
    Statement (.gangAbort gang) := fun h => nomatch h
theorem arbiterTurn (port : Nat) :
    Statement (.arbiterTurn port) := fun h => nomatch h
theorem hostWrite (addr : Nat) (bytes : List Byte) :
    Statement (.hostWrite addr bytes) := fun h => nomatch h
theorem hostRead (addr len : Nat) :
    Statement (.hostRead addr len) := fun h => nomatch h
theorem preqGo (w : BitVec 32) :
    Statement (.preqGo w) := fun h => nomatch h
theorem preqHoldRelease (w : BitVec 32) :
    Statement (.preqHoldRelease w) := fun h => nomatch h
theorem hostLaunch (w : BitVec 32) :
    Statement (.hostLaunch w) := fun h => nomatch h
theorem jobreset (w : BitVec 32) :
    Statement (.jobreset w) := fun h => nomatch h
theorem faultctlRelease (w : BitVec 32) :
    Statement (.faultctlRelease w) := fun h => nomatch h
theorem faultctlEnd (w : BitVec 32) :
    Statement (.faultctlEnd w) := fun h => nomatch h
theorem resync (w : BitVec 32) :
    Statement (.resync w) := fun h => nomatch h
theorem jobRepair (w : BitVec 32) :
    Statement (.jobRepair w) := fun h => nomatch h
theorem portEnable (port : Nat) (mode : Byte) :
    Statement (.portEnable port mode) := fun h => nomatch h
theorem portDisable (port : Nat) (mode : Byte) :
    Statement (.portDisable port mode) := fun h => nomatch h
theorem portTrained (port : Nat) (voxgo : Bool) :
    Statement (.portTrained port voxgo) := fun h => nomatch h
theorem queueEnable (q : Nat) (w : BitVec 32) :
    Statement (.queueEnable q w) := fun h => nomatch h
theorem queueDisable (q : Nat) (w : BitVec 32) :
    Statement (.queueDisable q w) := fun h => nomatch h
theorem peerMapWrite (rank : Nat) (w : BitVec 32) :
    Statement (.peerMapWrite rank w) := fun h => nomatch h
theorem acktoWrite (w : BitVec 32) :
    Statement (.acktoWrite w) := fun h => nomatch h
theorem portWeightWrite (port cls : Nat) (w : Byte) :
    Statement (.portWeightWrite port cls w) := fun h => nomatch h
theorem eccCounterClear (k : Nat) (w : BitVec 32) :
    Statement (.eccCounterClear k w) := fun h => nomatch h
theorem powercapWrite (w : BitVec 32) :
    Statement (.powercapWrite w) := fun h => nomatch h
theorem mgmtRegisterWrite (off size : Nat) (value : Dword) :
    Statement (.mgmtRegisterWrite off size value) := fun h => nomatch h
theorem deviceReset : Statement .deviceReset := fun h => nomatch h
theorem pcieLinkTrained : Statement .pcieLinkTrained := fun h => nomatch h
theorem hbmTrained : Statement .hbmTrained := fun h => nomatch h
theorem clockStep (x : Sensors) :
    Statement (.clockStep x) := fun h => nomatch h
theorem issueGateStep (x : Sensors) :
    Statement (.issueGateStep x) := fun h => nomatch h
theorem thermalIssueStop (x : Sensors) :
    Statement (.thermalIssueStop x) := fun h => nomatch h

end Sys2Proof.Laws.EncodesWhenWellFormed
end

