-- ==== Sys2Proof/Tests/Slice0.lean ====
section
/-! SUPPORT. Tests of the model on the spec's own examples and hand calculations from its tables, and witnesses that
the hypotheses of every statement can be met. -/

namespace Sys2Proof.Tests

open Sys2Proof Sys2Proof.Machine

set_option Elab.async false

/-! ### Words written out from the encodings of R237, R239, R240 and R241 -/

/-- Formats R and X: both guards p7, bits [26:0] zero. -/
def wordR (opc : BitVec 10) (var : BitVec 6) (d a b c e : BitVec 9) : BitVec 96 :=
  opc ++ var ++ d ++ a ++ b ++ c ++ e ++ 0b0111#4 ++ 0b0111#4 ++ 0#27

/-- Format I, its immediate split as R239 says. -/
def wordI (opc : BitVec 10) (var : BitVec 6) (d a : BitVec 9) (imm : BitVec 32) : BitVec 96 :=
  opc ++ var ++ d ++ a ++ imm.extractLsb' 23 9 ++ imm.extractLsb' 14 9 ++ imm.extractLsb' 5 9 ++ 0b0111#4 ++ 0b0111#4 ++
    0#22 ++ imm.extractLsb' 0 5

/-- Format M. -/
def wordM (opc : BitVec 10) (var : BitVec 6) (d a b : BitVec 9) (off : BitVec 18) : BitVec 96 :=
  opc ++ var ++ d ++ a ++ b ++ off ++ 0b0111#4 ++ 0b0111#4 ++ 0#27

/-- Format J. -/
def wordJ (opc : BitVec 10) (soff : BitVec 32) (link : BitVec 9) : BitVec 96 :=
  opc ++ 0#6 ++ soff ++ link ++ 0#4 ++ 0b0111#4 ++ 0b0111#4 ++ 0#27

/-- The fields of an instruction whose guards are both p7. -/
def hz : Hdr := ⟨⟨false, 7⟩, ⟨false, 7⟩, 0, false⟩

/-- No modifier. -/
def m0 : Mods := Mods.none

/-- No clamp, no scale. -/
def dm0 : DMod := ⟨0, 0⟩

/-- A predicate operand. -/
def pp (n : BitVec 3) : PField := ⟨0, false, n⟩

/-- The decoder reads instruction `i` from word `w`. -/
def reads (w : BitVec 96) (i : Instr) : Bool :=
  match decode w with
  | .ok j => j == i
  | .error _ => false

/-- The decoder refuses word `w` for the reason `e`. -/
def refuses (w : BitVec 96) (e : Illegal) : Bool :=
  match decode w with
  | .ok _ => false
  | .error f => f == e

/-- Class 0x0 (R271). -/
theorem test_decode_class0 :
    reads (wordR 0x000 0x08 1 2 3 0 0) (.iadd hz m0 .i32 true (.v 1) (.v 2) (.v 3)) = true ∧
    reads (wordR 0x001 0x05 1 2 0x0E1 0 0) (.isub hz m0 .n8 false (.v 1) (.v 2) (.int 17)) = true ∧
    reads (wordR 0x002 0x02 1 2 3 4 0) (.iadd3 hz m0 .i16 false (.v 1) (.v 2) (.v 3) (.v 4)) = true ∧
    reads (wordR 0x003 0x01 0 2 4 0x00F 1) (.iaddc hz m0 (.v 0) (.v 2) (.v 4) ⟨0, true, 7⟩ (pp 1)) = true ∧
    reads (wordR 0x004 0x01 1 3 5 1 7) (.isubb hz m0 (.v 1) (.v 3) (.v 5) (pp 1) (pp 7)) = true ∧
    reads (wordR 0x005 0x00 1 0x085 3 0 0) (.imul hz m0 .i32 false (.v 1) (.s 5) (.v 3)) = true ∧
    reads (wordR 0x006 0x01 1 2 3 0 0) (.imulh hz m0 .n32 (.v 1) (.v 2) (.v 3)) = true ∧
    reads (wordR 0x007 0x0B 1 2 3 4 0) (.imad hz m0 .n16 true (.v 1) (.v 2) (.v 3) (.v 4)) = true ∧
    reads (wordR 0x008 0x00 6 2 3 8 0) (.imadw hz m0 .i32 (.v 6) (.v 2) (.v 3) (.v 8)) = true ∧
    reads (wordR 0x009 0x00 1 2 3 0 0) (.imin hz m0 .i32 (.v 1) (.v 2) (.v 3)) = true ∧
    reads (wordR 0x00A 0x01 1 2 3 0 0) (.imax hz m0 .n32 (.v 1) (.v 2) (.v 3)) = true ∧
    reads (wordR 0x00B 0x0C 1 2 0 0 0) (.iabs hz m0 .i8 true (.v 1) (.v 2)) = true ∧
    reads (wordR 0x00C 0x00 1 2 3 4 0) (.isad hz m0 .i32 (.v 1) (.v 2) (.v 3) (.v 4)) = true ∧
    reads (wordR 0x00D 0x04 1 2 3 4 0) (.idot4 hz m0 .i8 false (.v 1) (.v 2) (.v 3) (.v 4)) = true ∧
    reads (wordR 0x00E 0b110001#6 8 0x084 3 0 0) (.lea hz m0 .n32 6 (.v 8) (.s 4) (.v 3)) = true ∧
    reads (wordR 0x00F 0x00 8 2 4 0 0) (.iadd64 hz m0 (.v 8) (.v 2) (.v 4)) = true ∧
    reads (wordR 0x010 0x00 8 2 4 0 0) (.isub64 hz m0 (.v 8) (.v 2) (.v 4)) = true ∧
    reads (wordR 0x011 0x08 8 2 0 0 0) (.mov hz m0 true (.v 8) (.v 2)) = true ∧
    reads (wordI 0x012 0x00 8 0 0xDEADBEEF) (.movi hz false (.v 8) 0xDEADBEEF) = true := by decide +kernel

/-- Class 0x1 (R272). -/
theorem test_decode_class1 :
    reads (wordR 0x040 0 1 2 3 0 0) (.and hz (.v 1) (.v 2) (.v 3)) = true ∧
    reads (wordR 0x041 0 1 2 3 0 0) (.or hz (.v 1) (.v 2) (.v 3)) = true ∧
    reads (wordR 0x042 0 1 2 3 0 0) (.xor hz (.v 1) (.v 2) (.v 3)) = true ∧
    reads (wordR 0x043 0 1 2 3 0 0) (.andn hz (.v 1) (.v 2) (.v 3)) = true ∧
    reads (wordR 0x044 0 1 2 3 4 0x0E8) (.lop3 hz 0xE8 (.v 1) (.v 2) (.v 3) (.v 4)) = true ∧
    reads (wordR 0x045 0x08 2 4 3 0 0) (.shl hz true (.v 2) (.v 4) (.v 3)) = true ∧
    reads (wordR 0x046 0 1 2 3 0 0) (.shr hz false (.v 1) (.v 2) (.v 3)) = true ∧
    reads (wordR 0x047 0 1 2 3 0 0) (.sar hz false (.v 1) (.v 2) (.v 3)) = true ∧
    reads (wordR 0x048 0 1 2 3 4 0) (.fshl hz (.v 1) (.v 2) (.v 3) (.v 4)) = true ∧
    reads (wordR 0x049 0 1 2 3 4 0) (.fshr hz (.v 1) (.v 2) (.v 3) (.v 4)) = true ∧
    reads (wordR 0x04A 0 1 2 3 0 0) (.rotl hz (.v 1) (.v 2) (.v 3)) = true ∧
    reads (wordR 0x04B 1 1 2 3 4 0) (.bfe hz .n32 (.v 1) (.v 2) (.v 3) (.v 4)) = true ∧
    reads (wordR 0x04C 0 1 2 3 4 5) (.bfi hz (.v 1) (.v 2) (.v 3) (.v 4) (.v 5)) = true ∧
    reads (wordR 0x04D 0 1 2 0 0 0) (.brev hz (.v 1) (.v 2)) = true ∧
    reads (wordR 0x04E 0 1 2 0 0 0) (.popc hz (.v 1) (.v 2)) = true ∧
    reads (wordR 0x04F 0 1 2 0 0 0) (.clz hz (.v 1) (.v 2)) = true ∧
    reads (wordR 0x050 0 1 2 0 0 0) (.ctz hz (.v 1) (.v 2)) = true ∧
    reads (wordR 0x051 0 1 2 3 4 0) (.prmt hz (.v 1) (.v 2) (.v 3) (.v 4)) = true := by decide +kernel

/-- Classes 0x2 and 0x6 (R273, R274). -/
theorem test_decode_class2_class6 :
    reads (wordR 0x080 0b010001#6 1 2 3 7 0) (.icmp hz m0 .lt .n32 (pp 1) (.v 2) (.v 3) (pp 7)) = true ∧
    reads (wordR 0x081 0b111001#6 1 2 4 0x00F 0) (.fcmp hz m0 .nan .f64 (pp 1) (.v 2) (.v 4) ⟨0, true, 7⟩) = true ∧
    reads (wordR 0x082 0 1 2 3 4 0) (.sel hz m0 (.v 1) (.v 2) (.v 3) (pp 4)) = true ∧
    reads (wordR 0x083 0 1 2 3 4 0x096) (.pset hz 0x96 (pp 1) (pp 2) (pp 3) (pp 4)) = true ∧
    reads (wordR 0x084 0 0x08A 2 0 0 0) (.pmovs hz (.s 10) (pp 2)) = true ∧
    reads (wordR 0x085 0 2 0x08A 0 0 0) (.pmovp hz m0 (pp 2) (.s 10)) = true ∧
    reads (wordR 0x180 0x10 1 2 0 0 0) (.qxchg hz .d (.v 1) (.v 2)) = true ∧
    reads (wordR 0x181 0x18 1 2 0 0 0) (.qbcst hz 3 (.v 1) (.v 2)) = true ∧
    reads (wordR 0x182 0x08 0 0 0 0 0) (.qhelp hz true) = true ∧
    reads (wordR 0x183 0x18 1 2 3 0 0) (.shfl hz .bfly (.v 1) (.v 2) (.v 3)) = true ∧
    reads (wordR 0x184 0x08 1 2 0 0 0) (.vote hz (.every (pp 1)) (pp 2)) = true ∧
    reads (wordR 0x184 0x18 0x08B 0x00F 0 0 0) (.vote hz (.cnt (.s 11)) ⟨0, true, 7⟩) = true ∧
    reads (wordR 0x185 0b010001#6 3 1 0 0 0) (.redg hz .max .n32 (.v 3) (.v 1)) = true ∧
    reads (wordR 0x186 0b111001#6 5 1 0 0 0) (.scang hz .or true .n32 (.v 5) (.v 1)) = true ∧
    reads (wordR 0x187 0x08 2 1 0 0x08A 0) (.zscan hz true (.v 2) (.v 1) (.s 10)) = true ∧
    reads (wordR 0x188 0 0x081 2 3 0 0) (.rdlane hz (.s 1) (.v 2) (.v 3)) = true ∧
    reads (wordR 0x189 0 1 2 3 0 0) (.wrlane hz (.v 1) (.v 2) (.v 3)) = true := by decide +kernel

/-- Class 0x7 (R277). -/
theorem test_decode_class7 :
    reads (wordJ 0x1C0 0xFFFFFFFB 0) (.bra hz 0xFFFFFFFB) = true ∧
    reads (wordR 0x1C1 0 0 0x084 0 0 0) (.brx hz (.s 4)) = true ∧
    reads (wordJ 0x1C2 7 0x006) (.call hz (.v 6) 7) = true ∧
    reads (wordR 0x1C3 0 6 0x084 0 0 0) (.callx hz (.v 6) (.s 4)) = true ∧
    reads (wordR 0x1C4 0 0 6 0 0 0) (.ret hz (.v 6)) = true ∧
    reads (wordR 0x1C5 0 0 0x0CA 0 0 0) (.regang hz .zero) = true ∧
    reads (wordR 0x1C6 0 0 0 0 0 0) (.exit hz) = true ∧
    reads (wordR 0x1C7 0 0 0 0 0 0) (.yield hz) = true ∧
    reads (wordR 0x1C8 0 0 0 0 0 0) (.nop hz) = true ∧
    reads (wordI 0x1C9 0 0 0 0xA5) (.trap hz 0xA5) = true ∧
    reads (wordR 0x1CA 0 0 0x0E7 0 0 0) (.bar hz .blk (.int 23)) = true ∧
    reads (wordR 0x1CB 1 0 0x0CA 0 0 0) (.bara hz .bench .zero) = true ∧
    reads (wordR 0x1CC 2 0 0x0CA 0 0 0) (.barw hz .launch .zero) = true ∧
    reads (wordR 0x1CD 0 0 0 0 0 0) (.hret hz) = true ∧
    reads (wordR 0x1CE 0 0 0x0E3 0x086 0x089 0) (.hset hz (.int 19) (.s 6) (.s 9)) = true ∧
    reads (wordR 0x1CF 0x08 0 0 0 0 0) (.hmask hz true) = true := by decide +kernel

/-- Classes 0x3, 0x4 and 0x5 (R287, R289, R291, R296, R298), after the worked word of the spec's chapter 10. -/
theorem test_decode_class3_class4_class5 :
    reads 0x30C0020080604000B8800200#96
      (.ffma ⟨⟨false, 1⟩, ⟨false, 7⟩, 2, false⟩ ⟨false, false, false, true, false, false⟩ dm0 .f32 (.v 4) (.v 2) (.v 3) (.v 4))
      = true ∧
    reads (wordR 0x0C0 1 2 4 6 0 0) (.fadd hz m0 dm0 .f64 (.v 2) (.v 4) (.v 6)) = true ∧
    reads (wordR 0x0C1 2 1 2 3 0 0) (.fsub hz m0 dm0 .h2 (.v 1) (.v 2) (.v 3)) = true ∧
    reads (wordR 0x0C2 3 1 2 3 0 0) (.fmul hz m0 dm0 .b2 (.v 1) (.v 2) (.v 3)) = true ∧
    reads (wordR 0x0C4 0 1 2 3 0 0) (.fmin hz m0 dm0 .f32 (.v 1) (.v 2) (.v 3)) = true ∧
    reads (wordR 0x0C5 0 1 2 0x0F1 0 0) (.fmax hz m0 dm0 .f32 (.v 1) (.v 2) (.flt 1)) = true ∧
    reads (wordR 0x0C6 0b001100#6 1 2 0 0 0) (.frnd hz m0 dm0 .ru .f32 (.v 1) (.v 2)) = true ∧
    reads (wordR 0x0C7 2 1 2 0 0 0) (.fclass hz m0 .h2 (.v 1) (.v 2)) = true ∧
    reads (wordR 0x0C8 1 2 4 3 0 0) (.fscale hz m0 dm0 .f64 (.v 2) (.v 4) (.v 3)) = true ∧
    reads (wordR 0x0C9 3 1 2 3 4 0) (.fdot2 hz m0 dm0 .b2 (.v 1) (.v 2) (.v 3) (.v 4)) = true ∧
    reads (wordR 0x100 0b100010#6 1 2 0 0 0) (.fcvt hz m0 dm0 true .h2 .f32 (.v 1) (.v 2)) = true ∧
    reads (wordR 0x101 0b000101#6 2 3 0 0 0) (.i2f hz m0 dm0 .f64 .n32 (.v 2) (.v 3)) = true ∧
    reads (wordR 0x102 0b010000#6 1 2 0 0 0) (.f2i hz m0 0 .i8 .f32 (.v 1) (.v 2)) = true ∧
    reads (wordR 0x103 2 1 2 3 0 0) (.packh hz m0 dm0 .h2 (.v 1) (.v 2) (.v 3)) = true ∧
    reads (wordR 0x104 0 1 2 0 0 0) (.frcp hz m0 dm0 .f32 (.v 1) (.v 2)) = true ∧
    reads (wordR 0x105 0 1 2 0 0 0) (.frsq hz m0 dm0 .f32 (.v 1) (.v 2)) = true ∧
    reads (wordR 0x106 0 1 2 0 0 0) (.fsqrt hz m0 dm0 .f32 (.v 1) (.v 2)) = true ∧
    reads (wordR 0x107 0 1 2 0 0 0) (.fexp2 hz m0 dm0 .f32 (.v 1) (.v 2)) = true ∧
    reads (wordR 0x108 0 1 2 0 0 0) (.flog2 hz m0 dm0 .f32 (.v 1) (.v 2)) = true ∧
    reads (wordR 0x109 0 1 2 0 0 0) (.fsin hz m0 dm0 .f32 (.v 1) (.v 2)) = true ∧
    reads (wordR 0x10A 0 1 2 0 0 0) (.fcos hz m0 dm0 .f32 (.v 1) (.v 2)) = true ∧
    reads (wordR 0x10B 3 1 2 0 0 0) (.ftanh hz m0 dm0 .b2 (.v 1) (.v 2)) = true ∧
    reads (wordR 0x10C 0 1 2 3 0 0) (.fdiv hz m0 dm0 .f32 (.v 1) (.v 2) (.v 3)) = true ∧
    reads (wordR 0x140 0 10 0 0 0 0) (.stclr hz (.v 10)) = true ∧
    reads (wordR 0x141 0 10 20 3 0 0) (.stupd hz m0 (.v 10) (.v 20) (.v 3)) = true ∧
    reads (wordR 0x142 0 10 20 3 4 0) (.stwupd hz m0 (.v 10) (.v 20) (.v 3) (.v 4)) = true ∧
    reads (wordR 0x143 0 10 20 30 0 0) (.stmrg hz (.v 10) (.v 20) (.v 30)) = true ∧
    reads (wordR 0x144 1 10 20 0x0F0 0 0) (.stnrm hz m0 true (.v 10) (.v 20) (.flt 0)) = true ∧
    reads (wordR 0x145 0 0x0BA 20 0 0 0) (.stred hz (.s 58) (.v 20)) = true ∧
    reads (wordR 0x146 0 10 20 0 0 0) (.stqred hz (.v 10) (.v 20)) = true := by decide +kernel

/-- Classes 0x8 and 0x9 (R306 to R313). -/
theorem test_decode_class8_class9 :
    reads (wordM 0x200 0x0B 8 0x084 6 0x40) (.ld hz 0 ⟨.rlx, false⟩ .b64 (.v 8) (.s 4) (.v 6) 0x40) = true ∧
    reads (wordM 0x201 0b110010#6 8 4 0x0CA 0x3FFFC) (.st hz 0 ⟨.rel, true⟩ .b32 (.v 8) (.v 4) .zero 0x3FFFC) = true ∧
    reads (wordM 0x202 0 8 0x084 10 3) (.stm hz 0 (.v 8) (.s 4) (.v 10) 3) = true ∧
    reads (wordM 0x203 0b100100#6 0x088 0x084 0x0E4 0) (.sld hz 0 ⟨.acq, true⟩ .b128 (.s 8) (.s 4) (.int 20) 0) = true ∧
    reads (wordM 0x204 2 0x088 0x084 0x0CA 4) (.sst hz 0 ⟨.plain, false⟩ .b32 (.s 8) (.s 4) .zero 4) = true ∧
    reads (wordR 0x205 0b111111#6 8 4 6 10 0x0E2) (.atom hz 0 ⟨.ar, true⟩ .cas (.v 8) (.v 4) (.v 6) (.v 10) (.int 18)) = true ∧
    reads (wordR 0x206 0b000000#6 0 4 6 0 0x0E4) (.red hz 0 ⟨.rlx, false⟩ .add (.v 4) (.v 6) (.int 20)) = true ∧
    reads (wordM 0x207 1 0 4 0x0CA 0) (.pref hz 0 true (.v 4) .zero 0) = true ∧
    reads (wordM 0x20A 1 0 4 0x0CA 8) (.cctl hz 0 .inv (.v 4) .zero 8) = true ∧
    reads (wordR 0x208 0b001111#6 0 0 0 0 0) (.fence hz 0 .ar .pod) = true ∧
    reads (wordR 0x209 0x1A 0 0 0 0 0) (.fencex hz 0 .m .c) = true ∧
    reads (wordM 0x240 6 8 4 0x0CA 2) (.lds hz 0 .s16 (.v 8) (.v 4) .zero 2) = true ∧
    reads (wordM 0x241 4 8 4 0x0CA 0) (.sts hz 0 .b128 (.v 8) (.v 4) .zero 0) = true ∧
    reads (wordR 0x242 0 0x0CA 4 6 0 0x0E0) (.atoms hz 0 .add .zero (.v 4) (.v 6) (.v 0) (.int 16)) = true ∧
    reads (wordM 0x243 0 0 4 0x0CA 0) (.sete hz 0 (.v 4) .zero 0) = true ∧
    reads (wordM 0x244 0 0 4 0x0CA 0) (.setf hz 0 (.v 4) .zero 0) = true ∧
    reads (wordM 0x245 0 8 4 0x0CA 0) (.tstf hz 0 (.v 8) (.v 4) .zero 0) = true ∧
    reads (wordR 0x246 1 20 0x08C 0x08A 0x088 2) (.dec hz 0 true (.v 20) (.s 12) (.s 10) (.s 8) (pp 2)) = true := by
  decide +kernel

/-- Classes 0xA and 0xB (R314 to R320, R264), with the worked words of the spec's chapter 15. -/
theorem test_decode_classA_classB :
    reads (wordR 0x280 0b001001#6 4 8 0 0x0E1 0x0CA) (.cpy hz 0 .x8 false true (.v 4) (.v 8) (.int 17) .zero) = true ∧
    reads (wordR 0x281 0b001000#6 0x084 0x086 0x088 0x08A 0x0CA) (.cpyt hz 0 0 false true (.s 4) (.s 6) (.s 8) (.s 10) .zero)
      = true ∧
    reads (wordR 0x282 0b000110#6 4 8 0 0 0x08B) (.cpyc hz 0 .x16 true false (.v 4) (.v 8) (.v 0) (.s 11)) = true ∧
    reads (wordR 0x283 4 0 0x084 0 0 0x0CA) (.ldct hz 0 true (.s 4) .zero) = true ∧
    reads (wordR 0x284 4 0 0x0E3 0 0 0) (.waitc hz 0 .f (.int 19)) = true ∧
    reads (wordR 0x285 3 0x085 0 0 0 0) (.rdc hz 0 .m (.s 5)) = true ∧
    reads (wordR 0x286 0b000110#6 0x088 0x084 0x086 0 0) (.waitm hz 0 .ge true (.s 8) (.s 4) (.s 6)) = true ∧
    reads (wordR 0x287 0 0 0x084 0x0E4 0 0) (.abinit hz 0 (.s 4) (.int 20)) = true ∧
    reads (wordR 0x288 0 0 0x084 0x0E1 0x0CA 0) (.abarr hz 0 (.s 4) (.int 17) .zero) = true ∧
    reads (wordR 0x289 0 0 0x084 0x085 0 0) (.abwait hz 0 (.s 4) (.s 5)) = true ∧
    reads (wordR 0x28A 0 0x085 0x084 0 0 0) (.abflg hz 0 (.s 5) (.s 4)) = true ∧
    reads 0xB0044A0012C984D3B8000000#96 (.mmq hz .q3 1 (.s 20) (.v 0) (.s 22) (.s 24) (.s 26)) = true ∧
    reads (wordR 0x2C1 1 0x094 0 0x096 0x098 0x0CA) (.mmf hz true (.s 20) (.v 0) (.s 22) (.s 24) .zero) = true ∧
    reads (wordR 0x2C2 0 0x094 0 0x096 0x098 0x0CA) (.mmd hz (.s 20) (.v 0) (.s 22) (.s 24) .zero) = true ∧
    reads (wordR 0x2C3 0b101101#6 0x094 0 0x096 0 0x0CA) (.tenc hz .q4 3 2 (.s 20) (.v 0) (.s 22) .zero) = true ∧
    reads (wordR 0x2C4 0b001010#6 4 0 0x096 0 0x0CA) (.tdec hz .v2 2 (.v 4) (.s 22) .zero) = true ∧
    reads (wordR 0x2C5 0 0 0 0x096 0x0E8 0x0CA) (.tpin hz .q3 0 (.s 22) (.int 24) .zero) = true ∧
    reads (wordR 0x2C6 0 0 0 0x096 0 0x0CA) (.tunpin hz (.s 22) .zero) = true ∧
    reads (wordR 0x2C7 0 0 0x085 0 0 0) (.mxcfg hz (.s 5)) = true ∧
    reads (wordR 0x2C8 0 0x094 0 0 0x098 0x0CA) (.tzero hz (.s 20) (.s 24) .zero) = true ∧
    reads (wordR 0x2C9 2 0x094 0x095 0 0x098 0x0CA) (.tcvt hz .fp16 (.s 20) (.s 21) (.s 24) .zero) = true ∧
    reads (wordR 0x2CA 0 0 0x084 0 0 0x0CA) (.ldcbk hz (.s 4) .zero) = true := by decide +kernel

/-- Classes 0xC and 0xD (R339 to R349), with the worked words of the spec's chapter 16. -/
theorem test_decode_classC_classD :
    reads (wordR 0x300 0b001010#6 8 4 0x086 0 2) (.rld hz true .b32 (.v 8) (.v 4) (.s 6) (pp 2)) = true ∧
    reads 0xC042020090C00003B8000000#96 (.rst hz false .b32 (.v 4) (.v 2) (.s 6) PField.zero) = true ∧
    reads (wordR 0x302 0b100111#6 8 4 0x086 12 0) (.ratom hz false .n64 .cas (.v 8) (.v 4) (.s 6) (.v 12) PField.zero) = true ∧
    reads (wordR 0x303 0b010010#6 4 0x0CA 0x086 0x0CA 0) (.rcpy hz false true .x16 (.v 4) .zero (.s 6) .zero PField.zero)
      = true ∧
    reads 0xC1005B0502CE200338000000#96
      (.msend ⟨⟨false, 6⟩, ⟨false, 7⟩, 0, false⟩ false false (.s 54) (.v 20) (.v 22) (.int 18) PField.zero) = true ∧
    reads (wordR 0x305 0 0 0 0 0 0) (.mdone hz) = true ∧
    reads (wordR 0x306 0 0 0 0 0 0) (.quiet hz) = true ∧
    reads (wordR 0x307 3 0x084 0 0 0 0) (.qstat hz .wave (.s 4)) = true ∧
    reads 0xC2124C049089A4E3B8000000#96 (.coll hz (.statNorm false) (.s 24) (.v 18) (.s 4) (.s 26) (.s 28)) = true ∧
    reads (wordR 0x309 0 0 0 0 0 0) (.rfence hz) = true ∧
    reads 0xD00045000000000BB8000000#96 (.csrr hz (.s 10) 0x020) = true ∧
    reads (wordI 0x341 0 0x0CA 0x085 0x003) (.csrw hz .zero (.s 5) 0x003) = true ∧
    reads (wordI 0x342 0 0x084 0x085 0x000) (.csrs hz (.s 4) (.s 5) 0x000) = true ∧
    reads (wordI 0x343 0 0x084 0x0CA 0x80A) (.csrc hz (.s 4) .zero 0x80A) = true ∧
    reads (wordR 0x344 0 0x088 0x084 0x0E5 0 0) (.launch hz (.s 8) (.s 4) (.int 21)) = true ∧
    reads (wordI 0x345 0 0 0 0x7F) (.sysc hz 0x7F) = true ∧
    reads (wordR 0x346 0 0 0x085 0 0 0) (.ldovt hz (.s 5)) = true ∧
    reads (wordR 0x347 0 0 0x084 0x085 0 0) (.tlbinv hz .va (.s 4) (.s 5)) = true ∧
    reads (wordR 0x348 0 0 0 0 0 0) (.eret hz) = true ∧
    reads (wordR 0x349 1 0 0x085 0 0 0) (.halt hz true (.s 5)) = true := by decide +kernel

/-- Words that are no instruction: R396's table, an unlisted code of VAR, NWB where D is no latch (R248), and two
guards read from their own fields. -/
theorem test_decode_refuses :
    refuses 0x7200000000000003B8000040#96 (.reserved 6) = true ∧
    refuses 0x7400000000000003B8000000#96 .opc = true ∧
    refuses 0x800B042119A00203B8000000#96 (.operand 2) = true ∧
    refuses (wordM 0x200 0x2B 8 0x084 6 0x40) .var = true ∧
    refuses (wordR 0x000 0 1 2 3 0 0 ||| 0x8000#96) (.reserved 15) = true ∧
    refuses (wordR 0x000 6 1 2 3 0 0) .var = true ∧
    refuses (wordR 0x380 0 0 0 0 0 0) .opc = true ∧
    refuses (wordR 0x008 0 7 2 3 8 0) (.operand 0) = true := by decide +kernel

/-! ### Small states -/

/-- A block of one group on core 0 of die 0, seated at its first instruction, a `NOP`, every lane active. -/
def s0 : State := { State.reset.placeWord 0x7200000000000003B8000000#96 with cur := ⟨0, 0, 0xFFFFFF, 0x100000, none, false, 0, [], [], none⟩ }

/-- As `s0`, with p0 set in lane 0 alone. -/
def s1 : State := s0.modGrp (fun g => { g with preds := [(0, 1)] })

/-- Guards that no lane passes in `s0`, and that lane 0 alone passes in `s1`. -/
def h0 : Hdr := ⟨⟨false, 0⟩, ⟨false, 7⟩, 0, false⟩

/-- Context 0 made privileged: bit 1 of its descriptor's flags (R224). -/
def priv (s : State) : State := { s with mem := Memory.setByte s.mem 0x13 3 }

/-- The identity page of 1 GiB for the device's own engines too. -/
def devPage (s : State) : State := { s with tlb := s.tlb ++ [⟨devCore, 0, 0, ⟨0, 2 ^ 30, 0, false, true, true⟩⟩] }

/-- A second line at 0x100040 whose slot 0 holds `NOP` and is a branch target, and a handler installed there. -/
def handled (s : State) : State :=
  { s with mem := Memory.write (Memory.write s.mem 0x100040 12 0x7200000000000003B8000000) 0x10007C 4 0x4200 }.modGrp
    (fun g => { g with hvec := 0x40 })

/-- The state after an outcome, when there is one. -/
def after (o : Host.Outcome State Fault Refusal) : Option State :=
  match o with
  | .next t => some t
  | _ => none

/-- A result holds the value `x`. -/
def okIs {ε α : Type} [DecidableEq α] (e : Except ε α) (x : α) : Bool :=
  match e with
  | .ok y => decide (y = x)
  | .error _ => false

theorem okIs_eq {ε α : Type} [DecidableEq α] {e : Except ε α} {x : α} (h : okIs e x = true) : e = .ok x := by
  cases e with
  | error _ => simp [okIs] at h
  | ok y => simp only [okIs, decide_eq_true_eq] at h; rw [h]

/-- A result holds some value. -/
def okAny {ε α : Type} (e : Except ε α) : Bool :=
  match e with
  | .ok _ => true
  | .error _ => false

/-- A result is an error with a property. -/
def errIs {ε α : Type} (e : Except ε α) (p : ε → Bool) : Bool :=
  match e with
  | .ok _ => false
  | .error x => p x

theorem okAny_ex {ε α : Type} {e : Except ε α} (h : okAny e = true) : ∃ x, e = .ok x := by
  cases e with
  | error _ => simp [okAny] at h
  | ok y => exact ⟨y, rfl⟩

theorem getD_eq {α : Type} {o : Option α} {d : α} (h : o.isSome = true) : o = some (o.getD d) := by
  cases o with
  | none => simp at h
  | some _ => rfl

/-- The state that a seat gives has a property. -/
theorem some_ex {o : Option State} {p : State → Prop} (h : o.isSome = true) (k : p (o.getD s0)) : ∃ u, o = some u ∧ p u :=
  ⟨_, getD_eq h, k⟩

theorem after_eq {o : Host.Outcome State Fault Refusal} (h : (after o).isSome = true) : ∃ t, o = .next t := by
  cases o with
  | next t => exact ⟨t, rfl⟩
  | fault _ => simp [after] at h
  | refused _ => simp [after] at h

theorem seated (s : State) (h : (decide (s.cur.blk < s.blocks.length) && decide (s.cur.grp < s.blk.groups.length)) = true) :
    Seated s := by
  simpa [Seated] using h

/-! ### Ill-formed terms, one for each check of WellFormed -/

/-- A term is refused, and by which check: the kind of row, VAR, an unused field, or an operand's role. -/
theorem test_wellformed_refuses :
    -- a row of the device, and the two words that are no instruction
    (Instr.deviceReset).wf = false ∧ (Instr.invalidSlotIssue).isInstruction = false ∧
    -- VAR: types, orders and operations that the opcode does not list
    (Instr.imulh hz m0 .i8 (.v 1) (.v 2) (.v 3)).varOk = false ∧
    (Instr.idot4 hz m0 .i32 false (.v 1) (.v 2) (.v 3) (.v 4)).varOk = false ∧
    (Instr.icmp hz m0 .nan .i32 (pp 0) (.v 1) (.v 2) (pp 7)).varOk = false ∧
    (Instr.fdot2 hz m0 dm0 .f32 (.v 1) (.v 2) (.v 3) (.v 4)).varOk = false ∧
    (Instr.fsin hz m0 dm0 .f64 (.v 2) (.v 4)).varOk = false ∧
    (Instr.fcvt hz m0 dm0 true .f32 .f64 (.v 1) (.v 2)).varOk = false ∧
    (Instr.i2f hz m0 dm0 .h2 .i32 (.v 1) (.v 2)).varOk = false ∧
    (Instr.ld hz 0 ⟨.rel, false⟩ .b32 (.v 1) (.v 2) .zero 0).varOk = false ∧
    (Instr.ld hz 0 ⟨.plain, true⟩ .b32 (.v 1) (.v 2) .zero 0).varOk = false ∧
    (Instr.st hz 0 ⟨.acq, false⟩ .b32 (.v 1) (.v 2) .zero 0).varOk = false ∧
    (Instr.sts hz 0 .s8 (.v 1) (.v 2) .zero 0).varOk = false ∧
    (Instr.atom hz 0 ⟨.plain, false⟩ .add (.v 1) (.v 2) (.v 3) (.v 0) (.int 16)).varOk = false ∧
    (Instr.red hz 0 ⟨.rlx, false⟩ .cas (.v 2) (.v 3) (.int 16)).varOk = false ∧
    (Instr.tenc hz .v2 0 0 .zero (.v 0) (.s 8) .zero).varOk = false ∧
    (Instr.ratom hz false .f32 .add (.v 1) (.v 2) (.s 3) (.v 4) PField.zero).varOk = false ∧
    -- unused fields
    (Instr.mov hz ⟨false, false, true, false, false, false⟩ false (.v 1) (.v 2)).unusedZero = false ∧
    (Instr.atom hz 0 ⟨.rlx, false⟩ .add (.v 1) (.v 2) (.v 3) (.v 4) (.int 16)).unusedZero = false ∧
    (Instr.cctl hz 0 .wball (.v 2) (.v 0) 0).unusedZero = false ∧
    (Instr.dec hz 0 false (.v 1) (.s 2) (.s 3) (.s 4) (pp 1)).unusedZero = false ∧
    (Instr.rld hz false .b32 (.v 1) (.v 2) (.s 3) (pp 1)).unusedZero = false ∧
    (Instr.tlbinv hz .all (.s 4) (.s 5)).unusedZero = false := by decide +kernel

/-- Operand roles: the field that the check names (R394). -/
theorem test_wellformed_fields :
    -- a constant, an odd pair, lt1 and ZERO as destinations
    (Instr.iadd hz m0 .i32 false (.int 3) (.v 2) (.v 3)).badField = some fD ∧
    (Instr.iadd64 hz m0 (.v 3) (.v 2) (.v 4)).badField = some fD ∧
    (Instr.and hz .lt1 (.v 2) (.v 3)).badField = some fD ∧
    (Instr.fadd hz m0 dm0 .f32 .zero (.v 2) (.v 3)).badField = some fD ∧
    -- a code that names nothing, and an odd pair, as sources
    (Instr.iadd hz m0 .i32 false (.v 1) (.bad 0x0CD) (.v 3)).badField = some fA ∧
    (Instr.isub64 hz m0 (.v 2) (.v 4) (.v 5)).badField = some fB ∧
    -- predicate fields: a negated destination, a high bit
    (Instr.icmp hz m0 .eq .i32 ⟨0, true, 1⟩ (.v 1) (.v 2) (pp 7)).badField = some fD ∧
    (Instr.sel hz m0 (.v 1) (.v 2) (.v 3) ⟨1, false, 1⟩).badField = some fC ∧
    -- triples, packed scalars, scalars of STRED
    (Instr.stclr hz (.v 126)).badField = some fD ∧ (Instr.pmovs hz (.s 62) (pp 1)).badField = some fD ∧
    (Instr.stred hz (.s 59) (.v 0)).badField = some fD ∧
    -- addresses, groups of four, an atomic's type, barriers and links
    (Instr.ld hz 0 ⟨.plain, false⟩ .b128 (.v 2) (.v 4) .zero 0).badField = some fD ∧
    (Instr.ld hz 0 ⟨.plain, false⟩ .b32 (.v 2) (.v 5) .zero 0).badField = some fA ∧
    (Instr.atom hz 0 ⟨.rlx, false⟩ .and (.v 2) (.v 4) (.v 6) (.v 0) (.int 20)).badField = some fE ∧
    (Instr.bar hz .blk (.int 24)).badField = some fA ∧ (Instr.bar hz .bench (.int 16)).badField = some fA ∧
    (Instr.call hz (.v 5) 0).badField = some fLink ∧
    -- matrix fragments, peers, control pairs, the queue of LAUNCH
    (Instr.mmq hz .q3 0 (.s 1) (.v 121) (.s 2) (.s 3) .zero).badField = some fA ∧
    (Instr.rld hz false .b32 (.v 1) (.v 2) (.int 15) PField.zero).badField = some fB ∧
    (Instr.coll hz .stat (.s 2) (.v 3) (.s 4) (.s 5) (.s 60)).badField = some fE ∧
    (Instr.launch hz (.s 1) (.s 3) (.s 4)).badField = some fA := by decide +kernel

/-! ### Witnesses: encoding, the step, and the classes that work on registers -/

theorem seat0 : Seated s0 := seated _ (by decide +kernel)
theorem seat1 : Seated s1 := seated _ (by decide +kernel)

/-- `Obligations.DecodeEncode` and `Obligations.EncodeDecode`. -/
theorem witness_encoding :
    (Instr.ld hz 0 ⟨.acq, true⟩ .b64 (.v 126) (.s 62) (.v 127) 0x20000).wf = true ∧
    ∃ i, decode 0x800B042100C00203B8000000#96 = .ok i := ⟨by decide +kernel, _, rfl⟩

/-- `Obligations.StepRunsDecoded`: the probe that `withFetchWord` places. -/
theorem witness_StepRunsDecoded : ∃ (s t u v w : State) (xs : List Turn),
    t = { s.settle.servePreq with clock := s.clock + 1 } ∧ ({ t with agenda := xs }).seat probeRef = some u ∧
    u.seatSet = some v ∧ w = v.dispatcherRuns ∧
    w.transl w.core w.blk.ctx .fetch 1 (pcLine w.cur.pc) = .ok (0x100000, 0) ∧
    decode (BitVec.ofNat 96 (w.phys (0x100000 + 12 * pcSlot w.cur.pc) 12)) = .ok (.nop hz) ∧
    s.dueDiscard = none ∧ s.dueRerun = none ∧ s.dueLate = none ∧ t.eccFail = [] ∧ t.agenda = .issue probeRef :: xs ∧ u.grp.retired = false ∧
    u.grp.active.isSome = true ∧ u.plat.gate ≠ 0 ∧ u.grp.asyncs = [] ∧ u.grp.exited = false ∧ u.mayIssue = true ∧ (u.blk.steady && u.holdsRound u.core) = false ∧
    u.logEnds = false ∧ (u.handlerDue u.blk u.grp && !u.trapsNext false) = false ∧ u.grp.stallUntil ≤ u.clock ∧
    pcMalformed w.cur.pc = false ∧ w.badAt 0x100000 64 = false ∧
    step2 (BitVec.ofNat 96 (w.phys (0x100000 + 12 * pcSlot w.cur.pc) 12)) (BitVec.ofNat 32 (w.phys (0x100000 + 60) 4))
      (pcSlot w.cur.pc) = none ∧
    lineValid (BitVec.ofNat 32 (w.phys (0x100000 + 60) 4)) (pcSlot w.cur.pc) = true ∧
    (w.asksFetch.steadySwap (.nop hz) (usesOf (.nop hz))).grp.active.isSome = true ∧
    ((usesOf (.nop hz)).reads ++ (usesOf (.nop hz)).writes).all (fun x => !w.grp.pendingRegs.contains x) = true ∧
    w.grp.matrixBusy (usesOf (.nop hz)).reads (usesOf (.nop hz)).writes = false ∧ w.badRead (.nop hz) = none ∧
    w.blk.steady = false := by
  let s : State := State.reset.placeWord 0x7200000000000003B8000000#96
  let t : State := { s.settle.servePreq with clock := s.clock + 1 }
  let u : State := (({ t with agenda := [] } : State).seat probeRef).getD t
  let v : State := u.seatSet.getD u
  exact ⟨s, t, u, v, v.dispatcherRuns, [], rfl, getD_eq (by decide +kernel), getD_eq (by decide +kernel), rfl,
    okIs_eq (by decide +kernel), okIs_eq (by decide +kernel), by decide +kernel⟩

/-- `MOV` and `IADD` in a line whose first two slots are a pair, both valid. -/
def sPair : State := { s0 with mem := Memory.write (Memory.write (Memory.write s0.mem 0x100000 12
  (wordR 0x011 0 1 0x082 0 0 0).toNat) 0x10000C 12 (wordR 0x000 0 3 4 5 0 0).toNat) 0x10003C 4 0xC223 }

/-- The first of the pair. -/
def aMov : Instr := .mov hz m0 false (.v 1) (.s 2)

/-- A steady block with a group that waits for a slot. -/
def sSteady : State := s0.modBlk (fun b => { b with
  steady := true, groups := b.groups ++ [Group.start 1 1 0x100000 0 0 0] })

/-- `Obligations.StepRunsDecoded`, its clauses on pairs and on steady blocks. -/
theorem witness_pairs : Seated sPair ∧ sPair.pairOk aMov = true ∧
    (∃ z, exec aMov (sPair.seatIssue aMov {}) = .next z) ∧
    Seated sSteady ∧ (sSteady.steadySwap (.quiet hz) (usesOf (.quiet hz))).grp.active = none :=
  ⟨seated _ (by decide +kernel), by decide +kernel, after_eq (by decide +kernel), seated _ (by decide +kernel),
    by decide +kernel⟩

/-- The one hypothesis of `IntegerResults`, `WideIntegers`, `LogicAndShifts`, `PredicateResults`, `LaneMoves`,
`FloatResults`, `ConversionResults` and `SpecialFunctions` is a seat, with the premises of their clauses: `.i8` and
`.n8` for `IDOT4`, a legal pair for `MOV.64`. -/
theorem witness_register_results : Seated s0 ∧ (ITy.i8 = .i8 ∨ ITy.i8 = .n8) ∧ (ITy.n8 = .i8 ∨ ITy.n8 = .n8) ∧
    (Instr.mov hz m0 true (.v 126) (.s 62)).wf = true := ⟨seat0, .inl rfl, .inr rfl, by decide +kernel⟩

/-- `GroupWideResults` and `LaneSelection`: X(g) empty, and with one lane; scalars up to s61. -/
theorem witness_group_wide : Seated s1 ∧ s1.xs h0 = [0] ∧ Seated s0 ∧ s0.xs h0 = [] ∧ (61 : BitVec 6).toNat ≤ 61 ∧
    (Opnd.v 1 ≠ .s 61) := ⟨seat1, by decide +kernel, seat0, by decide +kernel, by decide, by decide⟩

/-- `Statistics`: forms of triples up to v125, scalars up to s58, X(g) empty and not, with lanes that execute and none. -/
theorem witness_Statistics : Seated s1 ∧ s1.xs h0 ≠ [] ∧ s0.xs h0 = [] ∧ s1.lanes h0 ≠ [] ∧ s0.lanes h0 = [] ∧
    (58 : BitVec 6).toNat ≤ 58 ∧
    (Instr.stclr hz (.v 125)).wf = true ∧ (Instr.stupd hz m0 (.v 125) (.v 0) (.v 3)).wf = true ∧
    (Instr.stwupd hz m0 (.v 125) (.v 0) (.v 3) (.s 4)).wf = true ∧ (Instr.stmrg hz (.v 125) (.v 0) (.v 1)).wf = true ∧
    (Instr.stnrm hz m0 true (.v 125) (.v 0) .zero).wf = true ∧ (Instr.stqred hz (.v 125) (.v 0)).wf = true := by
  refine ⟨seat1, ?_⟩; decide +kernel

/-! ### Witnesses: control, faults and returns -/

/-- `HelperMode` and `GroupActs`: lanes in the set, 24 quads, a helper lane beside an active one. -/
theorem witness_group_acts : Seated s0 ∧ s0.lanes hz ≠ [] ∧ s0.grp.quads.length = 24 ∧
    (let g := { s0.grp with helper := true }.setS 61 1
     g.isHelper 3 = true ∧ g.isHelper 4 = false) := ⟨seat0, by decide +kernel, by decide +kernel, by decide +kernel⟩

/-- The group handles messages, its descriptor at 0x2000 with slot count 2^`lg`, its inbox bound to `i`. -/
def boxed (lg : Byte) (i : Option Inbox) : State :=
  (devPage { s0 with mem := Memory.setByte s0.mem 0x2008 lg }).modBlk (fun b => { b with handg := some 0, inbox := i })

/-- `GroupActs`, the `HSET` clause: the largest inbox, slot and sizes, bound before and not. -/
theorem witness_HSET : Seated (boxed 12 none) ∧
    (boxed 12 none).hsetCheck 63 0x2000 0x44 = .ok 0x2008 ∧ (boxed 2 none).hsetCheck 0 0x2000 0 = .ok 0x2008 ∧
    (boxed 2 (some ⟨63, 0x2000⟩)).hsetCheck 63 0x2000 0x44 = .ok 0x2008 ∧
    (boxed 12 none).grp.once (.int 31) = 15 := by
  refine ⟨seated _ (by decide +kernel), okIs_eq ?_, okIs_eq ?_, okIs_eq ?_, ?_⟩ <;> decide +kernel

/-- `Obligations.StepRunsDecoded`, a message that an instruction's trap goes ahead of (R377): a handler group at `TRAP 5`, with
a message in its inbox. -/
theorem witness_trapFirst :
    let s := handled (boxed 2 (some ⟨5, 0x2000⟩))
    let m := Memory.write (Memory.setByte s.mem 0x2010 1) 0x100000 12 (wordI 0x0F2 0 0 0 5).toNat
    let t : State := { s with mem := m }.modGrp (fun g => { g with hmaskr := 0 })
    t.handlerDue t.blk t.grp = true ∧ t.trapsNext false = true := by decide +kernel

/-- `Transfers`: direct and indirect targets that pass, and a first failing quad: slot 1 holds no target, and v4:v5
names one in quad 0 alone. -/
theorem witness_Transfers : Seated s0 ∧
    (∀ q, q < 24 → (s0.takers hz).getLsbD q = true → s0.checkTarget false (s0.direct 0) = none) ∧
    (s0.takers hz).getLsbD 0 = true ∧ (s0.checkTarget false (s0.direct 1)).isSome = true ∧
    (let s := s0.modGrp (fun g => { g with vregs := [(4, .g (List.replicate 4 0x100000#32))] })
     s.checkTarget false (s.target (.v 4) 0) = none ∧ (s.checkTarget false (s.target (.v 4) 1)).isSome = true) :=
  ⟨seat0, by decide +kernel⟩

/-- A launch of queue 64 that the probe's block belongs to, in the mode `m`. -/
def launchOf (m : Nat) : Launch :=
  { ref := ⟨64, 0⟩, ctx := 0, tenant := 0, job := 0, addr := 0, packet := List.replicate 64 0, header := none,
    eligible := true, next := 0, waiting := [], again := [], eccDone := [], map := [], retired := 0, dispatched := 1,
    stopped := false, status := none, benchBars := [], launchBar := 0, gang := .idle, members := [], waitSince := 0,
    cores := [], mode := m, recLog := 0, recFull := false, taken := [], ext := [] }

/-- As `s0`, in a co-scheduled block of a live launch. -/
def sCo : State := ({ s0 with launches := [launchOf 0] } : State).modBlk (fun b => { b with cosched := true })

/-- As `sCo`, with a second group that has not arrived. -/
def sTwo : State := sCo.modBlk (fun b => { b with groups := b.groups ++ [{ Group.start 1 1 0x100000 0 0 0 with active := some 1 }] })

/-- `RegangAndExit` and `Barriers`: block and launch scope, the first and the last barrier, an arrival that completes the
barrier and one that does not. -/
theorem witness_Barriers :
    ∀ s ∈ [sCo, sTwo], Seated s ∧ s.grp.quads.length = 24 ∧ s.lanes hz ≠ [] ∧ (s.launch? s.blk.ref.launch).isSome = true ∧
      s.grp.releaseMoves false = true ∧ s.grp.redsDone s.grp.issues = true ∧ s.xs hz ≠ [] ∧
      (∀ a ∈ [(BScope.blk, Opnd.int 16), (.blk, .int 23), (.bench, .zero), (.launch, .zero)],
        s.barFault a.1 (barIdx a.1 a.2) true true = none ∧ s.barFault a.1 (barIdx a.1 a.2) true false = none ∧
        s.barFault a.1 (barIdx a.1 a.2) false true = none ∧
        (s.modGrp (fun g => { g with arrivals := Tbl.set 0 g.arrivals (barIdx a.1 a.2) (s.barGen (barIdx a.1 a.2) + 1) })).barFull
          (barIdx a.1 a.2) = decide (s.blk.groups.length = 1)) := by
  intro s hs
  simp only [List.mem_cons, List.not_mem_nil, or_false] at hs
  rcases hs with rfl | rfl <;> refine ⟨seated _ (by decide +kernel), ?_⟩ <;> decide +kernel

/-- `Barriers`, a form whose executing lanes are all helper lanes: lane 1 of quad 0, whose mask holds lane 0 alone. -/
theorem witness_helperBarrier :
    let s := s0.modGrp (fun g => ((({ g with helper := true, preds := [(0, 2)] }).setS 61 1).setS 62 0).setS 63 0)
    Seated s ∧ s.lanes h0 = [1] ∧ s.xs h0 = [] ∧ s.barFault .blk (barIdx .blk (.int 23)) false false = none :=
  ⟨seated _ (by decide +kernel), by decide +kernel, by decide +kernel, by decide +kernel⟩

/-- `UserTraps`, `TrapToHandler` and `TrapToHalt`: with no handler, with INH set, with a handler that may be entered; a
code of the user's, one that is not, and SYSCALL with and without privilege. -/
theorem witness_traps : Seated (handled s0) ∧ (handled s0).xs hz ≠ [] ∧ s0.grp.hvec = 0 ∧ (handled s0).grp.hvec ≠ 0 ∧
    (handled s0).grp.hmaskr.getLsbD 1 = false ∧ (handled s0).checkTarget true (handled s0).handlerPc = none ∧
    userCode 0x40 ((handled s0).ctxPriv (handled s0).blk.ctx) = true ∧
    userCode 0x13 ((handled s0).ctxPriv (handled s0).blk.ctx) = false ∧
    (handled s0).ctxPriv (handled s0).blk.ctx = false ∧
    (let s := priv (handled s0)
     Seated s ∧ userCode 0x41 (s.ctxPriv s.blk.ctx) = true ∧ s.checkTarget true s.handlerPc = none) ∧
    ((handled s0).modGrp (fun g => { g with hmaskr := 3 })).grp.hmaskr.getLsbD 1 = true := by
  and_intros <;> decide +kernel

/-- The group in its handler after a trap of the user's. -/
def inHandler : State := (priv (handled s0)).trap { code := 0x40 }

/-- `HandlerReturn`: no frame; a frame, for `HRET` and for `ERET` of a privileged context. -/
theorem witness_HandlerReturn : Seated s0 ∧ s0.xs hz ≠ [] ∧ s0.grp.frame = none ∧ Seated inHandler ∧
    inHandler.xs hz ≠ [] ∧ inHandler.grp.quads.length = 24 ∧ inHandler.ctxPriv inHandler.blk.ctx = true ∧
    inHandler.grp.trec0.getLsbD 8 = true ∧
    inHandler.grp.frame.isSome = true := by
  and_intros <;> decide +kernel

/-! ### Witnesses: memory, scratchpad, copies and waits -/

/-- Sets scalars of the present group. -/
def sc (l : List (Nat × Word)) (s : State) : State := s.modGrp (fun g => l.foldl (fun g p => g.setS p.1 p.2) g)

/-- As `s1`, with s4:s5 = 0x2000 and s6:s7 = 0x2001. -/
def sM : State := sc [(4, 0x2000), (6, 0x2001)] s1

theorem seatM : Seated sM := seated _ (by decide +kernel)

/-- `Loads`, `StoreIssues`, `AtomicIssues` and `CacheControls`: an aligned address that translates for each, with room. -/
theorem witness_memory_issues : Seated sM ∧ sM.lanes h0 = [] ++ 0 :: [] ∧ sM.xs h0 = [0] ∧
    sM.grp.pathHeld .g = false ∧ sM.grp.pathHeld .s = false ∧ sM.grp.counter .g < 63 ∧ sM.grp.counter .s < 63 ∧
    (∃ pas, checkLanes (fun l => sM.loadAt 1 false (sM.grp.ea (.s 4) .zero 0 l)) (sM.lanes h0) = .ok pas) ∧
    (∃ pas, checkLanes (fun l => sM.loadAt 16 true (sM.grp.ea (.s 4) .zero 0 l)) ((sM.xs h0).take 1) = .ok pas) ∧
    (∃ pas, checkLanes (fun l => sM.globalAt .write 16 true (sM.grp.ea (.s 4) .zero 0 l)) (sM.xs h0) = .ok pas) ∧
    (∃ pas, checkLanes (fun l => sM.stmLane l (sM.grp.ea (.s 6) .zero 0 l) (sM.grp.read64 (.v 8) l) [0, 7]) (sM.xs h0)
      = .ok pas) ∧
    (∃ pas, checkLanes (fun l => sM.atomAt true 8 (sM.grp.read64 (.s 4) l)) (sM.xs h0) = .ok pas) ∧
    (∃ acc, sM.cctlAcc .wb (sM.grp.ea (.s 6) .zero 0) (sM.xs h0) = .ok acc) ∧
    (∃ acc, sM.cctlAcc .invall (sM.grp.ea (.s 6) .zero 0) (sM.xs h0) = .ok acc) ∧
    sM.barsStrong ⟨.rel, true⟩ = false ∧ ATy.ofOpnd (.int 16) = some .n32 ∧ ATy.ofOpnd (.int 20) = some .f32 ∧
    sM.blk.restartable = false ∧ sM.blk.buffers = false ∧
    signOk (sM.grp.ea (.s 6) .zero 0 0) = true ∧ (sM.grp.ea (.s 6) .zero 0 0).toNat % 2 ≠ 0 := by
  and_intros <;> first
    | decide +kernel
    | exact okAny_ex (by decide +kernel)

/-- Where the tests' operations were issued: by every quad of the probe. -/
def aOrg : Origin := ⟨0x100000, 0xFFFFFF⟩

/-- A group with one load in flight, after which its fences `fs` were issued. -/
def sFences (fs : List Fence) : State := sM.modGrp (fun g => { g with
  issues := 1
  memops := [⟨0, .g, .load, ⟨.plain, false⟩, [⟨0, 0x2000, 4, false, 0, 0, 0, false⟩], [], some ⟨false, 8, 1, .b32⟩, true,
    false, 0, ⟨0x100000, 0xFFFFFF⟩⟩]
  fences := fs })

/-- `CacheControls`, the fences: one that ends behind an unfinished one, one that takes its write-back first, none that
may move, and a restartable block where the kind and scope allow a fence. -/
theorem witness_fences :
    (let s := sFences [.fencex .g .f 1 false aOrg, .fencex .c .m 1 false aOrg]
     Seated s ∧ s.xs h0 ≠ [] ∧ s.blk.halted = false ∧ (∀ f ∈ s.grp.fences, s.grp.fenceWrites f = false) ∧
      (∃ f ∈ s.grp.fences, s.grp.fenceReady f = true) ∧ s.endFence.grp.fences = [.fencex .g .f 1 false aOrg] ∧
      s.badMem = []) ∧
    (let s := (sFences [.fence .rel .pod 0 false aOrg])
     s.endFence.grp.fences = [.fence .rel .pod 0 true aOrg]) ∧
    (let s := sFences [.fence .acq .core 1 false aOrg]
     Seated s ∧ ∀ f ∈ s.grp.fences, s.grp.fenceWrites f = false ∧ s.grp.fenceReady f = false) := by
  refine ⟨⟨seated _ (by decide +kernel), ?_⟩, ?_, seated _ (by decide +kernel), ?_⟩ <;> decide +kernel

/-- `CacheControls`, the prefetches: no word fails its check. -/
theorem witness_Sound : Sound sM := ⟨by decide +kernel, by decide +kernel⟩

/-- `PrefetchesDropped`, a lane that fetches its line, and a helper lane, whose drop is not counted. -/
theorem witness_prefetched :
    okIs (sM.globalAt .read 1 false (sM.grp.ea (.s 4) .zero 0 0)) (0x2000, false) = true ∧ inHost 0x2000 = false ∧
    inHbm 0x2000 = true ∧
    (let s := s0.modGrp (fun g => ((({ g with helper := true, preds := [(0, 2)] }).setS 61 1).setS 62 0).setS 63 0)
     s.lanes h0 = [1] ∧ s.xlane h0 1 = false) := by decide +kernel

/-- `PrefetchesDropped`: an address that no page holds. -/
theorem witness_PrefetchesDropped :
    let s := sc [(5, 0x40)] s1
    Seated s ∧ s.lanes h0 = [0] ∧
    ∀ l ∈ s.lanes h0, ∀ pa home, s.globalAt .read 1 false (s.grp.ea (.s 4) .zero 0 l) = .ok (pa, home) → inHost pa = true := by
  have hl : (sc [(5, 0x40)] s1).lanes h0 = [0] := by decide +kernel
  refine ⟨seated _ (by decide +kernel), hl, ?_⟩
  rw [hl]
  intro l hm pa home he
  simp only [List.mem_cons, List.not_mem_nil, or_false] at hm
  subst hm
  have : okAny ((sc [(5, 0x40)] s1).globalAt .read 1 false ((sc [(5, 0x40)] s1).grp.ea (.s 4) .zero 0 0)) = false := by
    decide +kernel
  rw [he] at this
  simp [okAny] at this

/-- An operation of path `p` with the accesses `acc`. -/
def memOp (p : Path) (k : MemKind) (acc : List Access) (dst : Option Dest) : MemOp :=
  ⟨0, p, k, ⟨.plain, false⟩, acc, [(0, 0x85)], dst, true, false, 0, ⟨0x100000, 0xFFFFFF⟩⟩

/-- The group has issued `o`. -/
def flying (o : MemOp) : State := sM.modGrp (fun g => { g with issues := 1, memops := [o] })

/-- `LoadReturns`: a returned load of a sign-extended byte, and one whose access has not performed. -/
theorem witness_LoadReturns :
    (let s := flying (memOp .g .load [] (some ⟨false, 8, 1, .s8⟩))
     ∃ u, s.seat probeRef = some u ∧
      u.grp.memops.find? (fun o => o.path == .g) = some (memOp .g .load [] (some ⟨false, 8, 1, .s8⟩)) ∧
      u.replaying = false) ∧
    (let o := memOp .g .load [⟨0, 0x2000, 1, false, 0, 0, 0, false⟩] none
     ∃ u, (flying o).seat probeRef = some u ∧ u.grp.memops.find? (fun o => o.path == .g) = some o ∧ o.acc ≠ []) :=
  ⟨⟨((flying (memOp .g .load [] (some ⟨false, 8, 1, .s8⟩))).seat probeRef).getD sM, getD_eq (by decide +kernel),
      by decide +kernel, by decide +kernel⟩,
    ⟨((flying (memOp .g .load [⟨0, 0x2000, 1, false, 0, 0, 0, false⟩] none)).seat probeRef).getD sM,
      getD_eq (by decide +kernel), by decide +kernel, by decide +kernel⟩⟩

/-- The oldest store of the witness below: four bytes, the last one of its line, at the home or in L1. -/
def aStore (home : Bool) : MemOp := memOp .s .store [⟨0, 0x207C, 4, home, 0xDDCCBBAA, 0, 0, false⟩] none

/-- `StorePerforms`: to the buffer of a restartable block, to L1 and to the home, there a failing word that the store
replaces in part too. -/
theorem witness_StorePerforms :
    (∀ b : Bool, ∃ u, (flying (aStore b)).seat probeRef = some u ∧
      u.grp.memops.find? (fun o => o.isStore && o.pending) = some (aStore b) ∧ u.grp.mayPerform (aStore b) = true ∧
      u.blk.buffers = false ∧ u.badMem = [] ∧ u.l1Find u.core (0x207C / 128) = none) ∧
    (let s := (flying (aStore false)).modBlk (fun b => { b with restartable := true })
     ∃ u, s.seat probeRef = some u ∧ u.grp.mayPerform (aStore false) = true ∧ u.blk.buffers = true ∧
       u.bufFull 0x207C = false) ∧
    (let s := { flying (aStore true) with badMem := [0x2078 / 8] }
     ∃ u, s.seat probeRef = some u ∧ u.grp.mayPerform (aStore true) = true ∧ u.blk.buffers = false ∧
       u.l1Find u.core (0x207C / 128) = none ∧ u.badMem = [0x2078 / 8] ∧ 0x207C / 8 = 0x2078 / 8 ∧ ¬ 0x207C ≤ 8 * (0x2078 / 8)) := by
  refine ⟨fun b => ⟨((flying (aStore b)).seat probeRef).getD sM, ?_⟩,
    ⟨(((flying (aStore false)).modBlk (fun b => { b with restartable := true })).seat probeRef).getD sM,
      getD_eq (by decide +kernel), by decide +kernel⟩,
    ⟨(({ flying (aStore true) with badMem := [0x2078 / 8] } : State).seat probeRef).getD sM, getD_eq (by decide +kernel),
      by decide +kernel⟩⟩
  cases b <;> exact ⟨getD_eq (by decide +kernel), by decide +kernel⟩

/-- A store and an atomic that release. -/
def aRelease (atom : Bool) : MemOp :=
  { memOp (if atom then .g else .s) (if atom then .atom .add .n32 else .store)
      [⟨0, 0x2000, 4, true, 1, 0, 0, false⟩] none with ord := ⟨.rel, false⟩ }

/-- `StorePerforms` and `Atomics`: a release that has not written the core's L1 back. -/
theorem witness_ReleaseWritesBack : ∀ atom : Bool, ∃ u, (flying (aRelease atom)).seat probeRef = some u ∧
    u.grp.memops.find? (fun o => (if atom then o.isAtom else o.isStore) && o.pending) = some (aRelease atom) ∧
    u.grp.releaseWrites (aRelease atom) = true ∧ Sound u := by
  intro atom
  cases atom <;> refine some_ex (by decide +kernel) ?_ <;> and_intros <;> decide +kernel

/-- An atomic of lanes 0 and 1 on one word. -/
def anAtom : MemOp := memOp .g (.atom .add .n32)
  [⟨0, 0x2000, 4, true, 1, 0, 0, false⟩, ⟨1, 0x2000, 4, true, 1, 0, 0, false⟩] (some ⟨false, 8, 1, .b32⟩)

/-- `Atomics`. -/
theorem witness_Atomics : ∃ u, (flying anAtom).seat probeRef = some u ∧
    u.grp.memops.find? (fun o => o.isAtom && o.pending) = some anAtom ∧ u.grp.mayPerform anAtom = true ∧
    u.launches = [] ∧ ((u.writesBack anAtom.org (fun u => u.flushLine u.core 0x40)).poll).badAt 0x2000 4 = false :=
  ⟨((flying anAtom).seat probeRef).getD sM, getD_eq (by decide +kernel), by decide +kernel⟩

/-- Lanes 0 and 1 pass p0, v4 holds 0x100 and 0x180 there, and the count of the second one's line is `n`. -/
def eightAt (n : Nat) : State :=
  (s0.modGrp (fun g => { g with preds := [(0, 3)], vregs := [(4, .g [0x100, 0x180])] })).modBlk (fun b => { b with
    fe := if n = 0 then [] else [(3, n)] })

/-- `ScratchpadLoads` and `ScratchpadUpdates`: the last bytes of the window, counts of 0, 6 and 7. -/
theorem witness_scratchpad : Seated sM ∧ sM.lanes h0 = [0] ∧ sM.xs h0 = [0] ∧ sM.grp.spadHeld true = false ∧
    sM.grp.spadHeld false = false ∧ sM.blk.spad = 3145728 ∧
    (let s := sc [(4, 3145712)] sM
     let off := (s.grp.read (.s 4) 0 + s.grp.read .zero 0 + (0 : BitVec 18).signExtend 32).toNat
     Seated s ∧ s.lanes h0 = [0] ∧ off % 16 = 0 ∧ off + 16 ≤ s.blk.spad ∧ s.blk.feCount (off / 128) = 0 ∧
      s.blk.spadBad off 16 = false ∧ s.blk.spadCheck s.blk.linePinned true 16 off 16 = none) ∧
    (∀ n ∈ [6, 7], (sM.modBlk (fun b => { b with fe := [(0x2000 / 128, n)] })).blk.feCount (0x2000 / 128) = n) := by
  and_intros <;> decide +kernel

/-- `ScratchpadLoads`, lane 1 of lanes 0 and 1 at a line whose count is 7: before, with lane 0 to read, and after lane 0 has
read 5; and once the line is full. -/
theorem witness_scratchpad_parts :
    let s (n : Nat) (p : Option Part) := (eightAt n).modGrp (fun g => { g with part := p })
    let ea (l : Nat) : Nat := ((eightAt 7).grp.read (.v 4) l + (eightAt 7).grp.read .zero l + (0 : BitVec 18).signExtend 32).toNat
    Seated (s 7 none) ∧ (s 7 none).lanes h0 = [] ++ [0] ++ 1 :: [] ∧ (s 7 none).partGot = [] ∧
    (s 7 (some ⟨aOrg, [(0, some 5)], []⟩)).partGot = [0].map (fun m => (m, some 5)) ∧
    ea 0 = 0x100 ∧ ea 1 = 0x180 ∧ (s 7 none).blk.feCount (ea 0 / 128) = 0 ∧ (s 7 none).blk.feCount (ea 1 / 128) ≠ 0 ∧
    (s 0 none).blk.feCount (ea 1 / 128) = 0 ∧ (s 0 none).grp.spadHeld false = false ∧ (s 0 none).blk.spadBad (ea 1) 4 = false := by
  and_intros <;> decide +kernel

/-- The stream of R313's example: bytes 0x5B and 0x0C at 0x100, four fields of three bits, base 97. -/
def sDec : State := (sc [(12, 0x100), (10, 97), (8, 0x304), (9, 0x400)] s0).modBlk
  (fun b => { b with spm := [(0x100, 0x5B), (0x101, 0x0C)] })

/-- `StreamDecode`: to registers and to the scratchpad. -/
theorem witness_StreamDecode : Seated sDec ∧ sDec.partGot = [] ∧ sDec.lanes hz ≠ [] ∧ sDec.grp.spadHeld false = false ∧
    sDec.grp.spadHeld true = false ∧ (∀ toSpad : Bool,
      sDec.decCheck toSpad (sDec.grp.readN (.s 8) 0 0) (sDec.grp.readN (.s 8) 1 0) (sDec.xs hz).length = none) ∧
    (∀ k ∈ linesOf 0x100 2, sDec.blk.feCount k = 0) := by
  refine ⟨seated _ (by decide +kernel), ?_⟩
  decide +kernel

/-- `StreamDecode`, a line that the stream read before a wait, empty now. -/
theorem witness_StreamDecode_parts :
    let s := (sDec.modGrp (fun g => { g with part := some ⟨aOrg, [(2, some 0x0C5B)], []⟩ })).modBlk (fun b => { b with fe := [(2, 1)] })
    Seated s ∧ s.partGot = [(2, some 0x0C5B)] ∧ s.blk.feCount 2 ≠ 0 ∧ (∀ k ∈ linesOf 0x100 2, s.partGot.any (fun x => x.1 == k) = true) :=
  ⟨seated _ (by decide +kernel), by decide +kernel⟩

/-- A landing of `DEC`. -/
def aLanding : Landing := ⟨0, some ⟨false, 20, 1, .b32⟩, [(0, 100), (95, 0)], some (8, 4), some (2, 1, 1)⟩

/-- `ScratchpadLands`. -/
theorem witness_ScratchpadLands :
    let s := s0.modGrp (fun g => { g with landings := [aLanding] })
    ∃ u, s.seat probeRef = some u ∧ u.grp.landings.find? (fun x => x.seq == 0) = some aLanding ∧
      ∀ d k, aLanding.dst = some d → aLanding.sdst = some k → d.scalar = false :=
  ⟨((s0.modGrp (fun g => { g with landings := [aLanding] })).seat probeRef).getD s0, getD_eq (by decide +kernel),
    by decide +kernel, fun d k hd _ => by cases hd; rfl⟩

/-- Addresses and sizes for copies: s4:s5 = 0x2000 in memory, s6 a window offset, s8:s9 strides, s10 two rows of four. -/
def sC : State := sc [(4, 0x2000), (6, 0x800), (8, 128), (9, 128), (10, 0x00040002)] s1

/-- `CopyIssues`: the four forms, with and without an object. -/
theorem witness_CopyIssues : Seated sC ∧ sC.xs h0 = [0] ∧ sC.grp.pathHeld .c = false ∧ sC.grp.counter .c < 63 ∧
    sC.objAt .zero = .ok none ∧ sC.objAt (.s 6) = .ok (some 0x800) ∧
    (∃ ps, checkLanes (sC.transferAt false true 16 8 (.s 6) (.s 4) .zero) (sC.xs h0) = .ok ps) ∧
    sC.cpyKind 16 (.int 17) = (.conv .f2b 0x15, 8) ∧
    (∃ ps, checkLanes (sC.transferAt true false 4 8 (.s 4) (.s 6) .zero) (sC.xs h0) = .ok ps) ∧
    (∃ xs ys, sC.rowsAt false false 1 2 128 (sC.grp.addr false (.s 4) 0) 2 = .ok xs ∧
      sC.rowsAt true true 1 1 128 (sC.grp.addr true (.s 6) 0) 4 = .ok ys ∧ (∀ x ∈ ys.flatten, x ∉ xs.flatten) ∧
      ∀ k ∈ spadLines (tileOrder true 2 4 0 xs ys).2, sC.blk.feCount k < 7) ∧
    (∃ xs, sC.rowsAt true false 128 128 128 (sC.grp.addr true (.s 6) 0) 4 = .ok xs) := by
  and_intros <;> first
    | decide +kernel
    | exact okIs_eq (by decide +kernel)
    | exact okAny_ex (by decide +kernel)
    | exact ⟨[[.glob 0x2000, .glob 0x2001], [.glob 0x2080, .glob 0x2081]],
        [[.spad 0x800], [.spad 0x880], [.spad 0x900], [.spad 0x980]], okIs_eq (by decide +kernel),
        okIs_eq (by decide +kernel), by decide +kernel⟩

/-- A copy whose bytes are read: two to memory, with an object at 0x800. -/
def aCopy (kind : CopyKind) (dst : List Loc) : CopyOp :=
  ⟨0, kind, 0, ⟨dst, [], none⟩, dst, some (List.replicate dst.length 0xA5), 1, some 0x800, spadLines dst, false, aOrg⟩

/-- `CopyLands`: to memory and to the window, and a code table. -/
theorem witness_CopyLands : ∀ c ∈ [aCopy .plain [.glob 0x2000, .spad 0x7FF], aCopy .loadTable []],
    c.buf = some (List.replicate c.dst.length 0xA5) ∧ c.landed = false ∧ c.dst.Nodup ∧
    (∀ x, Loc.spad x ∈ c.dst → x < 0x800 ∨ 0x800 + 64 ≤ x) ∧
    ∃ u, (sC.modGrp (fun g => { g with copies := [c] })).seat probeRef = some u ∧
      u.grp.copies.find? (fun x => x.seq == 0) = some c ∧ u.grp.copyBehind c = false ∧ u.blk.spadBad 0x800 64 = false := by
  intro c hc
  simp only [List.mem_cons, List.not_mem_nil, or_false] at hc
  rcases hc with rfl | rfl
  · refine ⟨by decide +kernel, by decide +kernel, by decide +kernel, ?_,
      ((sC.modGrp (fun g => { g with copies := [aCopy .plain [.glob 0x2000, .spad 0x7FF]] })).seat probeRef).getD sC,
      getD_eq (by decide +kernel), by decide +kernel, by decide +kernel, by decide +kernel⟩
    intro x hx
    simp [aCopy] at hx
    omega
  · refine ⟨by decide +kernel, by decide +kernel, by decide +kernel, ?_,
      ((sC.modGrp (fun g => { g with copies := [aCopy .loadTable []] })).seat probeRef).getD sC,
      getD_eq (by decide +kernel), by decide +kernel, by decide +kernel, by decide +kernel⟩
    intro x hx
    simp [aCopy] at hx

/-- Two copies in flight; s12 and s14 the counters and s16 the object that waits name. -/
def sW : State := (sc [(12, 2), (14, 1), (16, 0x800), (18, 0xFFFFFFFF), (19, 0)] s1).modGrp
  (fun g => { g with issues := 1, copies := [aCopy .plain [], aCopy .plain []] })

/-- `Waits`: a counter at its threshold and one above it; a phase complete and one not; a word that satisfies and one
that does not, before and after the wait. -/
theorem witness_Waits : Seated sW ∧ sW.xs h0 ≠ [] ∧ (sW.grp.read (.s 12) 0).toNat ≤ 63 ∧
    sW.grp.counter .c ≤ (sW.grp.read (.s 12) 0).toNat ∧ (sW.grp.read (.s 14) 0).toNat < sW.grp.counter .c ∧
    (let off := (sW.grp.read (.s 16) 0).toNat
     let d (n : BitVec 6) := (BitVec.ofNat 32 (sW.blk.objWord (off + 8)) - sW.grp.read (.s n) 0).toNat
     off % 64 = 0 ∧ off + 64 ≤ sW.blk.spad ∧ sW.blk.spadBad off 64 = false ∧ sW.grp.spadHeld false = false ∧
      (1 ≤ d 18 ∧ d 18 < 2 ^ 31) ∧ ¬ (1 ≤ d 19 ∧ d 19 < 2 ^ 31)) ∧
    (∃ pa ct, sM.transl sM.core sM.blk.ctx .waitm 4 (sM.grp.read64 (.s 4) 0) = .ok (pa, ct) ∧ pa = 0x2000) ∧
    sM.launches = [] ∧ sM.grp.wait = .ready ∧ sM.loadBad true 0x2000 4 = false ∧ sM.grp.mayReread 0x2000 = true ∧
    (flying (memOp .g .load [⟨0, 0x2000, 1, false, 0, 0, 0, false⟩] none)).grp.mayReread 0x2000 = false ∧ (∀ i, i < 4 → sM.grp.queued sM.grp.issues (0x2000 + i) = none) ∧
    sM.blk.wbuf = [] ∧ leNat (sM.loadHome ⟨sM.cur.pc, sM.cur.quads⟩ 0x2000 4).1 = 0 ∧ waitHolds .eq 0 0 = true ∧ waitHolds .lt 0 0 = false ∧
    (sM.modGrp (fun g => { g with wait := .memHit 0x2000 4 5 0 })).grp.wait = .memHit 0x2000 4 5 0 := by
  and_intros <;> first
    | decide +kernel
    | exact ⟨0x2000, 0, okIs_eq (by decide +kernel), rfl⟩

/-- `BarrierObjects`: expected counts 1 and 16,777,215, an arrival that completes the phase and one that does not. -/
theorem witness_BarrierObjects :
    let s := (sc [(4, 0x800), (6, 1), (8, 16777215), (10, 127)] s1).modBlk (fun b => { b with spm := [(0x800, 2)] })
    Seated s ∧ s.xs h0 ≠ [] ∧ (s.grp.read (.s 4) 0).toNat = 0x800 ∧
    s.blk.spadCheck s.blk.linePinned true 64 0x800 64 = none ∧ s.blk.spadBad 0x800 64 = false ∧ s.grp.spadHeld true = false ∧
    s.grp.spadHeld false = false ∧ s.grp.relReady false s.grp.issues = true ∧ (s.grp.read (.s 10) 0).toNat < 128 ∧
    (s.grp.read (.s 8) 0).toNat ≤ 16777215 ∧
    s.blk.objWord 0x804 + (s.grp.read (.s 6) 0).toNat ≤ s.blk.objWord 0x800 % 2 ^ 24 ∧
    s.blk.objWord 0x804 + 2 ≤ s.blk.objWord 0x800 % 2 ^ 24 := by
  refine ⟨seated _ (by decide +kernel), ?_⟩
  decide +kernel

/-! ### Witnesses: the matrix path -/

/-- Offsets for the matrix path: C at 0x4000, B and records at 0x1000, 16 columns, an object at 0x800, the record's range
pinned. -/
def sX : State := (sc [(4, 0x2000), (20, 0x4000), (22, 0x1000), (24, 16), (26, 0x800), (28, 512)] s0).modGrp
  (fun g => { g with pins := [⟨0x1000, 4096, .q3, 0, false⟩] })

/-- The window's checks that every form shares. -/
theorem witness_MatrixIssues_common : Seated sX ∧ sX.cur.bad = none ∧ sX.beats = [0, 1, 2] ∧
    sX.beats.filter (fun bt => sX.beatGuard hz bt 0) ≠ [] ∧
    (∀ bt ∈ sX.beats, sX.beatWhole bt = true ∧ sX.beatUniform hz bt = true) ∧ sX.grp.pathHeld .m = false ∧
    sX.grp.mats.length + 3 ≤ 4 ∧ sX.grp.counter .m < 63 ∧ sX.matObj .zero = none ∧ sX.matObj (.s 26) = none ∧
    (sX.grp.read (.s 24) 0).toNat = 16 ∧ (sX.grp.read (.s 24) 0).getLsbD 9 = false ∧ (sX.grp.read (.s 20) 0).toNat = 0x4000 ∧
    sX.blk.spad = 3145728 ∧
    (∀ k, k < 2 → sX.matView.recordFault .q3 0 (0x1000 + recordSize .q3 0 * k) = none) ∧
    sX.linesAwaited [(0x1000, recordSize .q3 0 * 2)] = [] ∧
    sX.matView.badRange [(0x1000, recordSize .q3 0 * 2)] = none ∧
    (∀ bt ∈ [0, 1, 2], overlaps (0x4000 + 1024 * bt) 1024 0x1000 (recordSize .q3 0 * 2) = false ∧
      sX.matView.slotFault .q3 3 (0x1000 + recordSize .q3 3 * bt) = none ∧
      overlaps (0x1000 + 1024 * bt) 1024 (0x4000 + 512 * bt) 512 = false) := by
  refine ⟨seated _ (by decide +kernel), ?_⟩
  decide +kernel

/-- `MatrixIssues`, the splits of A and of a tile, whose registers are zero. -/
theorem witness_MatrixIssues_splits : ∀ bt ∈ [0, 1, 2],
    (∀ st, st < 2 → splitBadA sX.grp.mxa (sX.grp.subA 0 bt st) = none) ∧
    splitFails .f32 (sX.grp.fragT 0 bt) (candidates .f32 (sX.grp.fragT 0 bt) 0x7F80) (capSlots 0) 0 = false := by
  decide +kernel

/-- `MatrixOnceIssues`: 1 and 512 records, a pin in force, a codebook page, MXA's two legal codes. -/
theorem witness_MatrixOnceIssues : sX.beats = 0 :: [1, 2] ∧
    (∀ x ∈ sX.beats, sX.beatUniform hz x = true ∧ sX.beatGuard hz x 0 = true) ∧ sX.grp.mats.length < 4 ∧
    (sX.grp.pins.filter (fun p => !p.released)).length < 4 ∧
    (∀ n ∈ [1, 512], sX.blk.pinClash .q3 0 0x1000 (n * recordSize .q3 0) = false ∧
      0x1000 + n * recordSize .q3 0 ≤ sX.blk.spad ∧ sX.linesAwaited [(0x1000, n * recordSize .q3 0)] = []) ∧
    (∃ p ∈ sX.grp.pins, p.off = (sX.grp.read (.s 22) 0).toNat ∧ p.released = false) ∧
    (∃ pas, sX.codebookAt (sX.grp.read64 (.s 4) 0) = .ok pas ∧ ∀ pa ∈ pas, sX.badAt pa 128 = false) ∧
    (0xFFFF0333#32 &&& ~~~(0xFFFF0333#32) = 0) ∧ (0xFFFF0331#32).toNat % 4 < 2 ∧ (0x7F800000#32).toNat % 4 < 2 := by
  and_intros <;> first
    | decide +kernel
    | exact ⟨[0x2000, 0x2080, 0x2100, 0x2180, 0x2200, 0x2280, 0x2300, 0x2380], okIs_eq (by decide +kernel), by decide +kernel⟩

/-- An entry of the queue. -/
def matOp (k : MatKind) (last : Bool) : MatOp := ⟨0, k, 1, 0, 0x1000, 0x1000, 0x4000, 16, 0, last, none, []⟩

/-- Every kind of tile step that works on columns, and every other. -/
def kinds : List MatKind := [.tzero false, .tzero true, .tcvt .bf16 0x15, .tcvt .f32 0x15, .mmf false, .mmd,
  .mmq .q3 0 0x7F800000, .tenc .q3 0 0 0x7F80 0x15, .tdec .v2 3, .tunpin, .tpin, .ldcbk [0x2000]]

/-- `MatrixSteps`: a group alone ready on its core, with one entry of each kind. -/
theorem witness_MatrixSteps : ∀ k ∈ kinds, ∀ last : Bool,
    let s := sX.modGrp (fun g => { g with issues := 1, mats := [matOp k last] })
    s.matReady probeCore = [(0, 0, 0)] ∧ s.find probeRef = some (0, 0) ∧
    ∃ u, s.seat probeRef = some u ∧ u.core = probeCore ∧ u.grp.mats = [matOp k last] ∧ u.stepBad (matOp k last) = none ∧
      u.grp.nextMat u.blk = some (matOp k last) ∧ u.grp.matDefined (matOp k last) = true ∧
      16 * (matOp k last).tile + 16 ≤ (matOp k last).ncol := by
  intro k hk last
  simp only [kinds, List.mem_cons, List.not_mem_nil, or_false] at hk
  rcases hk with rfl | rfl | rfl | rfl | rfl | rfl | rfl | rfl | rfl | rfl | rfl | rfl <;> cases last <;>
    exact ⟨by decide +kernel, by decide +kernel, _, getD_eq (d := sX) (by decide +kernel), by decide +kernel⟩

/-! ### Witnesses: the fabric -/

/-- A device of rank 0 in a job of ranks 0, 1 and 2, isolation off, whose port 0 carries traffic to both peers. -/
def fabOn (s : State) : State :=
  { s with mem := Memory.setByte s.mem 0x8000 7
           mgmt := { s.mgmt with jobtab := 0x8000, teniso := 1 }
           peers := [(1, { Peer.reset with map := 0x80000000 }), (2, { Peer.reset with map := 0x80000000 })]
           ports := [(0, { Port.reset with mode := 0x20, trained := true })] }

/-- Peer 1 in s12, MSEND's control words with one word and thirty in s14 and s16, the address 0x2000 in s4:s5, a
window offset in s6. -/
def sF : State := fabOn (sc [(4, 0x2000), (6, 0x800), (12, 1), (14, 0x100), (16, 0x1E3F)] s1)

/-- `FabricIssues`: the five forms and an object, payloads of 1 and 30 words. -/
theorem witness_FabricIssues : Seated sF ∧ sF.xs h0 = [0] ∧ sF.grp.pathHeld .f = false ∧ sF.grp.fabHeld = false ∧
    sF.grp.counter .f < 63 ∧ sF.replaying = false ∧ sF.grp.fabs = [] ∧
    (∀ l ∈ sF.xs h0, (sF.grp.read (.s 12) l).toNat < 1024 ∧ sF.unreachable sF.blk.job (sF.grp.read (.s 12) l).toNat = none ∧
      (sF.grp.read64 (.s 4) l).toNat % 16 = 0) ∧ sF.blk.restartable = false ∧
    sF.objAt .zero = .ok none ∧ sF.objAt (.s 6) = .ok (some 0x800) ∧
    (∀ sp : Bool, ∃ locs, checkLanes (fun l => sF.sideAt sp false 16 16 (sF.grp.addr sp (.s 4) l)) (sF.xs h0) = .ok locs) ∧
    (let n (r : BitVec 6) := (sF.grp.read (.s r) 0).toNat / 256 % 32
     n 14 = 1 ∧ n 16 = 30 ∧ sF.grp.read (.s 16) 0 &&& ~~~(0x1F3F#32) = 0 ∧ (sF.grp.read (.s 6) 0).toNat % 4 = 0 ∧
      (sF.grp.read (.s 6) 0).toNat + 4 * n 16 ≤ sF.blk.spad ∧ regNum (.v 127) + 1 ≤ 128) := by
  and_intros <;> first
    | decide +kernel
    | exact okIs_eq (by decide +kernel)
    | exact fun sp => okAny_ex (by cases sp <;> decide +kernel)

/-- A pending operation of path F that serves lane 0. -/
def fabOp (k : FabKind) (done : Bool) : FabOp :=
  ⟨0, k, [0], [0], [], [], none, none, false, none, ⟨[], [], none⟩, done, ⟨0x100000, 0xFFFFFF⟩⟩

/-- A request of the group that has left and waits for its answer. -/
def aReq (b : PktBody) : Req := ⟨⟨0, 1, 1, 0, 0, 0, 0, b⟩, probeRef, 0, [(0, 0)], true, true, 0, 0⟩

/-- `FabricWaits`: a request that has not left, a request that is not acknowledged, a message in the inbox, a `QUIET` that is settled, and a
descriptor of two members for the first `COLL` of a round. -/
theorem witness_FabricWaits :
    (let s := sF.modGrp (fun g => { g with issues := 1, fabs := [fabOp .rst false] })
     Seated s ∧ s.xs h0 ≠ [] ∧ s.grp.acked s.grp.issues = false ∧ s.launches = []) ∧
    sF.grp.acked sF.grp.issues = true ∧ sF.grp.hmaskr.getLsbD 1 = false ∧ (sF.job sF.blk.job).down = none ∧
    (let s := sF.modGrp (fun g => { g with issues := 1, fabs := [fabOp (.quiet 0 true) false] })
     s.sentBefore s.grp.issues = true ∧ s.grp.fabs.find? (fun o => match o.kind with
        | .quiet _ _ => !o.done
        | _ => false) = some (fabOp (.quiet 0 true) false)) ∧
    (let s := { sF with reqs := [{ aReq (.write [(0x2000, 1)]) with left := false }] }.modGrp (fun g => { g with
        issues := 1, fabs := [fabOp .rst false] })
     Seated s ∧ s.sentBefore s.grp.issues = false) ∧
    (let s := fabOn (boxed 2 (some ⟨0, 0x2000⟩))
     let s := { s with mem := Memory.setByte s.mem 0x2010 1 }
     Seated s ∧ s.xs hz ≠ [] ∧ s.blk.handg = some s.grp.num ∧ s.blk.inbox = some ⟨0, 0x2000⟩ ∧
      s.transl s.core s.blk.ctx .write 8 (0x2000 + 0x18) = .ok (0x2018, 0) ∧
      s.transl s.core s.blk.ctx .read 8 (0x2000 + 0x10) = .ok (0x2010, 0) ∧ s.badAt 0x2018 8 = false ∧
      s.badAt 0x2010 8 = false ∧ s.grp.loadsDone s.grp.issues = true ∧ s.phys 0x2010 8 = 1 ∧ s.phys 0x2018 8 = 0 ∧
      s.sentBefore s.grp.issues = true ∧ s.grp.fabs = []) := by
  and_intros <;> first
    | decide +kernel
    | exact okIs_eq (by decide +kernel)

/-- A descriptor of two members, one line a chunk, at 0x3000: PEERS 2, slots of 2, slot regions at 0x4000 and 0x5000. -/
def sColl : State :=
  let s := devPage (fabOn (sc [(4, 0x3000), (6, 0x800), (8, 0x400), (28, 1)] s1))
  let d : List Byte := [2, 0, 0, 0, 1, 0, 1, 0] ++ leBytes 0x4000 8 ++ leBytes 0x5000 8 ++ [1, 1]
  let g : Group := { Group.start 1 1 0x100000 0 0 0 with active := some 1 }
  { s with mem := Memory.setBytes s.mem 0x3000 d }.modBlk (fun b => { b with commg := some 0, groups := b.groups ++ [g] })

/-- `FabricWaits`, its last clause. -/
theorem witness_COLL : Seated sColl ∧ sColl.xs h0 ≠ [] ∧ sColl.blk.restartable = false ∧
    sColl.grp.hmaskr.getLsbD 1 = false ∧ sColl.grp.fabHeld = false ∧ sColl.blk.colls = [] ∧
    (∃ x ∈ sColl.blk.groups, x.num ≠ sColl.grp.num) ∧
    ∃ bytes, sColl.collCheck (.sum false) (.v 18) (.s 28) (.s 8) (sColl.collArgs (.sum false) (.s 6) (.s 4) (.s 8) (.s 28))
      = .ok bytes := by
  and_intros <;> first
    | decide +kernel
    | exact okAny_ex (by decide +kernel)

/-- A request of peer 1, next in its sequence. -/
def pkt (b : PktBody) : Packet := ⟨1, 0, 1, 0, 0, 0, 0, b⟩

/-- Where requests arrive: an inbox of four slots whose ring is at 0x6000. -/
def sArr : State :=
  let s := devPage (fabOn ((boxed 2 (some ⟨5, 0x2000⟩)).modGrp id))
  { s with mem := Memory.setBytes s.mem 0x2000 (leBytes 0x6000 8) }

/-- `RemoteRequests`: the six bodies, one that is next, early and late. -/
theorem witness_RemoteRequests :
    (pkt (.read 0x2000 4)).dst = sArr.rank ∧ (pkt (.read 0x2000 4)).src ≠ sArr.rank ∧ (sArr.peer 1).early = [] ∧
    (sArr.peer 1).discard ≤ 1 ∧ (∀ b ∈ sArr.blocks, b.colls = []) ∧ sArr.rings = [] ∧ (sArr.peer 1).rxSeq = 1 ∧
    sArr.portCarries (pkt (.read 0x2000 4)).port = true ∧ sArr.portCarries 1 = false ∧ sArr.badMem = [] ∧
    okAny (sArr.admission (pkt (.read 0x2000 4))) = true ∧
    (sArr.pasOf 0 .read [0x7000, 0x7001]).isSome = true ∧ (sArr.pasOf 0 .write [0x7000, 0x7001]).isSome = true ∧
    (sArr.pasOf 0 .atomic [0x7000, 0x7001, 0x7002, 0x7003]).isSome = true ∧
    (∀ b ∈ [PktBody.chunk 0x7000 ⟨0, true, 0, 0, 4, []⟩ 0, .notice 0x7000 1],
      (sArr.pasOf 0 .write (PktBody.addrs b)).isSome = true ∧ ((sArr.pasOf 0 .write (PktBody.addrs b)).getD []).Nodup) ∧
    sArr.keepsBad [0x7000, 0x7001] = false ∧ (sArr.inboxOf ⟨0, none, 0⟩ 5).isSome = true ∧
    okIs (sArr.ctxNat 0 0x2000 8) 0x6000 = true ∧ okIs (sArr.ctxNat 0 0x2008 1) 2 = true ∧
    okIs (sArr.ctxNat 0 0x2010 8) 0 = true ∧ okIs (sArr.ctxCheck 0 0x6000 128) () = true := by
  decide +kernel

/-- With isolation on, a key table whose first entry is peer 1's key 0 without any permission. -/
def sKey : State :=
  { sArr with mem := Memory.setBytes sArr.mem 0x9008 [1, 0x80], mgmt := { sArr.mgmt with teniso := 0, keytab := 0x9000 } }

theorem keyFind_first {s : State} {src : Nat} {key : Dword} {e : List Byte} (h : s.keyFind src key 1 = some e) :
    ∀ n, s.keyFind src key (n + 1) = some e
  | 0 => h
  | n + 1 => by rw [State.keyFind, keyFind_first h n]

/-- `RemoteRequests`, a request that is refused: its key lacks the permission (R440, reason 2). -/
theorem witness_refused : sKey.admission (pkt (.read 0x2000 4)) = .error 2 := by
  have k := keyFind_first (s := sKey) (src := 1) (key := 0) (e := sKey.keyEntry 0) (by decide +kernel) 4095
  have p : (pkt (.read 0x2000 4)).src = 1 ∧ (pkt (.read 0x2000 4)).key = 0 := by decide
  have q : sKey.isolated = true := by decide +kernel
  have z : fieldOf (sKey.keyEntry 0) 0x0E 2 = 0 := by decide +kernel
  simp only [State.admission, p.1, p.2, q, k, z]
  rfl

/-- `RemoteRequests`, requests that are refused at their home: an address that no page maps, an inbox that is not bound, a full
one, a descriptor and a ring that no page maps (R440, reasons 4 and 5). -/
theorem witness_refusedAtHome :
    (sArr.pasOf 0 .read [2 ^ 40]).isSome = false ∧ (sArr.inboxOf ⟨0, none, 0⟩ 6).isSome = false ∧
    (let s := { sArr with mem := Memory.setByte sArr.mem 0x2010 4 }
     (s.inboxOf ⟨0, none, 0⟩ 5).isSome = true ∧ okIs (s.ctxNat 0 0x2008 1) 2 = true ∧ okIs (s.ctxNat 0 0x2010 8) 4 = true ∧
      okIs (s.ctxNat 0 0x2018 8) 0 = true) ∧
    errIs (sArr.ctxNat 0 (2 ^ 40) 8) (fun e => e.code != 0x50) = true ∧
    errIs (sArr.ctxCheck 0 (2 ^ 40) 128) (fun e => e.code != 0x50) = true := by decide +kernel

/-- `FabricResponses` and `Links`: a request that waits for its answer, for each kind of body, where a port carries
traffic. -/
theorem witness_FabricResponses : ∀ x ∈ [(PktBody.read 0x2000 4, FabKind.rld .b32),
      (.atomic .add .n32 0x2000 1 0 true, .ratom .n32), (.write [(0x2000, 1)], .rst)],
    let s := { sF with reqs := [aReq x.1] }.modGrp (fun g => { g with issues := 1, fabs := [fabOp x.2 false] })
    s.reqFor 1 1 = some (aReq x.1) ∧ (1 : Nat) ≠ s.rank ∧ (fabOp x.2 false).kind.ends = true ∧
    (∀ b ∈ s.blocks, b.colls = []) ∧ s.rings = [] ∧ s.unacked 1 ≠ [] ∧ (s.peer 1).map.getLsbD 31 = true ∧
    s.linked = true ∧ s.portCarries (s.portOf 1) = true ∧ (fabOp x.2 false).src.unread = [] ∧
    ∃ u, s.seat (aReq x.1).owner = some u ∧ u.grp.fab? 0 = some (fabOp x.2 false) ∧ u.launch? u.blk.ref.launch = none := by
  intro x hx
  simp only [List.mem_cons, List.not_mem_nil, or_false] at hx
  rcases hx with rfl | rfl | rfl <;>
    and_intros <;> decide +kernel

/-- A wave of job 0 that started at `t0`, its token out. -/
def waved (t0 : Nat) : State :=
  { sF with time := 5001, jobs := [(0, ⟨[(0, 4)], [(0, 1), (1, 3)], [], 0, 1, true, 3, some (4, 4), true, some t0, none⟩)] }

/-- `Settlement`: at the leader and at another member, waves that may start, that wait and that return. -/
theorem witness_Settlement : sF.linked = true ∧
    sF.leader 0 = sF.rank ∧ sF.member 0 sF.rank = true ∧ (sF.members 0).find? (fun m => sF.rank < m) = some 1 ∧
    (let s := { sF with mgmt := { sF.mgmt with rank := 2 } }
     s.leader 0 ≠ s.rank ∧ s.member 0 s.rank = true) ∧ (sF.job 0).down = none ∧ (sF.job 0).tokenOut = false ∧
    (waved 0).settlePeriod 0 ≤ (waved 0).time - 0 ∧ (waved 5000).time - 5000 < (waved 5000).settlePeriod 0 ∧
    ((waved 0).job 0).waveStart = some 0 ∧ 2 + 1 = ((waved 0).job 0).nextWave ∧ ((waved 0).job 0).prev = some (4, 4) := by
  decide +kernel

/-- `Links`: settling, queries sent once and three times, timeouts that have passed, and a request that may leave. -/
theorem witness_Links :
    let x : Peer := { Peer.reset with map := 0x80000000, settling := some 0, query := some ⟨1, 3, 0⟩ }
    let s := { sF with time := 10000001, peers := [(1, x)] }
    (∀ l ∈ s.launches, l.isGang = false) ∧ s.rings = [] ∧ s.linked = true ∧ 1000 * s.mgmt.ackto ≤ s.time - 0 ∧ 1000000 * s.mgmt.linkto ≤ s.time - 0 ∧
    (s.peer 1).query = some ⟨1, 3, 0⟩ ∧ ¬ s.time - 10000001 ≥ 1000000 * s.mgmt.linkto ∧
    (let q : Req := { aReq (.write [(0x2000, 1)]) with left := false }
     let s := { sF with reqs := [q] }.modGrp (fun g => { g with issues := 1, fabs := [fabOp .rst false] })
     s.mayLeave q = true ∧ q.pkt.cls < 16 ∧ (∀ k, k < 3 → (s.peer k).oldPort = none) ∧ s.heldq = [] ∧
      q.flits < Packet.flits q.pkt ∧
      (let t := { s with ports := [(0, { Port.reset with mode := 0x20, trained := true, weights := [(0, 2)] })] }
       64 * (Packet.flits q.pkt - q.flits) ≤
        Tbl.get 0 (t.port 0).deficits q.pkt.cls + 64 * Tbl.get 1 (t.port 0).weights q.pkt.cls)) := by
  decide +kernel

/-- `Links`, an exhausted replay with a request that has not left. -/
theorem witness_unsent :
    let s := { sF with reqs := [{ aReq (.write [(0x2000, 1)]) with left := false }] }
    s.unacked 1 = [] ∧ s.unsent 1 ≠ [] ∧ (s.peer 1).map.getLsbD 31 = true ∧ (s.peer 1).settling = none ∧
      (s.peer 1).down = false := by decide +kernel

/-- A gang launch of ranks 0 and 1 in the state `g`, with identifier `id` and one block on core 3. -/
def gang (id : Nat) (g : GangState) : Launch :=
  { launchOf 0 with
    ref := ⟨1, id⟩
    packet := List.replicate 0x10 0 ++ [1, 0, 0, 0, 1, 0x10] ++ leBytes id 2 ++ List.replicate 40 0
    gang := g, members := [0, 1], map := [(0, 3)], dispatched := 0 }

/-- `GangsAndRounds`: each state of the protocol, and a reserved gang that gives way to a smaller one that does not
fit. -/
theorem witness_gangs : (fabOn s0).linked = true ∧
    (∀ g ∈ [GangState.idle, .reserved, .withdrawing, .committed, .broken],
      let s := { fabOn s0 with launches := [gang 7 g], gangAcks := [(7, [0])] }
      let s := { s with mgmt := { s.mgmt with coreMap := [(3, 3)] } }
      s.ctxRuns 0 = true ∧ s.deadIn (gang 7 g) = none ∧ (s.setCtx 0 { s.ctx 0 with hold := true }).ctxRuns 0 = false ∧
      s.gangOf 7 = some (gang 7 g) ∧ s.launch? (gang 7 g).ref = some (gang 7 g) ∧ (gang 7 g).leader = s.rank ∧
        (gang 7 g).eligible = true ∧ ∀ m ∈ (gang 7 g).members, m = 1 ∨ m ∈ s.acks 7) ∧
    (let bytes : List Byte := List.replicate 0x10 0 ++ [1, 0, 0, 0, 33, 0x10] ++ leBytes 3 2 ++ List.replicate 40 0
     let big : Launch := { gang 3 .idle with packet := bytes }
     let s := { fabOn s0 with launches := [gang 7 .reserved, big] }
     s.launch? ⟨1, 7⟩ = some (gang 7 .reserved) ∧ big ∈ s.launches ∧ big.isGang = true ∧ big.gangId < (gang 7 .reserved).gangId ∧
      s.mapFits big = false) := by decide +kernel

/-- `GangsAndRounds`, gangs whose launch here has ended, committed and not, and one that this device has not seen. -/
theorem witness_endedGangs : ∀ c : Bool,
    let s := { fabOn s0 with gangEnded := [⟨7, c, 2, [(1, 1)], false⟩] }
    s.gangOf 7 = none ∧ s.ended? 7 = some ⟨7, c, 2, [(1, 1)], false⟩ ∧ s.linked = true ∧ ∀ e ∈ s.gangEnded, e.id ≠ 8 := by
  decide +kernel

/-- A round that has waited past its timeout. -/
def aRound : CollRound :=
  ⟨.sum false, 1, 0x800, 0x400, 0x3000, 1, 0, 0x15, 0, 2, 1, 0, [0, 1], [], [], [], [], [], 0, 0, 0, 0, false, 0, false, false, aOrg⟩

/-- `GangsAndRounds`, its last clause. -/
theorem witness_collTimeout :
    let s := { sColl with time := 1000 }.modBlk (fun b => { b with colls := [aRound] })
    ∃ u, s.seatBlk probeRef.block = some u ∧ u.blk.colls[0]? = some aRound ∧ aRound.timeout ≠ 0 ∧ aRound.pos ≠ 0 ∧
      u.blk.allIssued aRound = true ∧ 1000 * aRound.timeout ≤ s.time - aRound.since ∧
      aRound.timedOut = false ∧ aRound.finished = false ∧ aRound.failed = false ∧
      u.collArrived aRound < u.blk.collChunks aRound (u.collDesc aRound) :=
  ⟨_, getD_eq (d := sColl) (by decide +kernel), by decide +kernel⟩

/-! ### Witnesses: control registers, the system, words that are no instruction -/

/-- `ControlRegisters` and `LaunchNumbers`: numbers at the ends of their ranges, privileged and not, values of MXA and HVEC
that are legal, and a launch that replays no log. -/
theorem witness_ControlRegisters : Seated s1 ∧ s1.xs h0 ≠ [] ∧ s1.launches = [] ∧ s1.replaying = false ∧
    s1.ctxPriv s1.blk.ctx = false ∧ (priv s1).ctxPriv (priv s1).blk.ctx = true ∧ (priv s1).xs h0 ≠ [] ∧
    csrListed 0x021 = true ∧ csrListed 0x022 = false ∧ csrListed 0x7FF = false ∧ (0x809 : BitVec 12).toNat ≥ 0x800 ∧
    (let s := sc [(5, 0xFFFFFFF1), (6, 0xFFFFFFFC)] s1
     (s.grp.read (.s 5) 0 &&& 0xFFFF0333).toNat % 4 < 2 ∧ (s.grp.read (.s 6) 0 &&& 0xFFFFFFC7).toNat % 8 < 5) := by
  refine ⟨seat1, ?_⟩
  decide +kernel

/-- A privileged context with queue 63 open and granted; s4:s5 a packet's address, s6 the queue, s8 a context. -/
def sSys : State :=
  let s := priv (sc [(4, 0x2000), (6, 63), (8, 255), (10, 0x2A)] s1)
  { s with queues := [(63, { Queue.reset with ctl := 8, grant := 1, nextSeq := 0xFFFFFFFF })] }

/-- `SystemIssues` and `LaunchNumbers`. -/
theorem witness_SystemIssues : Seated sSys ∧ sSys.xs h0 ≠ [] ∧ (sSys.grp.read (.s 6) 0).toNat = 63 ∧
    (sSys.queue 63).ctl.getLsbD 3 = true ∧ (sSys.queue 63).grant.getLsbD sSys.blk.ctx = true ∧
    sSys.transl sSys.core sSys.blk.ctx .read 64 (sSys.grp.read64 (.s 4) 0) = .ok (0x2000, 0) ∧
    (sSys.launchesOf 63).length < 256 ∧ sSys.grp.releaseMoves false = true ∧ sSys.grp.redsDone sSys.grp.issues = true ∧
    sSys.grp.spadHeld false = false ∧
    (sSys.writesBack aOrg (fun s => s.writeBackAll s.core)).badAt 0x2000 64 = false ∧ sSys.ctxPriv sSys.blk.ctx = true ∧
    (sSys.grp.read (.s 10) 0).toNat < 64 ∧ (∀ k, k < 3 → (sSys.grp.read (.s 10) 0).toNat / 4 ^ k % 4 ≠ 3) ∧
    (sSys.grp.read (.s 8) 0).toNat = 255 ∧
    (∀ y ∈ sSys.blocks, (True ∨ y.ctx = 255) → y.groups.any (fun z => z.accessing (invCovers .all [])) = false) ∧
    (∀ y ∈ sSys.blocks, y.ctx = 255 → y.groups.any (fun z => z.accessing (invCovers .va (sSys.invPages 255 0x2000))) = false) ∧
    (255 : Nat) ≠ sSys.blk.ctx ∧ sSys.grp.wait = .ready ∧ sSys.mgmt.requests = [] ∧ (∀ y ∈ sSys.blocks, y.ctx ≠ 255) := by
  and_intros <;> first
    | decide +kernel
    | exact okIs_eq (by decide +kernel)

/-- `IllegalWords`: one word for each step of the check. -/
theorem witness_IllegalWords : Seated s0 ∧ refuses 0x7400000000000003B8000000#96 .opc = true ∧
    refuses (wordM 0x200 0x2B 8 0x084 6 0x40) .var = true ∧ refuses 0x7200000000000003B8000040#96 (.reserved 6) = true ∧
    refuses 0x800B042119A00203B8000000#96 (.operand 2) = true := by
  refine ⟨seat0, ?_⟩
  decide +kernel

/-! ### Witnesses: events of memory, launches, halts -/

/-- A table of one 1 GiB leaf: root at 0x10000, its first entry the table at 0x11000, and so on down to the leaf. -/
def sWalk : State :=
  let at_ (m : Memory) (a v : Nat) : Memory := Memory.write m a 8 v
  { s0 with
    mem := at_ (at_ (at_ (Memory.setByte (Memory.write s0.mem 0 8 0x10001) 0x13 1) 0x10000 0x11001) 0x11000 0x12001) 0x12000 0x3
    l2 := [⟨0x40, true, some 0, false⟩], eccFail := [0x2000, 0x3000] }

/-- `MemoryEvents`, its first two parts: errors in a line that a context wrote and in one that none did. -/
theorem witness_cache_events : (∃ e, s0.walk 0 0x1234 = .error e) ∧ signOk 0x1234 = true ∧
    0x2000 ∈ sWalk.eccFail ∧ 0x3000 ∈ sWalk.eccFail ∧ (∀ x ∈ sWalk.l2, x.line = 0x3000 / 128 → x.ctx = none) ∧
    sWalk.l2.find? (fun x => x.line == 0x2000 / 128) = some ⟨0x40, true, some 0, false⟩ := by
  refine ⟨?_, by decide +kernel⟩
  have h : okAny (s0.walk 0 0x1234) = false := by decide +kernel
  cases hw : s0.walk 0 0x1234 with
  | error e => exact ⟨e, rfl⟩
  | ok x => rw [hw] at h; simp [okAny] at h

/-- A line of core 0 of die 0 with its hint (R152), and one of a home slice. -/
def aLine (line : Nat) (hint : BitVec 3) : L1Line := ⟨⟨0, 0⟩, line, 0, none, [], 0, [], hint, []⟩

/-- `MemoryEvents`: lines that the hints of their set let go, and lines that they keep. -/
theorem witness_evictable :
    (let s := { s0 with l1 := [aLine 0x40 2, aLine 0xC0 0], l2 := [⟨0x40, true, none, true⟩, ⟨0x41, true, none, false⟩] }
     (s.l1Find ⟨0, 0⟩ 0x40 = some (aLine 0x40 2) ∧ s.l1Evictable (aLine 0x40 2) = false) ∧
      (s.l1Find ⟨0, 0⟩ 0xC0 = some (aLine 0xC0 0) ∧ s.l1Evictable (aLine 0xC0 0) = true) ∧ s.badMem = [] ∧
      s.l2Evictable ⟨0x40, true, none, true⟩ = true ∧ s.l2Evictable ⟨0x41, true, none, false⟩ = true) ∧
    (let s := { s0 with l2 := [⟨0x40, true, none, true⟩, ⟨0x40 + 2 ^ 17, true, none, false⟩] }
     s.l2Evictable ⟨0x40, true, none, true⟩ = true ∧ s.l2Evictable ⟨0x40 + 2 ^ 17, true, none, false⟩ = false) := by
  decide +kernel

/-- A group that waits for line 3, whose count is `n`, since time 0, at time `t`. -/
def waiting (n t : Nat) : State :=
  ({ s0 with time := t } : State).modBlk (fun b => { b with
    fe := if n = 0 then [] else [(3, n)], groups := b.groups.map (fun g => { g with wait := .lineEmpty [3] }) })

/-- `MemoryEvents`, waits on counts: full and empty, before FETO, after it, and with FETO zero. -/
theorem witness_count_waits :
    (∀ n ∈ [0, 7], ∃ u, (waiting n 0).seatBlk probeRef.block = some u ∧ decide (u.blk.feCount 3 = 0) = decide (n = 0) ∧
      ∀ g ∈ u.blk.groups, g.copies = [] ∧ g.fabs = []) ∧
    (∃ u, (waiting 7 10000001).seat probeRef = some u ∧ u.grp.wait = .lineEmpty (3 :: []) ∧ u.blk.feCount 3 ≠ 0 ∧
      u.grp.copies = [] ∧ u.grp.fabs = [] ∧ (waiting 7 10000001).mgmt.feto ≠ 0 ∧
      1000 * (waiting 7 10000001).mgmt.feto < (waiting 7 10000001).time - u.grp.waitSince ∧ u.seatSet.isSome = true) ∧
    (∃ u, (waiting 7 10000000).seat probeRef = some u ∧
      (waiting 7 10000000).time - u.grp.waitSince ≤ 1000 * (waiting 7 10000000).mgmt.feto) := by
  refine ⟨?_, some_ex (by decide +kernel) (by decide +kernel), some_ex (by decide +kernel) (by decide +kernel)⟩
  intro n hn
  simp only [List.mem_cons, List.not_mem_nil, or_false] at hn
  rcases hn with rfl | rfl <;> exact ⟨_, getD_eq (d := s0) (by decide +kernel), by decide +kernel, by decide +kernel⟩

/-- A handler group with a message in its inbox, and one with an asynchronous fault that no handler takes. -/
def sMsg : State :=
  let s := handled (boxed 2 (some ⟨5, 0x2000⟩))
  { s with mem := Memory.setByte s.mem 0x2010 1 }.modGrp (fun g => { g with hmaskr := 0 })

/-- `MemoryEvents`, its last part. -/
theorem witness_boundaries :
    (∃ u, sMsg.seat probeRef = some u ∧ u.handlerDue u.blk u.grp = true ∧ u.grp.active.isSome = true ∧ u.mayIssue = true ∧
      u.checkTarget true u.handlerPc = none ∧ u.launch? u.blk.ref.launch = none) ∧
    (let f : AsyncFault := ⟨0x50, 0, aOrg, none, false, 0, 0, 0⟩
     let s := s0.modGrp (fun g => { g with asyncs := [f] })
     ∃ u, s.seat probeRef = some u ∧ u.grp.asyncs = f :: [] ∧ u.grp.latchOnly = 0 ∧ u.blk.halted = false ∧
      u.grp.active.isSome = true ∧ userCode f.code (u.ctxPriv u.blk.ctx) = false) :=
  ⟨⟨_, getD_eq (d := s0) (by decide +kernel), by decide +kernel⟩, ⟨_, getD_eq (d := s0) (by decide +kernel), by decide +kernel⟩⟩

/-- A launch of one block on core 3 of die 0, its packet at 0x2000 and its header and map at 0x2040 and 0x2080. -/
def aLaunch : Launch :=
  { launchOf 0 with
    ref := ⟨1, 0⟩
    packet := leBytes 0x100000 8 ++ leBytes 0x2040 8 ++ [1, 0, 0, 0, 1, 0, 0, 0, 0, 0, 0, 0, 0, 0, 0, 0] ++ leBytes 0x2080 8 ++
      List.replicate 24 0
    eligible := false, dispatched := 0 }

/-- The device with `aLaunch` in queue 1, and its map's entry `e`. -/
def sLaunch (e : Nat) : State :=
  let s := devPage (placed s0)
  { s with mem := Memory.setBytes s.mem 0x2040 (leBytes 0x31534645 4 ++ [1, 0, 1, 0] ++ List.replicate 8 0 ++ [128] ++ List.replicate 47 0 ++ leBytes e 2),
           blocks := [], launches := [aLaunch] }
where
  placed (s : State) : State := { s with mgmt := { s.mgmt with coreMap := [(3, 3)] } }

/-- `Launching`: dependences met and not, checks passed and failed, one block to place, and a launch that has ended. -/
theorem witness_Launching :
    (sLaunch 3).launch? aLaunch.ref = some aLaunch ∧ aLaunch.isGang = false ∧
    (∀ i, i < 4 → (sLaunch 3).depOk (aLaunch.field (0x28 + 4 * i) 4) = true) ∧ (sLaunch 3).predAllows aLaunch = true ∧
    okAny ((sLaunch 3).checkLaunch aLaunch) = true ∧ okAny (({ sLaunch 3 with tlb := [] } : State).checkLaunch aLaunch) = false ∧
    (sLaunch 3).depOk 0x81000000 = false ∧
    (let l := { aLaunch with eligible := true, next := 1, waiting := [(0, 0, 3)] }
     let s := { sLaunch 3 with launches := [l] }
     s.saved = [] ∧ l.cosched = false ∧ l.steady = false ∧ l.next = l.grid ∧ l.ref.queue < 64 ∧ s.ctxRuns l.ctx = true ∧
      s.coreOk 0 3 = true ∧ s.hasRoom ⟨0, 3⟩ l.gpb l.spad = true) ∧
    (let l := { aLaunch with eligible := true, dispatched := 1, retired := 1, cores := [⟨0, 3⟩] }
     let s := { sLaunch 3 with launches := [l] }
     s.launchDone l = true ∧ s.mgmt.hlctl.getLsbD 30 = true ∧ (s.queue 1).done = [] ∧
      (s.queue 1).doneSeq.toNat = l.ref.seq ∧ (s.msixByte (16 * 2047 + 12)).getLsbD 0 = true ∧
      (({ s with mgmt := { s.mgmt with msixTable := [(12, 1)] } } : State).msixByte 12).getLsbD 0 = false) := by
  decide +kernel

/-- A group that has executed its last `EXIT`. -/
def sEnd : State := s0.modGrp (fun g => { g with quads := g.quads.map (fun q => { q with exited := true }) })

/-- As `sEnd`, beside a group that has not. -/
def sEndTwo : State := sEnd.modBlk (fun b => { b with groups := b.groups ++ [{ Group.start 1 1 0x100000 0 0 0 with active := some 1 }] })

/-- `Launching`, its last part: the last group of its block, and one that is not. -/
theorem witness_Endings : ∀ s ∈ [sEnd, sEndTwo], ∃ u, s.seat probeRef = some u ∧ (u.grp.retired = false ∧
    u.grp.allDone = true ∧ u.blk.halted = false ∧ u.passesOn = false ∧ u.blk.buffers = false ∧ u.mgmt.requests = []) ∧
    ((∀ i g, u.blk.groups[i]? = some g → i ≠ u.cur.grp → g.retired = true) ∨
      ∃ (i : Nat) (g : Group), i ≠ u.cur.grp ∧ u.blk.groups[i]? = some g ∧ g.retired = false) := by
  intro s hs
  simp only [List.mem_cons, List.not_mem_nil, or_false] at hs
  rcases hs with rfl | rfl
  · refine some_ex (by decide +kernel) ⟨by decide +kernel, .inl ?_⟩
    have hl : ((sEnd.seat probeRef).getD s0).blk.groups.length = 1 := by decide +kernel
    have hc : ((sEnd.seat probeRef).getD s0).cur.grp = 0 := by decide +kernel
    intro i g hi hne
    obtain ⟨h, _⟩ := List.getElem?_eq_some_iff.mp hi
    omega
  · exact some_ex (by decide +kernel) ⟨by decide +kernel,
      .inr ⟨1, _, by decide +kernel, getD_eq (d := Group.nil) (by decide +kernel), by decide +kernel⟩⟩

/-- A launch of 16 groups in queue 1, of priority 2 and WAITIV 1, that waits for core 3, which holds 17 groups of queue 2,
of priority `p`. -/
def sPre (p : Nat) : State :=
  let l : Launch := { aLaunch with eligible := true, next := 1, waiting := [(0, 0, 3)], packet := aLaunch.packet.set 0x14 16 }
  let b : Block := { probeBlock 0 with ref := ⟨⟨2, 0⟩, 0⟩, core := 3, groups := List.replicate 17 Group.nil }
  { s0 with time := 1001, launches := [l], blocks := [b],
            queues := [(1, { Queue.reset with ctl := 0x00010006 }), (2, { Queue.reset with ctl := BitVec.ofNat 32 (4 + p) })] }

/-- `Halting`, pre-emption: before and after WAITIV, and with victims that make room. -/
theorem witness_Preemption : (sPre 1).waits ⟨⟨1, 0⟩, 0⟩ = some (0, [(⟨0, 3⟩, 16, 0)]) ∧
    ((sPre 1).queue 1).waitIv = 1 ∧ 1000 * 1 < (sPre 1).time - 0 ∧ ({ sPre 1 with time := 1000 } : State).time - 0 ≤ 1000 * 1 ∧
    (takeVictims 16 0 ((sPre 1).roomUsed ⟨0, 3⟩) ((sPre 1).victims ⟨0, 3⟩ ((sPre 1).queue 1).prio)).isSome = true ∧
    (takeVictims 16 0 ((sPre 2).roomUsed ⟨0, 3⟩) ((sPre 2).victims ⟨0, 3⟩ ((sPre 2).queue 1).prio)).isSome = false := by
  decide +kernel

/-- `Halting`, pre-emption for a block that was discarded at time 9. -/
theorem witness_Rerun :
    let l : Launch := { aLaunch with again := [⟨0, 0, 3, 9⟩] }
    let s := { s0 with launches := [l] }
    s.launch? ⟨1, 0⟩ = some l ∧ s.ctxRuns l.ctx = true ∧ s.saved = [] ∧
      l.again.find? (fun y => y.block == 0) = some ⟨0, 0, 3, 9⟩ := by decide +kernel

/-- A block that was asked to halt, in a launch of queue 2, pre-emption enabled. -/
def sHalt (w : HaltWhy) (halted restartable : Bool) : State :=
  ({ s0 with time := 50001, queues := [(64, { Queue.reset with ctl := 4 })] } : State).modBlk (fun b =>
    { b with halting := some w, halted := halted, restartable := restartable, spad := 0, volf := 0 })

/-- `Halting`, the end of a halt, the drop, the save and the time limit; the save area starts at 0x20000. -/
theorem witness_Halts :
    (∃ u, (sHalt .fault false false).seatBlk probeRef.block = some u ∧ u.blk.halted = false ∧ u.haltDone = true ∧
      u.blk.halting = some .fault ∧ u.blk.buffers = false) ∧
    (sHalt .priority false true).mgmt.requests = [] ∧ (sHalt .priority false true).launches = [] ∧
    (∃ u, (sHalt .priority false true).seatBlk probeRef.block = some u ∧ u.haltDone = true ∧
      u.blk.halting = some .priority ∧ ((sHalt .priority false true).queue 64).preempt = true ∧ u.blk.buffers = true) ∧
    (∃ u, (sHalt .ended true false).seatBlk probeRef.block = some u ∧ u.blk.halted = true ∧ u.blk.stuck = false ∧
      u.blk.halting = some .ended ∧ ∀ g ∈ u.blk.groups, g.dropReady = true) ∧
    (∃ u, (sHalt (.context true) false false).seatBlk probeRef.block = some u ∧ u.blk.halting.isSome = true ∧
      u.blk.halted = false ∧ 50000 < (sHalt (.context true) false false).time - u.blk.haltSince ∧
      u.blk.overdue = false) := by
  and_intros <;> decide +kernel

/-- A halted block whose one group has retired, so that its record is its header, with a save area of 4 KiB at 0x20000. -/
def sSave : State :=
  let s := devPage (sHalt (.context false) true false)
  { s with mem := Memory.write (Memory.write s.mem 0x18 8 0x20000) 0x20 8 0x1000 }.modGrp (fun g => { g with retired := true })

/-- `Halting`, the save. -/
theorem witness_Save : ∃ u, sSave.seatBlk probeRef.block = some u ∧ u.blk.halted = true ∧ u.blk.stuck = false ∧
    u.blk.halting ≠ some .ended ∧ u.blk.halting ≠ some .broken ∧ (∀ g ∈ u.blk.groups, g.retired = true ∨ g.drained = true) ∧
    placeFrom u.blockRecord.length (sSave.ctxBase u.blk.ctx).toNat (sSave.savedSpans u.blk.ctx) = 0x20000 ∧
    0x20000 + u.blockRecord.length ≤ (sSave.ctxBase u.blk.ctx).toNat + sSave.ctxSize u.blk.ctx ∧
    sSave.ctxCheck u.blk.ctx (BitVec.ofNat 64 0x20000) u.blockRecord.length = .ok () :=
  ⟨_, getD_eq (d := s0) (by decide +kernel), by
    and_intros <;> first
      | decide +kernel
      | exact okIs_eq (by decide +kernel)⟩

/-! ### Witnesses: the host, the platform, the form of memory -/

/-- `HostAndPlatform`: the last bytes of HBM4 and of BAR0, the first reserved address, requests that are accepted and not,
and the controller's readings at each threshold. -/
theorem witness_HostAndPlatform :
    (0xBFFFFFFFF8 + (leBytes 5 8).length ≤ 0xC000000000) ∧
    ({ s0 with badMem := [0x400] } : State).partBad ((cellsFrom 0x2004 (leBytes 5 8)).map (fun c => c.1)) = [0x400] ∧
    (0x3FFFFF8 + 8 ≤ 2 ^ 26) ∧ (0xC000000000 + (leBytes 5 8).length ≤ 2 ^ 40) ∧
    s0.mgmt.preq.getLsbD 29 = true ∧ s0.mgmt.requests = [] ∧ s0.mgmt.resync = none ∧ s0.mgmt.hlctl.getLsbD 30 = true ∧
    (priv s0).ctxValid 0 = true ∧ (sSys.queue 63).ctl.getLsbD 3 = true ∧ (sSys.queue 63).grant.getLsbD 0 = true ∧
    (sSys.launchesOf 63).length < 256 ∧
    okIs ((devPage sSys).transl devCore 0 .read 64 0) (0, 0) = true ∧ (devPage sSys).badAt 0 64 = false ∧
    (s0.queue 0).ctl.getLsbD 3 = false ∧ (∃ b ∈ s0.blocks, b.ctx = 0) ∧ (∀ b ∈ s0.blocks, b.ctx ≠ 255) ∧
    (let s := { s0 with launches := [{ launchOf 0 with ref := ⟨63, 5⟩ }] }
     s.faultTarget 0x3F000005 = some { launchOf 0 with ref := ⟨63, 5⟩ }) ∧
    (0x80000000#32).getLsbD 31 = true ∧ (0x20#8).getLsbD 5 = true ∧
    (({ Mgmt.reset with status := 1 } : Mgmt).status.getLsbD 0 = true) ∧
    (({ Mgmt.reset with status := 1 } : Mgmt).status.getLsbD 1 = false) ∧
    (({ Mgmt.reset with status := 3 } : Mgmt).status.getLsbD 1 = true) ∧
    (({ Mgmt.reset with status := 3 } : Mgmt).status.getLsbD 2 = false) ∧
    ((List.range 168).filter (fun k => (Tbl.get fusesDefault s0.fuses 3).getLsbD k))[159]? = some 159 := by
  decide +kernel

/-- `HostAndPlatform`, a release of a hold that waits behind a request which has begun. -/
theorem witness_queuedRequest :
    let r : CtxReq := ⟨0, 0, true, true, true, true⟩
    let s := { s0 with mgmt := { s0.mgmt with requests := [r] } }.modBlk (fun b => { b with halting := some (.context true) })
    s.mgmt.requests = r :: [] ∧ r.begun = true ∧ r.go = true ∧ s.ctxResident r.ctx = true := by decide +kernel

/-- `HostAndPlatform`, the summary: its first entry and its last are written by steps of the agenda. -/
theorem witness_resync : ∀ k ∈ [0, 704],
    let s := { State.reset with agenda := [.resync], mgmt := { Mgmt.reset with resync := some (0x8000, k) } }
    s.dueDiscard = none ∧ s.dueRerun = none ∧ s.dueLate = none ∧ (let t : State := { s.settle.servePreq with clock := s.clock + 1 }
      t.eccFail = [] ∧ t.agenda = .resync :: [] ∧ t.mgmt.resync = some (0x8000, k) ∧ k < 705) := by decide +kernel

/-- `HostAndPlatform`, training of ports: the last enabled port, one of two, and one that is disabled; and the consumers and
thresholds of the controller. -/
theorem witness_training :
    (let s := { s0 with ports := [(0, { Port.reset with mode := 0x20 })], mgmt := { s0.mgmt with status := 7 } }
     (s.port 0).mode.getLsbD 5 = true ∧ (after (exec (.portTrained 0 false) s)).map (fun t => t.mgmt.status) = some 15) ∧
    (let s := { s0 with ports := [(0, { Port.reset with mode := 0x20 }), (1, { Port.reset with mode := 0x20 })],
                        mgmt := { s0.mgmt with status := 7 } }
     (after (exec (.portTrained 0 false) s)).map (fun t => t.mgmt.status) = some 7) ∧
    (s0.port 5).mode.getLsbD 5 = false := by decide +kernel

/-- `MemoryFormKept`: a step of the probe and one of the idle device. -/
theorem witness_MemoryFormKept : FormKept (State.reset.withFetchWord 96 0x7200000000000003B8000000) ∧
    (∃ t, step (State.reset.withFetchWord 96 0x7200000000000003B8000000) = .next t) ∧ FormKept State.reset ∧
    ∃ t, step State.reset = .next t :=
  ⟨⟨by decide +kernel, by decide +kernel⟩, after_eq (by decide +kernel), ⟨by decide +kernel, by decide +kernel⟩,
    after_eq (by decide +kernel)⟩

/-! ### One step of an instruction: results from the spec's examples and from its formulas by hand -/

/-- A group with lanes 0 to 7 active, these vector registers, and these scalars. -/
def eight (vs : Tbl VReg) (ss : List (Nat × Word)) : State :=
  (sc ss s0).modGrp (fun g => ((({ g with vregs := vs }).setS 61 0xFF).setS 62 0).setS 63 0)

/-- A vector with these words in its first lanes. -/
def ws (l : List Word) : VReg := .g l

/-- The state after `i`. -/
def ran (s : State) (i : Instr) : Option State := after (exec i s)

/-- A vector register in a lane, a scalar, a predicate in a lane and GMR[31:27] after `i`. -/
def vAt (s : State) (i : Instr) (n l : Nat) : Option Word := (ran s i).map (fun t => (t.grp.vreg n).read l)
def vList (s : State) (i : Instr) (n k : Nat) : Option (List Word) :=
  (ran s i).map (fun t => (List.range k).map (t.grp.vreg n).read)
def sAt (s : State) (i : Instr) (n : Nat) : Option Word := (ran s i).map (fun t => t.grp.sreg n)
def pAt (s : State) (i : Instr) (n : BitVec 3) (l : Nat) : Option Bool := (ran s i).map (fun t => t.grp.pred n l)
def gmrFlags (s : State) (i : Instr) : Option (BitVec 5) := (ran s i).map (fun t => t.grp.gmr.extractLsb' 27 5)

/-- R271's example, first half: the carry of the low words. -/
theorem test_iaddc_carry_out :
    let s := eight [(2, ws [0xFFFFFFFF]), (3, ws [1]), (4, ws [1]), (5, ws [2])] []
    vAt s (.iaddc hz m0 (.v 0) (.v 2) (.v 4) ⟨0, true, 7⟩ (pp 1)) 0 0 = some 0 ∧
    pAt s (.iaddc hz m0 (.v 0) (.v 2) (.v 4) ⟨0, true, 7⟩ (pp 1)) 1 0 = some true ∧
    vAt s (.iadd64 hz m0 (.v 0) (.v 2) (.v 4)) 1 0 = some 4 := by decide +kernel

/-- R271's example, second half: the carry into the high words. -/
theorem test_iaddc_carry_in :
    let s := (eight [(3, ws [1]), (5, ws [2])] []).modGrp (fun g => { g with preds := [(1, 1)] })
    vAt s (.iaddc hz m0 (.v 1) (.v 3) (.v 5) (pp 1) (pp 7)) 1 0 = some 4 ∧
    vAt s (.isubb hz m0 (.v 1) (.v 3) (.v 5) (pp 1) (pp 2)) 1 0 = some 0xFFFFFFFE ∧
    pAt s (.isubb hz m0 (.v 1) (.v 3) (.v 5) (pp 1) (pp 2)) 2 0 = some true := by decide +kernel

/-- R271: saturation at the type before extension, wrapping without it, and the corner of `IABS`. -/
theorem test_integer_narrowing :
    let s := eight [(2, ws [100]), (3, ws [100]), (4, ws [0x80]), (5, ws [0x80000000])] []
    vAt s (.iadd hz m0 .i8 true (.v 1) (.v 2) (.v 3)) 1 0 = some 0x7F ∧
    vAt s (.iadd hz m0 .i8 false (.v 1) (.v 2) (.v 3)) 1 0 = some 0xFFFFFFC8 ∧
    vAt s (.isub hz m0 .n8 true (.v 1) (.zero) (.v 3)) 1 0 = some 0 ∧
    vAt s (.iadd3 hz m0 .n8 false (.v 1) (.v 2) (.v 3) (.v 3)) 1 0 = some 0x2C ∧
    vAt s (.iabs hz m0 .i8 false (.v 1) (.v 4)) 1 0 = some 0xFFFFFF80 ∧
    vAt s (.iabs hz m0 .i32 true (.v 1) (.v 5)) 1 0 = some 0x7FFFFFFF := by decide +kernel

/-- R271: products, extremes and differences, signed and unsigned. -/
theorem test_integer_products :
    let s := eight [(2, ws [0xFFFFFFFF]), (3, ws [3]), (4, ws [0x80000000])] []
    vAt s (.imul hz m0 .i16 false (.v 1) (.v 2) (.v 3)) 1 0 = some 0xFFFFFFFD ∧
    vAt s (.imulh hz m0 .n32 (.v 1) (.v 2) (.v 3)) 1 0 = some 2 ∧
    vAt s (.imulh hz m0 .i32 (.v 1) (.v 2) (.v 3)) 1 0 = some 0xFFFFFFFF ∧
    vAt s (.imad hz m0 .i32 false (.v 1) (.v 2) (.v 3) (.v 3)) 1 0 = some 0 ∧
    vAt s (.imin hz m0 .i32 (.v 1) (.v 2) (.v 3)) 1 0 = some 0xFFFFFFFF ∧
    vAt s (.imax hz m0 .n32 (.v 1) (.v 2) (.v 3)) 1 0 = some 0xFFFFFFFF ∧
    vAt s (.isad hz m0 .i32 (.v 1) (.v 2) (.v 3) (.v 3)) 1 0 = some 7 := by decide +kernel

/-- R271: bytes of `IDOT4`, and the 64-bit forms. -/
theorem test_integer_wide :
    let s := eight [(2, ws [0xFF020304]), (3, ws [0x01010101]), (4, ws [0xFFFFFFFF]), (5, ws [0])] []
    vAt s (.idot4 hz m0 .i8 false (.v 1) (.v 2) (.v 3) (.v 3)) 1 0 = some 0x01010109 ∧
    vAt s (.idot4 hz m0 .n8 false (.v 1) (.v 2) (.v 3) .zero) 1 0 = some 0x108 ∧
    vAt s (.lea hz m0 .n32 3 (.v 0) (.v 4) (.v 3)) 0 0 = some 0x08080807 ∧
    vAt s (.lea hz m0 .n32 3 (.v 0) (.v 4) (.v 3)) 1 0 = some 1 ∧
    vAt s (.isub64 hz m0 (.v 0) .zero (.v 4)) 1 0 = some 0xFFFFFFFF ∧
    vAt s (.imadw hz m0 .i32 (.v 0) (.v 4) (.v 3) (.v 4)) 0 0 = some 0xFEFEFEFE := by decide +kernel

/-- `MOVI` and `MOV`: the pair is sign-extended, and the write keeps idle lanes (R271, R265). -/
theorem test_moves :
    let s := eight [(1, ws (List.replicate 96 7)), (2, ws [9])] []
    vAt s (.movi hz true (.v 4) 0x80000000) 5 7 = some 0xFFFFFFFF ∧
    vAt s (.mov hz m0 false (.v 1) (.v 2)) 1 0 = some 9 ∧ vAt s (.mov hz m0 false (.v 1) (.v 2)) 1 8 = some 7 ∧
    sAt s (.movi hz true (.s 10) 0xFFFFFFFE) 11 = some 0xFFFFFFFF := by decide +kernel

/-- R272: bitwise operations, the truth table of `LOP3`, and shift amounts at and past the width. -/
theorem test_logic :
    let s := eight [(2, ws [0xF0F0]), (3, ws [0xFF00]), (4, ws [0x0FF0]), (5, ws [32]), (6, ws [0x80000001])] []
    vAt s (.and hz (.v 1) (.v 2) (.v 3)) 1 0 = some 0xF000 ∧ vAt s (.or hz (.v 1) (.v 2) (.v 3)) 1 0 = some 0xFFF0 ∧
    vAt s (.xor hz (.v 1) (.v 2) (.v 3)) 1 0 = some 0x0FF0 ∧ vAt s (.andn hz (.v 1) (.v 2) (.v 3)) 1 0 = some 0x00F0 ∧
    vAt s (.lop3 hz 0xF8 (.v 1) (.v 2) (.v 3) (.v 4)) 1 0 = some 0xFFF0 ∧
    vAt s (.shl hz false (.v 1) (.v 6) (.v 5)) 1 0 = some 0 ∧ vAt s (.shr hz false (.v 1) (.v 6) (.v 5)) 1 0 = some 0 ∧
    vAt s (.sar hz false (.v 1) (.v 6) (.v 5)) 1 0 = some 0xFFFFFFFF ∧
    vAt s (.shl hz true (.v 0) (.v 2) (.v 5)) 1 0 = some 0xF0F0 := by decide +kernel

/-- R272: funnel shifts at 0 and 32, rotation, fields, counts and byte selection. -/
theorem test_bit_fields :
    let s := eight [(2, ws [0x11223344]), (3, ws [0x55667788]), (4, ws [32]), (5, ws [0xF00]), (6, ws [36])] []
    vAt s (.fshl hz (.v 1) (.v 2) (.v 3) .zero) 1 0 = some 0x55667788 ∧
    vAt s (.fshl hz (.v 1) (.v 2) (.v 3) (.v 4)) 1 0 = some 0x11223344 ∧
    vAt s (.fshr hz (.v 1) (.v 2) (.v 3) (.v 4)) 1 0 = some 0x55667788 ∧
    vAt s (.rotl hz (.v 1) (.v 2) (.v 6)) 1 0 = some 0x12233441 ∧
    vAt s (.bfe hz .i32 (.v 1) (.v 5) (.int 24) (.int 20)) 1 0 = some 0xFFFFFFFF ∧
    vAt s (.bfe hz .n32 (.v 1) (.v 5) (.int 24) .zero) 1 0 = some 0 ∧
    vAt s (.bfi hz (.v 1) (.v 5) (.v 2) (.int 20) (.int 24)) 1 0 = some 0x11223004 ∧
    vAt s (.prmt hz (.v 1) (.v 2) (.v 3) (.s 9)) 1 0 = some 0x44444444 ∧
    vAt (sc [(9, 0x00010203)] s) (.prmt hz (.v 1) (.v 2) (.v 3) (.s 9)) 1 0 = some 0x44332211 := by decide +kernel

/-- R272: reversal and counts, with the corners of `CLZ` and `CTZ`. -/
theorem test_counts :
    let s := eight [(2, ws [0x10])] []
    vAt s (.brev hz (.v 1) (.v 2)) 1 0 = some 0x08000000 ∧ vAt s (.popc hz (.v 1) (.v 2)) 1 0 = some 1 ∧
    vAt s (.clz hz (.v 1) (.v 2)) 1 0 = some 27 ∧ vAt s (.ctz hz (.v 1) (.v 2)) 1 0 = some 4 ∧
    vAt s (.clz hz (.v 1) .zero) 1 0 = some 32 ∧ vAt s (.ctz hz (.v 1) .zero) 1 0 = some 32 := by decide +kernel

/-- R273: integer and float conditions; both zeros are equal and a NaN is unordered. -/
theorem test_compares :
    let s := eight [(2, ws [0xFFFFFFFF]), (3, ws [1]), (4, ws [0x80000000]), (5, ws [0x7FC00000])] []
    pAt s (.icmp hz m0 .lt .i32 (pp 1) (.v 2) (.v 3) (pp 7)) 1 0 = some true ∧
    pAt s (.icmp hz m0 .lt .n32 (pp 1) (.v 2) (.v 3) (pp 7)) 1 0 = some false ∧
    pAt s (.fcmp hz m0 .eq .f32 (pp 1) (.v 4) .zero (pp 7)) 1 0 = some true ∧
    pAt s (.fcmp hz m0 .ne .f32 (pp 1) (.v 5) (.v 5) (pp 7)) 1 0 = some true ∧
    pAt s (.fcmp hz m0 .ge .f32 (pp 1) (.v 5) (.v 3) (pp 7)) 1 0 = some false ∧
    pAt s (.fcmp hz m0 .nan .f32 (pp 1) (.v 5) (.v 3) ⟨0, true, 7⟩) 1 0 = some false := by decide +kernel

/-- R273: selection, truth tables and moves of predicates. -/
theorem test_predicates :
    let s := (eight [(2, ws [5, 6]), (3, ws [8, 9])] []).modGrp (fun g => { g with preds := [(1, 5), (2, 0x106)] })
    vList s (.sel hz m0 (.v 1) (.v 2) (.v 3) (pp 1)) 1 2 = some [5, 9] ∧
    pAt s (.pset hz 0x88 (pp 3) (pp 1) (pp 2) (pp 7)) 3 2 = some true ∧
    pAt s (.pset hz 0x88 (pp 3) (pp 1) (pp 2) (pp 7)) 3 0 = some false ∧
    sAt s (.pmovs hz (.s 20) (pp 2)) 20 = some 6 ∧ sAt s (.pmovs hz (.s 20) (pp 2)) 22 = some 0 ∧
    pAt s (.pmovp hz m0 (pp 4) (.s 61)) 4 7 = some true := by decide +kernel

/-- R275: `SHFL.sub` by 0xFFFFFFFF reads the lane's own value; the exchanges and broadcasts of a quad. -/
theorem test_lane_moves :
    let s := eight [(1, ws [10, 11, 12, 13, 14, 15, 16, 17, 18]), (2, ws (List.replicate 96 0xFFFFFFFF))] []
    vList s (.shfl hz .sub (.v 3) (.v 1) (.v 2)) 3 3 = some [10, 11, 12] ∧
    vList s (.shfl hz .bfly (.v 3) (.v 1) (.int 19)) 3 4 = some [13, 12, 11, 10] ∧
    vList s (.qxchg hz .y (.v 3) (.v 1)) 3 4 = some [12, 13, 10, 11] ∧
    vList s (.qbcst hz 3 (.v 3) (.v 1)) 3 5 = some [13, 13, 13, 13, 17] ∧
    (ran s (.qhelp hz true)).map (fun t => t.grp.helper) = some true := by decide +kernel

/-- The state of R276's example. -/
def sZ : State := eight [(1, ws [0, 5, 0, 0, 9, 0, 2, 0, 77])] []

/-- R276's table. -/
theorem test_group_wide_scan :
    vList sZ (.zscan hz false (.v 2) (.v 1) (.s 10)) 2 8 =
      some [1, 4, 6, 0xFFFFFFFF, 0xFFFFFFFF, 0xFFFFFFFF, 0xFFFFFFFF, 0xFFFFFFFF] ∧
    sAt sZ (.zscan hz false (.v 2) (.v 1) (.s 10)) 10 = some 3 ∧
    vList sZ (.scang hz .add false .n32 (.v 4) (.v 1)) 4 8 = some [0, 5, 5, 5, 14, 14, 16, 16] ∧
    vList sZ (.scang hz .add true .n32 (.v 5) (.v 1)) 5 8 = some [0, 0, 5, 5, 5, 14, 14, 16] := by decide +kernel

/-- R276's table, the rest, and a single lane read and written. -/
theorem test_group_wide_reduce :
    vList sZ (.redg hz .max .n32 (.v 3) (.v 1)) 3 9 = some [9, 9, 9, 9, 9, 9, 9, 9, 0] ∧
    sAt sZ (.vote hz (.cnt (.s 11)) ⟨0, true, 7⟩) 11 = some 0 ∧
    vList sZ (.shfl hz .add (.v 6) (.v 1) (.int 17)) 6 8 = some [5, 0, 0, 9, 0, 2, 0, 77] ∧
    sAt sZ (.rdlane hz (.s 12) (.v 1) (.int 20)) 12 = some 9 ∧
    vAt sZ (.wrlane hz (.v 7) (.int 22) (.int 24)) 7 8 = some 6 := by decide +kernel

/-- R290's example: overflow, its scale by one half, and its saturation. -/
theorem test_fadd_overflow :
    let s := eight [(2, ws [0x7F7FFFFF]), (3, ws [0x7F7FFFFF])] []
    let i : Instr := .fadd hz m0 dm0 .f32 (.v 1) (.v 2) (.v 3)
    let half : Instr := .fadd hz m0 ⟨0, 7⟩ .f32 (.v 1) (.v 2) (.v 3)
    let sat := s.modGrp (fun g => { g with gmr := 0x40000 })
    vAt s i 1 0 = some 0x7F800000 ∧ gmrFlags s i = some 0b10100 ∧
    vAt sat i 1 0 = some 0x7F7FFFFF ∧ gmrFlags sat i = some 0b10100 ∧
    (vAt s half 1 0 = some 0x7F7FFFFF ∧ gmrFlags s half = some 0) := by decide +kernel

/-- Sums, products and fused products (R284): a signed zero, one rounding, and NaN. -/
theorem test_float_arithmetic :
    let s := eight [(2, ws [0x3F800001]), (3, ws [0x3F800000]), (4, ws [0x7F800000])] []
    vAt s (.fsub hz m0 dm0 .f32 (.v 1) (.v 2) (.v 3)) 1 0 = some 0x34000000 ∧
    vAt s (.fmul hz m0 dm0 .f32 (.v 1) (.v 2) (.v 2)) 1 0 = some 0x3F800002 ∧
    vAt s (.ffma hz ⟨false, false, false, false, true, false⟩ dm0 .f32 (.v 1) (.v 2) (.v 3) (.v 2)) 1 0 = some 0 ∧
    vAt s (.fsub hz m0 dm0 .f32 (.v 1) (.v 4) (.v 4)) 1 0 = some 0x7FC00000 ∧
    gmrFlags s (.fsub hz m0 dm0 .f32 (.v 1) (.v 4) (.v 4)) = some 1 := by decide +kernel

/-- R288 to R290: −0 below +0, a NaN passed over, `FRND.ru` of −0.3, classes, scaling by a power of two. -/
theorem test_float_selection :
    let s := eight [(2, ws [0x80000000]), (3, ws [0x7FC00000]), (4, ws [0xBE99999A]), (5, ws [0x3F800000])] []
    vAt s (.fmin hz m0 dm0 .f32 (.v 1) .zero (.v 2)) 1 0 = some 0x80000000 ∧
    vAt s (.fmax hz m0 dm0 .f32 (.v 1) (.v 3) (.v 4)) 1 0 = some 0xBE99999A ∧
    vAt s (.frnd hz m0 dm0 .ru .f32 (.v 1) (.v 4)) 1 0 = some 0x80000000 ∧
    vAt s (.fclass hz m0 .f32 (.v 1) (.v 2)) 1 0 = some 0x20 ∧ vAt s (.fclass hz m0 .f32 (.v 1) (.v 3)) 1 0 = some 2 ∧
    vAt s (.fscale hz m0 dm0 .f32 (.v 1) (.v 5) (.int 19)) 1 0 = some 0x41000000 := by decide +kernel

/-- R294's examples. -/
theorem test_f2i :
    let s := eight [(2, ws [0x3FB00000]), (3, ws [0x40200000]), (4, ws [0xC0600000]), (5, ws [0x43960000]),
      (6, ws [0xFF800000]), (7, ws [0x7FC00000])] []
    let sat := s.modGrp (fun g => { g with gmr := 0x2000000 })
    vAt s (.f2i hz m0 2 .i16 .f32 (.v 1) (.v 2)) 1 0 = some 6 ∧ gmrFlags s (.f2i hz m0 2 .i16 .f32 (.v 1) (.v 2)) = some 16 ∧
    vAt s (.f2i hz m0 0 .i8 .f32 (.v 1) (.v 3)) 1 0 = some 2 ∧ vAt s (.f2i hz m0 0 .i8 .f32 (.v 1) (.v 4)) 1 0 = some 0xFFFFFFFC ∧
    vAt s (.f2i hz m0 0 .i8 .f32 (.v 1) (.v 5)) 1 0 = some 0x2C ∧ vAt sat (.f2i hz m0 0 .i8 .f32 (.v 1) (.v 5)) 1 0 = some 0x7F ∧
    gmrFlags s (.f2i hz m0 0 .i8 .f32 (.v 1) (.v 5)) = some 17 ∧
    vAt s (.f2i hz m0 0 .i8 .f32 (.v 1) (.v 6)) 1 0 = some 0 ∧ vAt sat (.f2i hz m0 0 .i8 .f32 (.v 1) (.v 6)) 1 0 = some 0xFFFFFF80 ∧
    gmrFlags s (.f2i hz m0 0 .i8 .f32 (.v 1) (.v 6)) = some 1 ∧
    vAt sat (.f2i hz m0 0 .i8 .f32 (.v 1) (.v 7)) 1 0 = some 0 := by decide +kernel

/-- R292, R293 and R295: halves, widening, and integers to float. -/
theorem test_conversions :
    let s := eight [(2, ws [0x3FC00000]), (3, ws [0xFFFFFFFF]), (4, ws [0xC0003C00])] []
    vAt s (.fcvt hz m0 dm0 true .h2 .f32 (.v 1) (.v 2)) 1 0 = some 0x3E000000 ∧
    vAt s (.fcvt hz m0 dm0 true .f32 .h2 (.v 1) (.v 4)) 1 0 = some 0xC0000000 ∧
    vAt s (.fcvt hz m0 dm0 false .f64 .f32 (.v 0) (.v 2)) 1 0 = some 0x3FF80000 ∧
    vAt s (.i2f hz m0 dm0 .f32 .i32 (.v 1) (.v 3)) 1 0 = some 0xBF800000 ∧
    vAt s (.i2f hz m0 dm0 .f32 .n32 (.v 1) (.v 3)) 1 0 = some 0x4F800000 ∧
    vAt s (.packh hz m0 dm0 .b2 (.v 1) (.v 2) .zero) 1 0 = some 0x3FC0 := by decide +kernel

/-- R296 and R297: exact values of the special functions, with their flags. -/
theorem test_special_exact :
    let s := eight [(2, ws [0x3E800000]), (3, ws [0xBF800000]), (4, ws [0x41000000]), (5, ws [0x40800000])] []
    vAt s (.fsin hz m0 dm0 .f32 (.v 1) (.v 2)) 1 0 = some 0x3F800000 ∧ gmrFlags s (.fsin hz m0 dm0 .f32 (.v 1) (.v 2)) = some 0 ∧
    vAt s (.fsin hz m0 dm0 .f32 (.v 1) (.v 3)) 1 0 = some 0x80000000 ∧ vAt s (.fcos hz m0 dm0 .f32 (.v 1) (.v 2)) 1 0 = some 0 ∧
    vAt s (.flog2 hz m0 dm0 .f32 (.v 1) (.v 4)) 1 0 = some 0x40400000 ∧
    vAt s (.fexp2 hz m0 dm0 .f32 (.v 1) (.v 3)) 1 0 = some 0x3F000000 ∧
    vAt s (.fsqrt hz m0 dm0 .f32 (.v 1) (.v 5)) 1 0 = some 0x40000000 ∧
    vAt s (.ftanh hz m0 dm0 .f32 (.v 1) .zero) 1 0 = some 0 := by decide +kernel

/-- R296: the operands that have results of their own, and correctly rounded quotients. -/
theorem test_special_corners :
    let s := eight [(2, .u 0xBF800000), (3, .u 0x40400000), (4, .u 0x3F800000), (5, .u 0x80000000)] []
    vAt s (.frcp hz m0 dm0 .f32 (.v 1) (.v 5)) 1 0 = some 0xFF800000 ∧ gmrFlags s (.frcp hz m0 dm0 .f32 (.v 1) (.v 5)) = some 2 ∧
    vAt s (.frsq hz m0 dm0 .f32 (.v 1) (.v 2)) 1 0 = some 0x7FC00000 ∧ gmrFlags s (.frsq hz m0 dm0 .f32 (.v 1) (.v 2)) = some 1 ∧
    vAt s (.fdiv hz m0 dm0 .f32 (.v 1) (.v 4) (.v 3)) 1 0 = some 0x3EAAAAAB ∧
    vAt s (.frcp hz m0 dm0 .f32 (.v 1) (.v 3)) 1 0 = some 0x3EAAAAAB ∧
    gmrFlags s (.fdiv hz m0 dm0 .f32 (.v 1) (.v 4) (.v 3)) = some 16 := by decide +kernel

/-- The example at the end of the statistics instructions: step 3 of `STUPD` on 1, 2 and 4, and `STNRM.smp` after it. -/
theorem test_statistics_update :
    let s := eight [(3, ws [0x40800000]), (10, ws [0x40000000]), (11, ws [0x3FC00000]), (12, ws [0x3F000000])] []
    let i : Instr := .stupd hz m0 (.v 10) (.v 10) (.v 3)
    vAt s i 10 0 = some 0x40400000 ∧ vAt s i 11 0 = some 0x40155555 ∧ vAt s i 12 0 = some 0x40955556 ∧
    gmrFlags s i = some 16 ∧
    (let t := eight [(10, ws [0x40400000]), (11, ws [0x40155555]), (12, ws [0x40955556])] []
     vAt t (.stnrm hz m0 true (.v 13) (.v 10) .zero) 13 0 = some 0x40155555 ∧
     vAt t (.stnrm hz m0 true (.v 13) (.v 10) .zero) 14 0 = some 0x40155556 ∧
     vAt t (.stnrm hz m0 true (.v 13) .zero .zero) 13 0 = some 0x7FD00000) := by decide +kernel

/-- The merge of R134's example, by `STMRG`, by `STQRED` and by `STRED` to scalars. -/
theorem test_statistics_merge :
    let s := eight [(4, ws [0x40000000, 0, 0x40400000]), (5, ws [0x3FC00000, 0, 0x40A00000]),
      (6, ws [0x3F000000, 0, 0x40000000]), (7, ws [0x40400000]), (8, ws [0x40A00000]), (9, ws [0x40000000])] []
    vAt s (.stmrg hz (.v 10) (.v 4) (.v 7)) 10 0 = some 0x40A00000 ∧
    vAt s (.stmrg hz (.v 10) (.v 4) (.v 7)) 11 0 = some 0x40666667 ∧
    vAt s (.stmrg hz (.v 10) (.v 4) (.v 7)) 12 0 = some 0x4189999A ∧
    vAt s (.stqred hz (.v 10) (.v 4)) 12 3 = some 0x4189999A ∧
    sAt s (.stred hz (.s 10) (.v 4)) 11 = some 0x40666667 := by decide +kernel

/-- R279: the link of a call is the next slot's PC, in the quads that take it. -/
theorem test_call_link :
    let i : Instr := .call hz (.v 20) 0
    (ran s0 i).map (fun t => ((t.grp.vreg 20).read 0, (t.grp.vreg 21).read 0)) =
      some ((s0.cur.pc + 1).extractLsb' 0 32, (s0.cur.pc + 1).extractLsb' 32 32) := by decide +kernel

/-- R280: a quad that waits at `REGANG` with all quads expected stays until they arrive; alone in its mask it goes on. -/
theorem test_regang :
    let s : State := { s0 with cur := { s0.cur with quads := 1 } }
    (ran s (.regang hz .zero)).map (fun t => decide ((t.grp.quads.getD 0 (Quad.start 0)).wait = QWait.run)) = some false ∧
    (ran s (.regang hz (.s 6))).map (fun t => decide ((t.grp.quads.getD 0 (Quad.start 0)).wait = QWait.run)) = some true := by
  decide +kernel

/-- `TRAP 0x12`: the fields of TREC0 to TREC2 (R378): n in DETAIL, VALID and code 0x40, all 24 quads, the PC. -/
theorem test_trap_record :
    (ran (handled s0) (.trap hz 0x12)).map (fun t => (t.grp.trec0, t.grp.trec1, t.grp.trec2)) =
      some (0x00120140, 0xFFFFFF, (handled s0).cur.pc.extractLsb' 0 32) := by decide +kernel

/-! ### Memory -/

/-- The example of `STM`: 0x5B to 0x10004 and 0xC0 to 0x10005 (R307); here in one lane, byte by byte. -/
theorem test_stm_mask :
    let s := sc [(4, 0x10000)] (s1.modGrp (fun g => { g with vregs := [(8, ws [0x00C05B00]), (10, ws [6])] }))
    (ran s (.stm h0 0 (.v 8) (.s 4) (.v 10) 3)).map (fun t => t.grp.memops.map (fun o => o.acc.map (fun a => (a.pa, a.len, a.data)))) =
      some [[(0x10004, 1, 0x5B), (0x10005, 1, 0xC0)]] := by decide +kernel

/-- The example of `DEC` (R313): the landing holds 100, 103, 104 and 110, then 0, and the produced count 4. -/
theorem test_dec_example :
    let s := sDec.modGrp (fun g => ((g.setS 61 0x1F).setS 62 0).setS 63 0)
    (ran s (.dec hz 0 true (.v 20) (.s 12) (.s 10) (.s 8) (pp 2))).map (fun t =>
      t.grp.landings.map (fun x => (x.vals.map (fun v => v.2), x.sdst))) =
      some [([100, 103, 104, 110, 0], some (8, 4))] := by decide +kernel

/-- `SETF` at a count of 1 brings the line to 0, and `SETE` counts it up, once for each line (R312). -/
theorem test_full_empty :
    let s := (sc [(4, 0x800)] s1).modBlk (fun b => { b with fe := [(16, 1)] })
    (ran s (.setf h0 0 (.s 4) .zero 0)).map (fun t => t.blk.feCount 16) = some 0 ∧
    (ran s (.sete h0 0 (.s 4) .zero 0)).map (fun t => t.blk.feCount 16) = some 2 := by decide +kernel

/-! ### Numbers of the engines -/

/-- The example of R120: index 0x0085 with the reset table, in halves. -/
theorem test_v2_example :
    (List.range 8).map (fun k => v2Code [0x85, 0] codebookReset k 0) = [3, 1, 1, 1, -1, 1, -1, 1] := by decide +kernel

/-- The example of R129: 2^20 and 3 × 2^−20 in one k-group. -/
theorem test_group_sum_cut :
    accStep 0 [(.fin false 1 20, {}), (.fin false 3 (-20), {})] = (0x49800000, { ix := true }) ∧
    (accStep 0 [(.fin false 1 0, {}), (.fin false 3 (-20), {})]).2 = {} := by decide +kernel

/-- The example of `TCVT` (R137): BF16 of 0x7F7FFFFF with the overflow table at reset, and with OVB16 = 0. -/
theorem test_tcvt_overflow :
    rndOvt 0x15 .bf16 (f32v 0x7F7FFFFF) = (0x7F80, ({ of := true, ix := true } : Flags).engine) ∧
    rndOvt 0x11 .bf16 (f32v 0x7F7FFFFF) = (0x7F7F, ({ of := true, ix := true } : Flags).engine ||| flagSaturate) := by
  decide +kernel

/-- CSRR of a read-only register, and `CSRW` to one, which is refused (R98, R350). -/
theorem test_csr_rank :
    let s := { s0 with mgmt := { s0.mgmt with rank := 77 } }
    sAt s (.csrr hz (.s 10) 0x016) 10 = some 77 ∧ sAt s (.csrr hz (.s 10) 0x001) 10 = some 0x7F800000 := by decide +kernel

end Sys2Proof.Tests
end

section
/-! SUPPORT. Helper mode (O16): what an issue that writes no register leaves, the helper lanes of a quad, and the state
word of a group record. -/

namespace Sys2Proof.Machine

variable {s : State}

/-! ### An issue that changes a group outside its registers -/

/-- `x` agrees with `g` in all that the end of an issue reads or counts on: registers, latches, quads, the issue count,
the event counters and the registers that fail their check. -/
structure Group.SameForIssue (g x : Group) : Prop where
  sregs : x.sregs = g.sregs
  vregs : x.vregs = g.vregs
  preds : x.preds = g.preds
  oregs : x.oregs = g.oregs
  lt0 : x.lt0 = g.lt0
  lt1 : x.lt1 = g.lt1
  latchOnly : x.latchOnly = g.latchOnly
  quads : x.quads = g.quads
  issues : x.issues = g.issues
  ecnt : x.ecnt = g.ecnt
  ecsel : x.ecsel = g.ecsel
  badRegs : x.badRegs = g.badRegs

theorem Group.SameForIssue.regsKept {g x : Group} (hx : g.SameForIssue x) :
    RegsKept g x noReg noReg noReg noReg := by
  refine ⟨fun n _ => ?_, fun n _ => ?_, fun n _ => ?_, fun n _ => ?_⟩
  · simp only [Group.vreg, hx.vregs]
  · simp only [Group.oreg, hx.oregs]
  · simp only [Group.sreg, hx.sregs]
  · rw [hx.preds]

/-- A group changed outside its registers whose issue then ends: its other fields stand as changed. -/
theorem State.modGrp_done_issueFrom (hs : Seated s) (h : Hdr) (f : Group → Group) (hx : s.grp.SameForIssue (f s.grp)) :
    ∃ t, (s.modGrp f).done h = .next t ∧ IssueFrom s t h (f s.grp) := by
  obtain ⟨r, hr⟩ := State.finTo_put hs (f s.grp) s.free s.rounds h (fun _ p => pcNext p)
  refine ⟨_, congrArg Host.Outcome.next hr, State.put_onlyGroup hs _ _ _, State.put_memoryKept hs _ _ _,
    issued_put hs hx.quads hx.issues (.inl hx.latchOnly) hx.ecnt hx.ecsel (.inl hx.badRegs), ?_⟩
  rw [State.put_grp hs]
  refine ⟨regsKept_ended hx.regsKept _ _ _ _ _, ⟨?_, ?_⟩, SpecialKept.ended rfl _ _ _ _ _⟩
  · rw [Group.ended_lt0, hx.lt0]
  · rw [Group.ended_lt1, hx.lt1]

theorem SpecialKept.helper_eq {g x : Group} (hx : SpecialKept g x) : x.helper = g.helper :=
  (congrArg Group.helper hx :)

theorem RegsKept.maskBit_eq {g x : Group} {v o p : Nat → Prop} (hx : RegsKept g x v o noReg p) (l : Nat) :
    x.maskBit l = g.maskBit l := by
  obtain ⟨_, _, hsreg, _⟩ := hx
  rw [Group.maskBit, hsreg _ id, Group.maskBit]

theorem IssueFrom.helper_eq {t : State} {h : Hdr} {g : Group} (hf : IssueFrom s t h g) : t.grp.helper = g.helper := by
  obtain ⟨_, _, _, _, _, hspecial⟩ := hf
  exact SpecialKept.helper_eq hspecial

theorem IssueFrom.maskBit_eq {t : State} {h : Hdr} {g : Group} (hf : IssueFrom s t h g) (l : Nat) :
    t.grp.maskBit l = s.grp.maskBit l := by
  obtain ⟨_, _, _, hregs, _, _⟩ := hf
  exact RegsKept.maskBit_eq hregs l

/-- A once action acts where some lane executes (R270). -/
theorem State.onceOp_of_lanes {h : Hdr} (hl : s.lanes h ≠ []) (f : State → State) : s.onceOp h f = (f s).done h := by
  rw [State.onceOp, if_neg (mt List.isEmpty_iff.1 hl)]

theorem exec_qhelp (h : Hdr) (on : Bool) :
    exec (.qhelp h on) s = s.onceOp h (fun s => s.modGrp (fun g => { g with helper := on })) := rfl

/-- `QHELP` sets helper mode and changes nothing else but the end of the issue (R30). -/
theorem qhelp_issueFrom (hs : Seated s) {h : Hdr} (hl : s.lanes h ≠ []) (on : Bool) :
    ∃ t, exec (.qhelp h on) s = .next t ∧ IssueFrom s t h { s.grp with helper := on } := by
  rw [exec_qhelp, State.onceOp_of_lanes hl]
  exact State.modGrp_done_issueFrom hs h _ ⟨rfl, rfl, rfl, rfl, rfl, rfl, rfl, rfl, rfl, rfl, rfl, rfl⟩

/-! ### Helper lanes -/

theorem Group.exists_quad_maskBit_iff (g : Group) (l : Nat) :
    (∃ i, i < 4 ∧ g.maskBit (4 * (l / 4) + i) = true) ↔
      (g.maskBit (4 * (l / 4)) || g.maskBit (4 * (l / 4) + 1) || g.maskBit (4 * (l / 4) + 2) ||
        g.maskBit (4 * (l / 4) + 3)) = true := by
  simp only [Nat.exists_lt_succ_right, Nat.not_lt_zero, false_and, exists_false, false_or, Nat.add_zero, Bool.or_eq_true]

theorem Group.isHelper_iff (g : Group) (l : Nat) :
    g.isHelper l = true ↔
      g.helper = true ∧ g.maskBit l = false ∧ ∃ i, i < 4 ∧ g.maskBit (4 * (l / 4) + i) = true := by
  rw [Group.exists_quad_maskBit_iff, Group.isHelper, Bool.and_eq_true, Bool.and_eq_true, Bool.not_eq_true', and_assoc]

/-! ### The state word of a group record (R107) -/

/-- A number written after `pre` is read back at its offset, cut to its width. -/
theorem fieldOf_append_leBytes (pre rest : List Byte) (v n : Nat) :
    fieldOf (pre ++ (leBytes v n ++ rest)) pre.length n = v % 256 ^ n := by
  rw [fieldOf, List.drop_left, List.take_left' (length_leBytes v n), leNat_leBytes]

/-- The bytes of a group record before its state word: scalars, PCs, stamps, predicates, control registers and event
counters. -/
def Group.recordHead (g : Group) : List Byte :=
  wordBytes ((List.range 64).map g.sreg) ++
  g.quads.flatMap (fun q => leBytes q.pc.toNat 8) ++
  g.quads.flatMap (fun q => leBytes q.stamp 4) ++
  (List.range 7).flatMap (fun p => maskBytes (Tbl.get 0 g.preds p) 12) ++
  List.replicate 12 0 ++
  wordBytes [g.gmr, g.mxa, g.hvec, g.hmaskr] ++
  wordBytes ((List.range 8).map (Tbl.get 0 g.ecsel)) ++
  wordBytes ((List.range 8).map (Tbl.get 0 g.ecnt))

/-- The state word of a group record. -/
def Group.stateWord (g : Group) : Nat :=
  (if g.helper then 1 else 0) + (if g.saveO then 2 else 0) + (if g.frame.isSome then 4 else 0)

theorem Group.record_eq_head_state (g : Group) (volf k : Nat) :
    ∃ rest, g.record volf k = g.recordHead ++ (leBytes g.stateWord 4 ++ rest) := by
  simp only [Group.record, padTo128, Group.recordHead, Group.stateWord, List.append_assoc]
  exact ⟨_, rfl⟩

theorem length_flatMap_of_forall {α : Type} {f : α → List Byte} {n : Nat} (hf : ∀ x, (f x).length = n) (xs : List α) :
    (xs.flatMap f).length = xs.length * n := by
  induction xs with
  | nil => rw [List.flatMap_nil, List.length_nil, List.length_nil, Nat.zero_mul]
  | cons x xs ih => rw [List.flatMap_cons, List.length_append, hf, ih, List.length_cons, Nat.succ_mul, Nat.add_comm]

@[simp] theorem length_wordBytes (ws : List Word) : (wordBytes ws).length = ws.length * 4 :=
  length_flatMap_of_forall (fun _ => length_leBytes _ _) ws

/-- The state word of a group of 24 quads stands at offset 0x2D0. -/
theorem Group.length_recordHead {g : Group} (hq : g.quads.length = 24) : g.recordHead.length = 0x2D0 := by
  have hpc := length_flatMap_of_forall (fun q : Quad => length_leBytes q.pc.toNat 8) g.quads
  have hstamp := length_flatMap_of_forall (fun q : Quad => length_leBytes q.stamp 4) g.quads
  have hpred : ((List.range 7).flatMap (fun p => maskBytes (Tbl.get 0 g.preds p) 12)).length = 7 * 12 :=
    (length_flatMap_of_forall (fun _ => length_leBytes _ _) _).trans (by rw [List.length_range])
  rw [hq] at hpc hstamp
  simp only [Group.recordHead, List.length_append, length_wordBytes, List.length_map, List.length_range,
    List.length_replicate, List.length_cons, List.length_nil, hpc, hstamp, hpred]

theorem Group.fieldOf_record_state {g : Group} (hq : g.quads.length = 24) (volf k : Nat) :
    fieldOf (g.record volf k) 0x2D0 4 = g.stateWord % 256 ^ 4 := by
  obtain ⟨rest, hrest⟩ := g.record_eq_head_state volf k
  rw [hrest, ← Group.length_recordHead hq, fieldOf_append_leBytes]

/-- Bit 0 of the state word is helper mode. -/
theorem Group.stateWord_odd_iff (g : Group) : g.stateWord % 256 ^ 4 % 2 = 1 ↔ g.helper = true := by
  unfold Group.stateWord
  cases g.helper <;> cases g.saveO <;> cases g.frame.isSome <;> decide

/-! ### The obligation -/

/-- Settles O16: `QHELP` is a once action outside the registers, so the mask words stand; helper lanes read as R30 says;
the frame copies the mode, and the record holds it as bit 0 of its state word. -/
theorem helperMode : Obligations.HelperMode := by
  unfold Obligations.HelperMode
  refine ⟨fun s h on hs hl => ?_, Group.isHelper_iff, fun _ _ _ => rfl, fun _ => rfl, fun g volf k hq => ?_⟩
  · obtain ⟨t, ht, hfrom⟩ := qhelp_issueFrom hs hl on
    exact ⟨t, ht, IssueFrom.helper_eq hfrom, IssueFrom.maskBit_eq hfrom, hfrom⟩
  · rw [Group.fieldOf_record_state hq]
    exact g.stateWord_odd_iff

end Sys2Proof.Machine
end

section
/-! SUPPORT. Launch numbers (O48): what leaves the hardware queues and the live launches alone, the number that an
accepted packet takes, the steps of `LAUNCH` and of `CSRR` whose checks pass, and the fields of LAUNCHID. -/

namespace Sys2Proof.Machine

variable (s : State)

/-! ### What a write-back leaves of the queues -/

theorem State.l2Put_queues (x : L2Line) : (s.l2Put x).queues = s.queues := by
  unfold State.l2Put
  dsimp only
  split
  · rfl
  · split <;> rfl

theorem State.touchL2_queues (ctx : Option Nat) (pa : Nat) : (s.touchL2 ctx pa).queues = s.queues := by
  unfold State.touchL2
  split
  · exact s.l2Put_queues _
  · rfl

theorem State.putHome_queues (pa : Nat) (bytes : List Byte) : (s.putHome pa bytes).queues = s.queues :=
  State.touchL2_queues _ _ _

theorem State.tellsHost_queues (pa : Nat) (bytes : List Byte) : (s.tellsHost pa bytes).queues = s.queues := by
  unfold State.tellsHost
  split <;> rfl

theorem State.storeCells_queues (cells : List (Nat × Byte)) : (s.storeCells cells).queues = s.queues := by
  have hput (kept : List Nat) : (cells.foldl (fun (t : State) (c : Nat × Byte) =>
      if kept.contains (c.1 / 8) then t else t.putHome c.1 [c.2]) s).queues = s.queues :=
    List.foldlRecOn (motive := fun t : State => t.queues = s.queues) _ _ rfl fun t ht c _ => by
      split
      · exact ht
      · exact (t.putHome_queues _ _).trans ht
  unfold State.storeCells
  dsimp only
  split
  · exact List.foldlRecOn (motive := fun t : State => t.queues = s.queues) _ _ (hput _)
      fun t ht r _ => (t.tellsHost_queues _ _).trans ht
  · exact hput _

theorem State.wbBytes_queues (x : L1Line) : (s.wbBytes x).queues = s.queues := by
  unfold State.wbBytes State.noteEcc
  dsimp only
  split
  · exact State.storeCells_queues _ _
  · exact (State.touchL2_queues _ _ _).trans (State.storeCells_queues _ _)

theorem State.writeBack_queues (c : CoreId) (line : Nat) : (s.writeBack c line).queues = s.queues := by
  unfold State.writeBack
  split
  · rfl
  · split
    · rfl
    · exact s.wbBytes_queues _

theorem State.writeBackAll_queues (c : CoreId) : (s.writeBackAll c).queues = s.queues :=
  List.foldlRecOn (motive := fun t : State => t.queues = s.queues) _ _ rfl
    fun t ht _ _ => (t.writeBack_queues _ _).trans ht

/-- The reports of a write-back go to the group: the queues are as the write-back itself leaves them. -/
theorem State.writesBack_queues (org : Origin) (f : State → State) : (s.writesBack org f).queues = (f s).queues :=
  List.foldlRecOn (motive := fun t : State => t.queues = (f s).queues) _ _ rfl fun _ ht _ _ => ht

/-- The state in which `LAUNCH` reads its packet: the core's L1 has gone home (R57). -/
def State.homed : State := s.writesBack s.origin (fun s => s.writeBackAll s.core)

theorem State.homed_queue (q : Nat) : s.homed.queue q = s.queue q :=
  congrArg (Tbl.get Queue.reset · q) ((s.writesBack_queues _ _).trans (s.writeBackAll_queues _))

/-! ### What the end of an issue leaves of the queues and the launches -/

@[simp] theorem State.asksHost_queue (pa n q : Nat) : (s.asksHost pa n).queue q = s.queue q := by
  unfold State.asksHost
  split <;> rfl

@[simp] theorem State.asksHost_launches (pa n : Nat) : (s.asksHost pa n).launches = s.launches := by
  unfold State.asksHost
  split <;> rfl

@[simp] theorem State.writeS_queue (d : Opnd) (w : Word) (q : Nat) : (s.writeS d w).queue q = s.queue q := by
  cases d <;> rfl

@[simp] theorem State.writeS_launches (d : Opnd) (w : Word) : (s.writeS d w).launches = s.launches := by
  cases d <;> rfl

@[simp] theorem State.passRound_queue (q : Nat) : s.passRound.queue q = s.queue q := by
  unfold State.passRound
  split <;> rfl

@[simp] theorem State.passRound_launches : s.passRound.launches = s.launches := by
  unfold State.passRound
  split <;> rfl

@[simp] theorem State.fin_queue (h : Hdr) (q : Nat) : (s.fin h).queue q = s.queue q := State.passRound_queue _ _

@[simp] theorem State.fin_launches (h : Hdr) : (s.fin h).launches = s.launches := State.passRound_launches _

/-! ### The number of an accepted packet (R56) -/

section
variable (q ctx : Nat) (who : Option (Nat × Nat)) (addr : Dword) (packet : List Byte)

theorem State.acceptLaunch_launches : ∃ l, (s.acceptLaunch q ctx who addr packet).launches = s.launches ++ [l] ∧
    l.ref = ⟨q, (s.queue q).nextSeq.toNat⟩ := ⟨_, rfl, rfl⟩

theorem State.acceptLaunch_nextSeq :
    ((s.acceptLaunch q ctx who addr packet).queue q).nextSeq = (s.queue q).nextSeq + 1 :=
  congrArg Queue.nextSeq (Tbl.get_set_same _ _ _ _)

end

/-! ### `LAUNCH` -/

/-- A release at DEV scope whose steps can all be taken now writes L1 back and goes on. -/
theorem State.released_dev (hmoves : s.grp.releaseMoves false = true) (hreds : s.grp.redsDone s.grp.issues = true)
    (hwait : s.grp.wait ≠ .release true false) (k : State → Host.Outcome State Fault Refusal) :
    s.released true false k = k s.homed := by
  simp only [State.released, hmoves, hreds, beq_eq_false_iff_ne.2 hwait, State.homed, Bool.not_true, Bool.not_false,
    Bool.true_and, Bool.false_eq_true, if_true, if_false]

/-- The checks of a `LAUNCH` that is accepted at once (R57, R58): some lane executes, queue `q` is there, open to the context
and has room, the packet stands readable at `pa`, and nothing holds the release back. -/
structure State.LaunchAccepted (h : Hdr) (a b : Opnd) (q pa ct : Nat) : Prop where
  lane : s.xs h ≠ []
  queue : q = (s.grp.read b 0).toNat
  listed : q ≤ 63
  enabled : (s.queue q).ctl.getLsbD 3 = true
  granted : (s.queue q).grant.getLsbD s.blk.ctx = true
  packet : s.transl s.core s.blk.ctx .read 64 (s.grp.read64 a 0) = .ok (pa, ct)
  room : (s.launchesOf q).length < 256
  releases : s.grp.releaseMoves false = true
  reduced : s.grp.redsDone s.grp.issues = true
  unheld : s.grp.spadHeld false = false
  unwritten : s.grp.wait ≠ .release true false
  sound : s.homed.badAt pa 64 = false

variable {s}

/-- A `LAUNCH` whose checks pass puts its packet into the queue and the sequence number into D. -/
theorem exec_launch_accepted {h : Hdr} {a b : Opnd} {q pa ct : Nat} (hok : s.LaunchAccepted h a b q pa ct) (d : Opnd) :
    exec (.launch h d a b) s = ((((s.homed.asksHost pa 64).acceptLaunch q s.blk.ctx
      (if s.ctxPriv s.blk.ctx then none else some (s.blk.tenant, s.blk.job)) (s.grp.read64 a 0)
      (s.homed.homeRead pa 64)).writeS d (s.queue q).nextSeq).done h) := by
  obtain ⟨hx, hq, hlisted, henabled, hgranted, hpacket, hroom, hmoves, hreds, hspad, hwait, hsound⟩ := hok
  have haccepts : (s.queue q).accepts s.blk.ctx = true := by
    rw [Queue.accepts, Queue.enabled, henabled, hgranted, Bool.and_self]
  subst hq
  change execLaunch h d a b s = _
  simp only [execLaunch, Group.once, Group.once64, List.isEmpty_eq_false_iff.2 hx, Nat.not_lt.2 hlisted, haccepts, hpacket,
    Nat.not_le.2 hroom, hspad, State.released_dev s hmoves hreds hwait, hsound, Bool.not_true, Bool.false_eq_true, if_false]

/-- The launch stands behind those of the device under the queue's NEXTSEQ, which has risen. -/
theorem launch_takes_nextSeq {h : Hdr} {a b : Opnd} {q pa ct : Nat} (hok : s.LaunchAccepted h a b q pa ct) (d : Opnd) :
    ∃ t l, exec (.launch h d a b) s = .next t ∧ t.launches = s.homed.launches ++ [l] ∧
      l.ref = ⟨q, (s.queue q).nextSeq.toNat⟩ ∧ (t.queue q).nextSeq = (s.queue q).nextSeq + 1 := by
  have hqueue : (s.homed.asksHost pa 64).queue q = s.queue q := (State.asksHost_queue _ _ _ _).trans (s.homed_queue q)
  obtain ⟨l, hl, href⟩ := (s.homed.asksHost pa 64).acceptLaunch_launches q s.blk.ctx
    (if s.ctxPriv s.blk.ctx then none else some (s.blk.tenant, s.blk.job)) (s.grp.read64 a 0) (s.homed.homeRead pa 64)
  refine ⟨_, l, exec_launch_accepted hok d, ?_, ?_, ?_⟩
  · rw [State.fin_launches, State.writeS_launches, hl, State.asksHost_launches]
  · rw [href, hqueue]
  · rw [State.fin_queue, State.writeS_queue, State.acceptLaunch_nextSeq, hqueue]

/-! ### LAUNCHID -/

/-- A read of LAUNCHID needs no right and takes nothing from a log (R98, R403). -/
theorem exec_csrr_launchId {h : Hdr} (hx : s.xs h ≠ []) (d : Opnd) :
    exec (.csrr h d 0x013) s = (s.writeS d (launchId s.blk.ref.launch)).done h := by
  change (if (s.xs h).isEmpty then s.done h else (s.writeS d (s.csrRead 0x013)).done h) = _
  rw [List.isEmpty_eq_false_iff.2 hx]
  rfl

/-- A scalar that an instruction wrote stands after the end of its issue. -/
theorem State.writeS_done_sreg (hs : Seated s) (h : Hdr) (n : BitVec 6) (w : Word) :
    ∃ t, (s.writeS (.s n) w).done h = .next t ∧ t.grp.sreg n.toNat = w := by
  obtain ⟨r, hr⟩ := State.finTo_put hs (s.grp.setS n.toNat w) s.free s.rounds h (fun _ p => pcNext p)
  refine ⟨_, congrArg Host.Outcome.next hr, ?_⟩
  rw [State.put_grp hs, Group.ended_sreg, Group.sreg_setS_same]

/-- `w` bits of LAUNCHID from bit `k` on. -/
theorem launchId_bits (l : LaunchRef) (k w : Nat) :
    ((launchId l).extractLsb' k w).toNat = (l.queue % 64 * 2 ^ 24 + l.seq % 2 ^ 24) / 2 ^ k % 2 ^ w := by
  have hid : (launchId l).toNat = l.queue % 64 * 2 ^ 24 + l.seq % 2 ^ 24 := by
    rw [launchId, BitVec.toNat_ofNat]
    omega
  rw [BitVec.extractLsb'_toNat, hid, Nat.shiftRight_eq_div_pow]

theorem launchId_reserved (l : LaunchRef) : (launchId l).extractLsb' 30 2 = 0 := by
  refine BitVec.eq_of_toNat_eq ((launchId_bits l 30 2).trans ?_)
  show _ = 0
  omega

theorem launchId_queue (l : LaunchRef) : (launchId l).extractLsb' 24 6 = BitVec.ofNat 6 l.queue := by
  refine BitVec.eq_of_toNat_eq ((launchId_bits l 24 6).trans ?_)
  rw [BitVec.toNat_ofNat]
  omega

theorem launchId_seq (l : LaunchRef) : (launchId l).extractLsb' 0 24 = BitVec.ofNat 24 l.seq := by
  refine BitVec.eq_of_toNat_eq ((launchId_bits l 0 24).trans ?_)
  rw [BitVec.toNat_ofNat]
  omega

/-! ### The obligation -/

/-- Settles O48: neither the release nor the end of the issue changes NEXTSEQ, so the launch takes it as it stood and it rises
once; `CSRR` of LAUNCHID reads the number whose three fields `launchId` puts side by side. -/
theorem launchNumbers : Obligations.LaunchNumbers := by
  unfold Obligations.LaunchNumbers
  intro s h n a b hs hx
  refine ⟨fun pa ct q hq hlisted henabled hgranted hpacket hroom hmoves hreds hspad hwait hsound => ?_, ?_⟩
  · obtain ⟨t, l, ht, hl, href, hnext⟩ := launch_takes_nextSeq
      ⟨hx, hq, hlisted, henabled, hgranted, hpacket, hroom, hmoves, hreds, hspad, hwait, hsound⟩ (.s n)
    refine ⟨t, l, ht, hl, congrArg LaunchRef.queue href, congrArg LaunchRef.seq href, ?_⟩
    rw [hnext, BitVec.toNat_add]
    rfl
  · obtain ⟨t, ht, hv⟩ := State.writeS_done_sreg hs h n (launchId s.blk.ref.launch)
    refine ⟨t, _, (exec_csrr_launchId hx _).trans ht, rfl, ?_⟩
    rw [hv]
    exact ⟨launchId_reserved _, launchId_queue _, launchId_seq _⟩

end Sys2Proof.Machine
end
